-- ==== Sys2Proof/Word.lean ====
section
/-! DEFINITION. The word types of the Yolin 2240 and their plainest arithmetic (spec 03 R79, 05 R129). -/

namespace Sys2Proof

/-- A scalar register (05 R129). -/
abbrev Word := BitVec 64

/-- A 32-bit instruction word or vector lane (02 R50, 08 R228). -/
abbrev Word32 := BitVec 32

/-- One byte of a row (04 R102). -/
abbrev Byte := BitVec 8

/-- A tensor handle h0-h31 (05 R131). -/
abbrev Handle := BitVec 256

end Sys2Proof
end

