-- ==== Sys2Proof/Machine/Store.lean ====
section
/-! DEFINITION. Sparse maps from numbers to values in one canonical form: keys strictly rising, no entry equal to
the default. Every memory and register file of the machine is such a map; a byte memory is exactly a list of
(address, byte) cells. -/

namespace Sys2Proof.Machine

/-- A sparse map: what an unlisted key reads as is the caller's default. -/
abbrev FMap (α : Type) := List (Nat × α)

/-- The value at key `i`, the default `d` when none is listed. -/
def FMap.get {α : Type} (d : α) : FMap α → Nat → α
  | [], _ => d
  | (k, v) :: r, i => if k = i then v else FMap.get d r i

/-- Insert or replace the entry of key `i`, keeping the keys rising. -/
def FMap.put {α : Type} (i : Nat) (v : α) : FMap α → FMap α
  | [] => [(i, v)]
  | (k, w) :: r =>
    if i < k then (i, v) :: (k, w) :: r
    else if k = i then (i, v) :: r
    else (k, w) :: FMap.put i v r

/-- Remove the entry of key `i`. -/
def FMap.drop {α : Type} (i : Nat) : FMap α → FMap α
  | [] => []
  | (k, w) :: r => if k = i then FMap.drop i r else (k, w) :: FMap.drop i r

/-- Write `v` at key `i`; writing the default removes the entry, so equal maps are equal lists. -/
def FMap.set {α : Type} [DecidableEq α] (d : α) (m : FMap α) (i : Nat) (v : α) : FMap α :=
  if v = d then FMap.drop i m else FMap.put i v m

/-- Every listed key is above `b` and the keys rise strictly, with no entry equal to the default. -/
def FMap.wfFrom {α : Type} [DecidableEq α] (d : α) : Option Nat → FMap α → Bool
  | _, [] => true
  | b, (k, v) :: r => (match b with | none => true | some x => decide (x < k)) && decide (v ≠ d) && FMap.wfFrom d (some k) r

/-- The canonical form of a sparse map. -/
def FMap.wf {α : Type} [DecidableEq α] (d : α) (m : FMap α) : Bool := FMap.wfFrom d none m

/-- Apply `f` to the value at key `i`. -/
def FMap.modify {α : Type} [DecidableEq α] (d : α) (m : FMap α) (i : Nat) (f : α → α) : FMap α :=
  m.set d i (f (m.get d i))

/-- The `n` values from key `a` on. -/
def FMap.slice {α : Type} (d : α) (m : FMap α) (a n : Nat) : List α :=
  (List.range' a n).map (FMap.get d m)

/-- Write a list of values from key `a` on. -/
def FMap.splice {α : Type} [DecidableEq α] (d : α) (m : FMap α) (a : Nat) : List α → FMap α
  | [] => m
  | v :: r => FMap.splice d (m.set d a v) (a + 1) r

/-- One map of two; the first stands where both list a key. -/
def FMap.weave {α : Type} : FMap α → FMap α → FMap α
  | [], m => m
  | (k, v) :: r, m => m.takeWhile (fun p => p.1 < k) ++ (k, v) :: FMap.weave r (m.dropWhile (fun p => p.1 ≤ k))

/-- A map from a dense list, the defaults left out. -/
def FMap.ofList {α : Type} [DecidableEq α] (d : α) (a : Nat) : List α → FMap α
  | [] => []
  | v :: r => if v = d then FMap.ofList d (a + 1) r else (a, v) :: FMap.ofList d (a + 1) r

/-! ### Byte memory -/

/-- A byte memory (host form: a list of cells). -/
abbrev Memory := FMap Byte

/-- What an unlisted byte reads as: 0 (log entry 2). -/
def Memory.unlisted : Byte := 0

/-- Read one byte. -/
def Memory.read (m : Memory) (a : Nat) : Byte := FMap.get Memory.unlisted m a

/-- Write one byte, keeping the canonical form. -/
def Memory.write (m : Memory) (a : Nat) (b : Byte) : Memory := FMap.set Memory.unlisted m a b

/-- Read `n` bytes from address `a` on. -/
def Memory.readBytes (m : Memory) (a n : Nat) : List Byte := (List.range' a n).map (Memory.read m)

/-- Write a list of bytes from address `a` on. -/
def Memory.writeBytes (m : Memory) (a : Nat) : List Byte → Memory
  | [] => m
  | b :: r => Memory.writeBytes (m.write a b) (a + 1) r

/-- The memory with every byte of a range unlisted. -/
def Memory.scrub (m : Memory) (a n : Nat) : Memory := m.filter (fun p => p.1 < a || a + n ≤ p.1)

/-- The memory with a range of bytes replaced whole: as writing them one after the other. -/
def Memory.replace (m : Memory) (a : Nat) (d : List Byte) : Memory :=
  FMap.weave (m.scrub a d.length) (FMap.ofList Memory.unlisted a d)

/-- The canonical form of a byte memory. -/
def Memory.wf (m : Memory) : Bool := FMap.wf Memory.unlisted m

/-! ### Little-endian byte lists (03 R79) -/

/-- The number a little-endian byte list stands for. -/
def leNat : List Byte → Nat
  | [] => 0
  | b :: r => b.toNat + 256 * leNat r

/-- The `n` little-endian bytes of a number. -/
def leBytes : Nat → Nat → List Byte
  | 0, _ => []
  | n + 1, x => BitVec.ofNat 8 x :: leBytes n (x / 256)

/-- Bytes `i` to `i + n - 1` of a list, zero beyond its end, as a number. -/
def leAt (bs : List Byte) (i n : Nat) : Nat := leNat ((bs.drop i).take n)

/-- Replace bytes from index `i` on. -/
def patchBytes (bs : List Byte) (i : Nat) (new : List Byte) : List Byte :=
  bs.take i ++ new ++ bs.drop (i + new.length)

/-- Cut or zero-extend a byte list to `n` bytes. -/
def padTo (n : Nat) (bs : List Byte) : List Byte :=
  bs.take n ++ List.replicate (n - bs.length) 0

/-- Whether every byte of a list is zero. -/
def allZero (bs : List Byte) : Bool := bs.all (· == 0)

/-- Bits [hi:lo] of a number. -/
def bitsOf (x hi lo : Nat) : Nat := (x / 2 ^ lo) % 2 ^ (hi + 1 - lo)

/-- Bit i of a number. -/
def bitOf (x i : Nat) : Bool := (x / 2 ^ i) % 2 = 1

/-- A number with bit i set. -/
def setBit (x i : Nat) : Nat := if bitOf x i then x else x + 2 ^ i

/-- A number with bit i cleared. -/
def clearBit (x i : Nat) : Nat := if bitOf x i then x - 2 ^ i else x

/-- The signed value of the low `w` bits. -/
def signedOf (w x : Nat) : Int :=
  let y := x % 2 ^ w
  if y < 2 ^ (w - 1) then (y : Int) else (y : Int) - (2 ^ w : Nat)

/-- The low `w` bits of an integer. -/
def wrapInt (w : Nat) (i : Int) : Nat := (i % ((2 ^ w : Nat) : Int)).toNat

/-- ⌈a / b⌉. -/
def ceilDiv (a b : Nat) : Nat := (a + b - 1) / b

/-- Replace element `i` of a list. -/
def setAt {α : Type} (l : List α) (i : Nat) (v : α) : List α := l.set i v

end Sys2Proof.Machine
end

