-- ==== Sys2Proof/Machine/Numeric.lean ====
section
/-! DEFINITION. Number formats and exact arithmetic (spec 03): exact values, rounding, conversions, IEEE arithmetic, the
fixed trees, and correctly rounded exponentials. Every operation returns its value with the flags it raises. -/

namespace Sys2Proof.Machine

/-! ### Flags (03 R99) -/

def flagNV : Nat := 1
def flagOF : Nat := 2
def flagNX : Nat := 4
def flagUF : Nat := 8
def flagDZ : Nat := 16

/-- A flag mask when a condition holds. -/
def flagIf (c : Bool) (f : Nat) : Nat := if c then f else 0

/-! ### Exact values -/

/-- An exact value ±m·2^e, or, where `sticky`, a value between it and the next multiple of 2^e away from zero. `lam` is
the lowest place of 03 R94, none for a value whose expansion does not end. -/
structure Exact where
  neg : Bool
  m : Nat
  e : Int
  sticky : Bool := false
  lam : Option Int
deriving DecidableEq, Repr

/-- A value of a number format: NaN, an infinity, or a number (03 R81). -/
inductive Num where
  | nan
  | inf (neg : Bool)
  | fin (x : Exact)
deriving DecidableEq, Repr

/-- A rounding mode with the random word of a stochastic rounding (03 R91, R94). -/
inductive Rnd where
  | rne
  | rz
  | sr (word : Nat)
deriving DecidableEq, Repr

/-- The rounding mode of a code (03 R91). -/
def Rnd.ofCode (c word : Nat) : Rnd :=
  match c with
  | 0 => .rne
  | 1 => .rz
  | _ => .sr word

/-- A power of two for a non-negative exponent. -/
def pow2 (i : Int) : Nat := 2 ^ i.toNat

/-- m·2^(e−u) for u ≤ e. -/
def scaleUp (m : Nat) (e u : Int) : Nat := m * pow2 (e - u)

/-- Rounding |x| / 2^u to a whole number under a mode (03 R91, R94); the second part tells whether it is inexact. -/
def roundAt (mode : Rnd) (u : Int) (x : Exact) : Nat × Bool :=
  let y : Exact := if u ≤ x.e ∧ x.sticky then { x with m := scaleUp x.m x.e (u - 2), e := u - 2 } else x
  if u ≤ y.e then (scaleUp y.m y.e u, false)
  else
    let p := pow2 (u - y.e)
    let q := y.m / p
    let rem := y.m % p
    let inexact := rem ≠ 0 || y.sticky
    match mode with
    | .rz => (q, inexact)
    | .rne =>
      if 2 * rem > p || (2 * rem = p && (y.sticky || q % 2 = 1)) then (q + 1, inexact) else (q, inexact)
    | .sr word =>
      if !inexact then (q, false)
      else
        let d : Nat := match y.lam with
          | none => 64
          | some l => min 64 (u - l).toNat
        let r := word % 2 ^ d
        if y.neg then
          let num := (p - rem) * 2 ^ d
          let big := if y.sticky ∧ num % p = 0 then num / p - 1 else num / p
          if big + r ≥ 2 ^ d then (q, true) else (q + 1, true)
        else
          let big := rem * 2 ^ d / p
          if big + r ≥ 2 ^ d then (q + 1, true) else (q, true)

/-! ### Floating-point formats (03 R81, R82) -/

/-- A binary floating-point format. `kind` is 0 for infinities and NaNs as in f32, 1 for e4m3, 2 for e2m1. -/
structure FloatFmt where
  expBits : Nat
  manBits : Nat
  bias : Nat
  kind : Nat
deriving DecidableEq, Repr

def f32F : FloatFmt := ⟨8, 23, 127, 0⟩
def f16F : FloatFmt := ⟨5, 10, 15, 0⟩
def bf16F : FloatFmt := ⟨8, 7, 127, 0⟩
def e5m2F : FloatFmt := ⟨5, 2, 15, 0⟩
def e4m3F : FloatFmt := ⟨4, 3, 7, 1⟩
def e2m1F : FloatFmt := ⟨2, 1, 1, 2⟩

/-- Bits of a format. -/
def FloatFmt.width (f : FloatFmt) : Nat := 1 + f.expBits + f.manBits

/-- The place of the smallest subnormal. -/
def FloatFmt.minPlace (f : FloatFmt) : Int := 1 - (f.bias : Int) - f.manBits

/-- The magnitude bits of the largest finite value (03 R82). -/
def FloatFmt.maxBits (f : FloatFmt) : Nat :=
  match f.kind with
  | 0 => (2 ^ f.expBits - 1) * 2 ^ f.manBits - 1
  | 1 => 0x7E
  | _ => 0x7

/-- The canonical NaN (03 R82). -/
def FloatFmt.nanBits (f : FloatFmt) : Nat :=
  match f.kind with
  | 0 => (2 ^ f.expBits - 1) * 2 ^ f.manBits + 2 ^ (f.manBits - 1)
  | 1 => 0x7F
  | _ => 0

/-- The magnitude bits of infinity. -/
def FloatFmt.infBits (f : FloatFmt) : Nat := (2 ^ f.expBits - 1) * 2 ^ f.manBits

/-- The sign bit. -/
def FloatFmt.signBit (f : FloatFmt) (neg : Bool) : Nat := if neg then 2 ^ (f.expBits + f.manBits) else 0

/-- The value of a pattern (03 R81). -/
def FloatFmt.value (f : FloatFmt) (bits : Nat) : Num :=
  let neg := bitOf bits (f.expBits + f.manBits)
  let mag := bits % 2 ^ (f.expBits + f.manBits)
  let ef := mag / 2 ^ f.manBits
  let mf := mag % 2 ^ f.manBits
  if f.kind = 0 ∧ ef = 2 ^ f.expBits - 1 then (if mf = 0 then .inf neg else .nan)
  else if f.kind = 1 ∧ mag = 0x7F then .nan
  else if ef = 0 then .fin { neg := neg, m := mf, e := f.minPlace, lam := some f.minPlace }
  else
    let e : Int := (ef : Int) - f.bias - f.manBits
    .fin { neg := neg, m := 2 ^ f.manBits + mf, e := e, lam := some e }

/-- Magnitude bits of q·2^u, where u is a place of the format's grid and q ≤ 2^(manBits+1). -/
def FloatFmt.encodeMag (f : FloatFmt) (q : Nat) (u : Int) : Nat :=
  if q < 2 ^ f.manBits then q
  else if q < 2 ^ (f.manBits + 1) then ((u - f.minPlace + 1).toNat) * 2 ^ f.manBits + (q - 2 ^ f.manBits)
  else ((u - f.minPlace + 2).toNat) * 2 ^ f.manBits

/-- A rounding to a format with an unbounded exponent: magnitude bits (as if the exponent field had no top), whether it
was inexact, and whether the value lay below the smallest normal before rounding (03 R91). -/
structure Rounded where
  mag : Nat
  inexact : Bool
  tiny : Bool
deriving DecidableEq, Repr

/-- Round a finite value to a format's grid (03 R91, R94). -/
def FloatFmt.round (f : FloatFmt) (mode : Rnd) (x : Exact) : Rounded :=
  if x.m = 0 && !x.sticky then ⟨0, false, false⟩
  else
    let k : Int := x.e + Nat.log2 x.m
    let emin : Int := 1 - (f.bias : Int)
    let u : Int := (if k < emin then emin else k) - f.manBits
    let r := roundAt mode u x
    ⟨f.encodeMag r.1 u, r.2, decide (k < emin)⟩

/-- A result that keeps its format: overflow as IEEE rounds it, e4m3 saturating (03 R83). -/
def FloatFmt.arith (f : FloatFmt) (mode : Rnd) (x : Exact) : Nat × Nat :=
  let r := f.round mode x
  if r.mag > f.maxBits then
    let m := if f.kind = 0 ∧ mode ≠ .rz then f.infBits else f.maxBits
    (f.signBit x.neg + m, flagOF + flagNX)
  else (f.signBit x.neg + r.mag, flagIf r.inexact flagNX + flagIf (r.inexact && r.tiny) flagUF)

/-- The element formats an instruction converts between (05 R132 codes 0x00 to 0x0D). -/
inductive ElemFmt where
  | int (w : Nat) (signed : Bool)
  | flt (f : FloatFmt)
deriving DecidableEq, Repr

/-- Width in bits. -/
def ElemFmt.width : ElemFmt → Nat
  | .int w _ => w
  | .flt f => f.width

/-- The value of an element. -/
def ElemFmt.value (t : ElemFmt) (bits : Nat) : Num :=
  match t with
  | .flt f => f.value bits
  | .int w true => let v := signedOf w bits; .fin { neg := decide (v < 0), m := v.natAbs, e := 0, lam := some 0 }
  | .int w false => .fin { neg := false, m := bits % 2 ^ w, e := 0, lam := some 0 }

/-- Conversion to an integer format (03 R92). -/
def convertInt (w : Nat) (signed : Bool) (mode : Rnd) (v : Num) : Nat × Nat :=
  let hi : Int := if signed then 2 ^ (w - 1) - 1 else 2 ^ w - 1
  let lo : Int := if signed then -(2 ^ (w - 1)) else 0
  match v with
  | .nan => (0, flagNV)
  | .inf neg => (wrapInt w (if neg then lo else hi), flagNV)
  | .fin x =>
    if !signed && x.neg && (x.m ≠ 0 || x.sticky) then (0, flagOF)
    else
      let r := roundAt mode 0 x
      let i : Int := if x.neg then -(r.1 : Int) else r.1
      if i > hi then (wrapInt w hi, flagOF)
      else if i < lo then (wrapInt w lo, flagOF)
      else (wrapInt w i, flagIf r.2 flagNX)

/-- Conversion to a floating-point format; `ieee` selects the IEEE-like mode of e4m3 (03 R92, R93). -/
def convertFloat (f : FloatFmt) (ieee : Bool) (mode : Rnd) (v : Num) : Nat × Nat :=
  match v with
  | .nan => (f.nanBits, if f.kind = 2 then flagNV else 0)
  | .inf neg =>
    if f.kind = 0 then (f.signBit neg + f.infBits, 0)
    else if f.kind = 1 ∧ ieee then (f.nanBits, flagNV)
    else (f.signBit neg + f.maxBits, flagOF)
  | .fin x =>
    let r := f.round mode x
    if r.mag > f.maxBits then
      (if f.kind = 1 ∧ ieee then f.nanBits else f.signBit x.neg + f.maxBits, flagOF)
    else (f.signBit x.neg + r.mag, flagIf r.inexact flagNX + flagIf (r.inexact && r.tiny) flagUF)

/-- Conversion to an element format (03 R92). -/
def convertNum (t : ElemFmt) (ieee : Bool) (mode : Rnd) (v : Num) : Nat × Nat :=
  match t with
  | .int w s => convertInt w s mode v
  | .flt f => convertFloat f ieee mode v

/-! ### Arithmetic (03 R83) -/

/-- Drop the lowest place of zero: operands of zero are left out of 03 R94. -/
def Exact.lamOf (x : Exact) : Option Int := if x.m = 0 then none else x.lam

/-- The lower of two lowest places, a missing one left out. -/
def minLam : Option Int → Option Int → Option Int
  | none, b => b
  | a, none => a
  | some a, some b => some (if a ≤ b then a else b)

/-- The signed numerator at place `u`. -/
def Exact.at (x : Exact) (u : Int) : Int := (if x.neg then -1 else 1) * (scaleUp x.m x.e u : Int)

/-- The exact sum; a zero sum is −0 only when both terms are negative. -/
def Exact.add (x y : Exact) : Exact :=
  let u := if x.e ≤ y.e then x.e else y.e
  let s := x.at u + y.at u
  { neg := if s = 0 then x.neg && y.neg else decide (s < 0), m := s.natAbs, e := u, lam := minLam x.lamOf y.lamOf }

/-- The exact product. -/
def Exact.mul (x y : Exact) : Exact :=
  { neg := x.neg != y.neg, m := x.m * y.m, e := x.e + y.e,
    lam := match x.lam, y.lam with
      | some a, some b => some (a + b)
      | _, _ => none }

/-- The negation. -/
def Num.neg : Num → Num
  | .nan => .nan
  | .inf n => .inf (!n)
  | .fin x => .fin { x with neg := !x.neg }

/-- Exact addition of values: NaN with NV for ∞ − ∞. -/
def Num.add (a b : Num) : Num × Nat :=
  match a, b with
  | .nan, _ => (.nan, 0)
  | _, .nan => (.nan, 0)
  | .inf x, .inf y => if x = y then (.inf x, 0) else (.nan, flagNV)
  | .inf x, .fin _ => (.inf x, 0)
  | .fin _, .inf y => (.inf y, 0)
  | .fin x, .fin y => (.fin (x.add y), 0)

/-- Exact multiplication: NaN with NV for 0 × ∞. -/
def Num.mul (a b : Num) : Num × Nat :=
  match a, b with
  | .nan, _ => (.nan, 0)
  | _, .nan => (.nan, 0)
  | .inf x, .inf y => (.inf (x != y), 0)
  | .inf x, .fin y => if y.m = 0 then (.nan, flagNV) else (.inf (x != y.neg), 0)
  | .fin x, .inf y => if x.m = 0 then (.nan, flagNV) else (.inf (x.neg != y), 0)
  | .fin x, .fin y => (.fin (x.mul y), 0)

/-- Round an exact result into its own format. -/
def FloatFmt.finish (f : FloatFmt) (mode : Rnd) (v : Num × Nat) : Nat × Nat :=
  match v.1 with
  | .nan => (f.nanBits, v.2)
  | .inf neg => if f.kind = 0 then (f.signBit neg + f.infBits, v.2) else (f.signBit neg + f.maxBits, v.2)
  | .fin x => let r := f.arith mode x; (r.1, v.2 ||| r.2)

/-- Addition in a format. -/
def FloatFmt.add (f : FloatFmt) (mode : Rnd) (a b : Nat) : Nat × Nat := f.finish mode (Num.add (f.value a) (f.value b))

/-- Subtraction. -/
def FloatFmt.sub (f : FloatFmt) (mode : Rnd) (a b : Nat) : Nat × Nat :=
  f.finish mode (Num.add (f.value a) (f.value b).neg)

/-- Multiplication. -/
def FloatFmt.mul (f : FloatFmt) (mode : Rnd) (a b : Nat) : Nat × Nat := f.finish mode (Num.mul (f.value a) (f.value b))

/-- a·b + c with one rounding. -/
def FloatFmt.fma (f : FloatFmt) (mode : Rnd) (a b c : Nat) : Nat × Nat :=
  let p := Num.mul (f.value a) (f.value b)
  let s := Num.add p.1 (f.value c)
  f.finish mode (s.1, p.2 ||| s.2)

/-- Comparison of finite values: x < y. -/
def Exact.lt (x y : Exact) : Bool :=
  let u := if x.e ≤ y.e then x.e else y.e
  decide (x.at u < y.at u)

/-- x = y as values, −0 equal to +0. -/
def Exact.eqv (x y : Exact) : Bool :=
  let u := if x.e ≤ y.e then x.e else y.e
  decide (x.at u = y.at u)

/-- a < b, false with a NaN. -/
def Num.lt : Num → Num → Bool
  | .nan, _ => false
  | _, .nan => false
  | .inf x, .inf y => x && !y
  | .inf x, .fin _ => x
  | .fin _, .inf y => !y
  | .fin x, .fin y => x.lt y

/-- a = b, false with a NaN. -/
def Num.eqv : Num → Num → Bool
  | .nan, _ => false
  | _, .nan => false
  | .inf x, .inf y => x == y
  | .inf _, .fin _ => false
  | .fin _, .inf _ => false
  | .fin x, .fin y => x.eqv y

/-- The sign of a value. -/
def Num.isNeg : Num → Bool
  | .nan => false
  | .inf n => n
  | .fin x => x.neg

/-- a before b in the order of minimum and maximum: −0 below +0 (03 R83). -/
def Num.below (a b : Num) : Bool := a.lt b || (a.eqv b && a.isNeg && !b.isNeg)

/-- Minimum of patterns (03 R83). -/
def FloatFmt.minOf (f : FloatFmt) (a b : Nat) : Nat :=
  match f.value a, f.value b with
  | .nan, .nan => f.nanBits
  | .nan, _ => b
  | _, .nan => a
  | x, y => if y.below x then b else a

/-- Maximum of patterns (03 R83). -/
def FloatFmt.maxOf (f : FloatFmt) (a b : Nat) : Nat :=
  match f.value a, f.value b with
  | .nan, .nan => f.nanBits
  | .nan, _ => b
  | _, .nan => a
  | x, y => if x.below y then b else a

/-- The value of a whole number times a power of two. -/
def intExact (i : Int) (e : Int) : Exact := { neg := decide (i < 0), m := i.natAbs, e := e, lam := some e }

/-- round_nearest_even_f32 of an exact value, as device arithmetic (03 R83). -/
def rneF32 (x : Exact) : Nat := (f32F.arith .rne x).1

/-- f32 addition to nearest even. -/
def addF32 (a b : Nat) : Nat := (f32F.add .rne a b).1
/-- f32 multiplication to nearest even. -/
def mulF32 (a b : Nat) : Nat := (f32F.mul .rne a b).1
/-- f32 fused multiply-add to nearest even. -/
def fmaF32 (a b c : Nat) : Nat := (f32F.fma .rne a b c).1

/-- An exact quotient with enough bits for any rounding of this spec, sticky where it does not end. -/
def ratio (neg : Bool) (num den : Nat) : Exact :=
  if den = 0 then { neg := neg, m := 0, e := 0, lam := none }
  else
    let sh := 200 + Nat.log2 den
    let n := num * 2 ^ sh
    { neg := neg, m := n / den, e := -(sh : Int), sticky := decide (n % den ≠ 0), lam := none }

/-! ### Fixed trees (03 R95, R96) -/

/-- Combine two optional children of a node. -/
def nodeOp {α : Type} (op : α → α → α) : Option α → Option α → Option α
  | some a, some b => some (op a b)
  | some a, none => some a
  | none, b => b

/-- One level of the tree. -/
def pairUp {α : Type} (op : α → α → α) : List (Option α) → List (Option α)
  | a :: b :: r => nodeOp op a b :: pairUp op r
  | [a] => [a]
  | [] => []

/-- The root of the tree over the given leaves, absent leaves as none; `fuel` bounds the levels (03 R95). -/
def treeFold {α : Type} (op : α → α → α) : Nat → List (Option α) → Option α
  | _, [] => none
  | _, [a] => a
  | 0, a :: _ => a
  | fuel + 1, l => treeFold op fuel (pairUp op l)

/-- The tree over present leaves. -/
def tree {α : Type} (op : α → α → α) (l : List α) : Option α := treeFold op 64 (l.map some)

/-- The aligned runs that make up a prefix of length n, longest first (03 R96). -/
def prefixRuns : Nat → Nat → List Nat
  | 0, _ => []
  | b + 1, n => if 2 ^ b ≤ n then 2 ^ b :: prefixRuns b (n - 2 ^ b) else prefixRuns b n

/-- The values of the runs of a list. -/
def runValues {α : Type} (op : α → α → α) : List Nat → List α → List α
  | [], _ => []
  | n :: r, l => (match tree op (l.take n) with | some v => [v] | none => []) ++ runValues op r (l.drop n)

/-- Fold the run values left to right. -/
def foldRuns {α : Type} (op : α → α → α) : List α → Option α
  | [] => none
  | a :: r => some (r.foldl op a)

/-- The first i + 1 elements combined as the inclusive scan of 03 R96 combines them. -/
def scanAt {α : Type} (op : α → α → α) (l : List α) (i : Nat) : Option α :=
  foldRuns op (runValues op (prefixRuns 32 (i + 1)) l)

/-! ### Exponentials: correct rounding by fixed-point arithmetic (log entry 14) -/

/-- Bits of the fixed point. -/
def fxBits : Nat := 320

/-- ln 2 in units of 2^-320, truncated. -/
def ln2Fx : Nat :=
  0xb17217f7d1cf79abc9e3b39803f2f6af40f343267298b62d8a0d175b8baafa2be7b876206debac98

/-- exp of r in [0, 1), in units of 2^-320, by the Taylor series with `fuel` terms. -/
def expTaylor (r : Nat) : Nat → Nat → Nat → Nat → Nat
  | 0, _, _, acc => acc
  | fuel + 1, n, t, acc => expTaylor r fuel (n + 1) (t * r / 2 ^ fxBits / n) (acc + t)

/-- exp of a fixed-point number below one. -/
def expFx (r : Nat) : Nat := expTaylor r 90 1 (2 ^ fxBits) 0

/-- x / ln 2 rounded down, and the remainder x − k·ln 2 in units of 2^-320, for x in those units. -/
def splitLn2 (x : Int) : Int × Nat :=
  let k := x / (ln2Fx : Int)
  (k, (x - k * (ln2Fx : Int)).toNat)

/-- An exact value in units of 2^-320, truncated toward −∞. -/
def Exact.fx (x : Exact) : Int :=
  let s : Int := if x.neg then -1 else 1
  if -(fxBits : Int) ≤ x.e then s * (scaleUp x.m x.e (-(fxBits : Int)) : Int)
  else s * (x.m : Int) / (pow2 (-(fxBits : Int) - x.e) : Int)

/-- exp of an exact value. -/
def Exact.exp (x : Exact) : Exact :=
  if x.m = 0 then { neg := false, m := 1, e := 0, lam := some 0 }
  else
    let p := splitLn2 x.fx
    { neg := false, m := expFx p.2, e := p.1 - fxBits, sticky := true, lam := none }

/-- 2 to the power of an exact value. -/
def Exact.exp2 (x : Exact) : Exact :=
  let v := x.fx
  let k := v / (2 ^ fxBits : Int)
  let frac := (v - k * (2 ^ fxBits : Int)).toNat
  if frac = 0 then { neg := false, m := 1, e := k, lam := some k }
  else { neg := false, m := expFx (frac * ln2Fx / 2 ^ fxBits), e := k - fxBits, sticky := true, lam := none }

/-! ### Bit counts and division (03 R97, R98) -/

/-- Leading zeros of a w-bit pattern. -/
def clzOf (w x : Nat) : Nat := let y := x % 2 ^ w; if y = 0 then w else w - 1 - Nat.log2 y

/-- Index of the lowest set bit below w, or w. -/
def ffsOf (w x : Nat) : Nat := ((List.range w).find? (fun i => bitOf x i)).getD w

/-- Set bits below w. -/
def popcOf (w x : Nat) : Nat := (List.range w).foldl (fun n i => if bitOf x i then n + 1 else n) 0

/-- Signed quotient and flags (03 R98). -/
def divS (w x y : Nat) : Nat × Nat :=
  let a := signedOf w x; let b := signedOf w y
  if b = 0 then (2 ^ w - 1, flagDZ)
  else if a = -(2 ^ (w - 1) : Int) ∧ b = -1 then (2 ^ (w - 1), flagOF)
  else (wrapInt w (Int.tdiv a b), 0)

/-- Signed remainder and flags (03 R98). -/
def remS (w x y : Nat) : Nat × Nat :=
  let a := signedOf w x; let b := signedOf w y
  if b = 0 then (x % 2 ^ w, flagDZ)
  else if a = -(2 ^ (w - 1) : Int) ∧ b = -1 then (0, flagOF)
  else (wrapInt w (Int.tmod a b), 0)

/-- Unsigned quotient and flags (03 R98). -/
def divU (w x y : Nat) : Nat × Nat :=
  if y % 2 ^ w = 0 then (2 ^ w - 1, flagDZ) else (x % 2 ^ w / (y % 2 ^ w), 0)

/-- Unsigned remainder and flags (03 R98). -/
def remU (w x y : Nat) : Nat × Nat :=
  if y % 2 ^ w = 0 then (x % 2 ^ w, flagDZ) else (x % 2 ^ w % (y % 2 ^ w), 0)

end Sys2Proof.Machine
end

