-- ==== Sys2Proof/Config.lean ====
section
/-! DEFINITION. What one implementation fixes and what the spec leaves open: the constants of the device, and the
free values, which are opaque constants applied to a plain counter of State (log entries 5 to 8). -/

namespace Sys2Proof.Config

/-- Extra wall cycles of an untimed engine beyond the lower bound its chapter gives (10 R315, 14 R401): a free
value (log entry 5). -/
opaque slack : Nat → Nat

/-- Which of the values that a row held while an untimed engine could read it the engine returns (04 R111, R122; log entry 103). -/
opaque whichRow : Nat → Nat → Nat

/-- A free 64-bit value, where a value results and the spec does not say which (log entries 6 and 12). -/
opaque freeWord : Nat → Word

/-- The phase of the CK frame against the wall cycle, which a first release meets (01 R12, R20; log entry 11): CK edges
fall where the wall cycle plus this is 0, 3, 6 or 9 modulo 11. -/
opaque ckPhase : Nat

/-- What a mode register of a channel's subchannel holds, where no program has written it (09 R274; log entry 7). -/
opaque modeReg : Nat → Byte

/-- Whether the firmware's configuration gives a channel correction mode D, and the count of corrected bursts at which it has the
channel report (09 R292; log entry 19); by the firmware image and the channel. -/
opaque correctionD : List Byte → Nat → Bool
opaque correctedLimit : List Byte → Nat → Nat

/-- What a burst outside its code's guarantee reads as (09 R292; log entry 19): the byte at a flat address, by the
number of symbols in error. -/
opaque miscorrect : Nat → Nat → Byte

/-- Whether an access to an address of host memory completes with an error, by the wall cycle (16 R448; log entry 109). -/
opaque hostFails : Nat → Nat → Bool

/-- The 16 bytes of a message's header, by what the message says (14 R401; log entry 24). -/
opaque linkHeader : List Nat → BitVec 128

/-- An ECDSA P-521 signature by the identity key over a report (16 R452; log entry 8): 132 bytes. -/
opaque sign : List Byte → List Byte

/-- Whether a firmware image carries a good vendor signature (16 R451; log entry 8). -/
opaque signedOk : List Byte → Bool

/-- The security version of a firmware image, and the fused one (16 R451, R452; log entry 8). -/
opaque imageSvn : List Byte → Nat
opaque fusedSvn : Byte

/-- Whether a firmware image passes the boot ROM's check (16 R451). -/
def goodImage (img : List Byte) : Bool := signedOk img && fusedSvn.toNat ≤ imageSvn img

/-- The boot ROM's image (16 R451; log entry 8). -/
opaque romImage : List Byte

/-- Whether a firmware image accepts the Journal's format version (15 R444; log entry 8). -/
opaque journalOk : List Byte → Bool

/-- The flat address of each of the 2^20 places of the Journal's region, 64 bytes each, and what a transaction's records say (15 R441; log entry
127). -/
opaque journalPlace : Nat → Nat
opaque journalRecord : Nat → List Byte

/-- Scratchpad rows of a core, rows of a block, instruction-memory rows of a core (04 R102). -/
def spRows : Nat := 4096
def cbRows : Nat := 8192
def imRows : Nat := 1024

/-- Bytes of a row (04 R102). -/
def rowBytes : Nat := 256

/-- Words of instruction memory (02 R50). -/
def imWords : Nat := 65536

/-- Colonnades: main 0-11 and the draft colonnade 12, written D (01 R3, R9). -/
def nCols : Nat := 13
def draftCol : Nat := 12

/-- Memory channels of a colonnade (01 R9). -/
def channelsOf (col : Nat) : Nat := if col = draftCol then 4 else 3

/-- The look-ahead distance L of a group of `n` colonnades (01 R10). -/
def lookAhead (n : Nat) : Nat := if n ≤ 1 then 0 else 32

/-- Wall cycles from a barrier's completion to its release (01 R20, R39). -/
def releaseDelay : Nat := 40

/-- Wall cycles after the last freezing condition before a resumption (01 R24). -/
def resumeDelay (n : Nat) : Nat := if n ≤ 1 then 4 else 32

/-- The largest distance between stop points, in schedule cycles (01 R41). -/
def maxSpacing : Nat := 2048

/-- Wall cycles from the freeze point to a handler's first bundle (05 R156). -/
def handlerDelay : Nat := 12

/-- Largest backlog of a vector instruction (08 R232). -/
def maxBacklog : Nat := 32

/-- The nominal increment of device time, in units of 2^-32 ns (13 R376). -/
def nominalInc : Nat := 0x745D1746

/-- Credits a gateway holds for a queue (01 R30). -/
def creditsOf (decode : Bool) : Nat := if decode then 32 else 4

end Sys2Proof.Config
end

