-- ==== Sys2Proof/Syntax.lean ====
section
/-! DEFINITION. The instruction set as syntax: one constructor of `Instr` for each row of spec/opcode_table.json
(the slot instructions of the five spaces, the spacer, and the device's own events and commands), with the
operands the spec gives each of them. A slot word's hold, negate and guard fields stand in `Slot`. -/

namespace Sys2Proof

/-- Scalar register number s0-s63. -/
abbrev SReg := Fin 64
/-- Handle number h0-h31. -/
abbrev HReg := Fin 32
/-- Predicate number p0-p7. -/
abbrev PReg := Fin 8
/-- Vector register number v0-v31; also any five-bit vector field before its kind is known. -/
abbrev VReg := Fin 32
/-- Accumulator slot a0-a31. -/
abbrev ASlot := Fin 32
/-- Ring register g0-g63. -/
abbrev GReg := Fin 64

/-- Width code sz (02 R59): w = 64 >> sz. -/
inductive Sz where | w64 | w32 | w16 | w8
deriving DecidableEq, Repr

/-- Comparison codes of `cond` (02 R59); 6 and 7 raise ILLEGAL and so have no constructor. -/
inductive Cond where | eq | ne | lt | le | ltn | len
deriving DecidableEq, Repr

/-- PLOG operations, the values of its cond field (05 R140). -/
inductive PlogOp where | and | or | xor | andn | orn | xnor
deriving DecidableEq, Repr

/-- Operand queues (02 R59, 06 R172). -/
inductive QueueId where | ma | mb | vq0 | vq1 | vq2 | vq3 | sq | lq | iq
deriving DecidableEq, Repr

/-- Vector element types (02 R59). -/
inductive VType where | i32 | i16x2 | i8x4 | f32 | bf16x2 | f16x2 | e4m3x4 | e5m2x4
deriving DecidableEq, Repr

/-- The fields 0-13 of a handle (05 R131); 14 and 15 raise ILLEGAL (05 R141). -/
inductive HField where
  | base | space | tid | tag | fmt | dim0 | dim1 | walk | tilew | tileh | pitch | scale | tx | ty
deriving DecidableEq, Repr

/-- The vector form's operand fields (02 R58, 08 R235): vd, va, vb, type, mode. -/
structure VArgs where
  vd : VReg
  va : VReg
  vb : VReg
  ty : VType
  mode : Fin 4
deriving DecidableEq, Repr

/-- The register form's operand fields (02 R58). -/
structure RArgs where
  d : SReg
  a : SReg
  b : SReg
  sz : Sz
deriving DecidableEq, Repr

/-- The operands of an atomic of the stream engine (06 R175, R198). -/
structure AtArgs where
  handle : HReg
  off : Fin 2048
  byte : Fin 256
  d : SReg
  a : SReg
  b : SReg
  sz : Sz
deriving DecidableEq, Repr

/-- The common fields of a job card's slot word and literal: queue, scalar operand, WAIT and SIGNAL masks. -/
structure Card where
  queue : Nat
  a : SReg
  wait : BitVec 16
  signal : BitVec 16
deriving DecidableEq, Repr

/-- A row operand of a memory command (09 R268): SPACE code 0-8 and a row. -/
structure RowRef where
  space : Fin 16
  row : Fin 8192
deriving DecidableEq, Repr

/-- An untimed engine, by the engine codes of EVARM and QFENCE (05 R153). -/
inductive Engine where
  | decode | stacks | samp0 | samp1 | time | link1 | link2 | link3 | front
deriving DecidableEq, Repr

/-- A queue of an untimed engine: the engine, the colonnade where the engine has one queue set a colonnade
(decode attention and the Stacks; 0 otherwise), and the queue number (01 R9). -/
structure QueueRef where
  engine : Engine
  col : Nat
  queue : Nat
deriving DecidableEq, Repr

/-- The outcome of an access the engine asked of another module or of the host (an answer from outside). -/
inductive Answer where
  | done (data : List Byte)
  | failed (code : Byte)
deriving DecidableEq, Repr

/-- The five opcode spaces (02 R54). -/
inductive Space where | c | t | m | v | x
deriving DecidableEq, Repr

/-- Destination of a page copy (11 R332). -/
inductive DemoteTo where | dv | host | pe1 | pe2 | pe3
deriving DecidableEq, Repr

/-- Destination of a promotion (11 R332). -/
inductive PromoteTo where | cb | dv
deriving DecidableEq, Repr

/-- The rows of spec/opcode_table.json. The slot instructions come with their operands (those without operands after
the others). A row that is an event or command of the device has its operands in `EvArgs`, which State holds while
the event is executed. -/
inductive Instr where
  -- the spacer and the NOPs
  | nopX (lit : Word32)
  -- sequencer space (02 R63, 05)
  | rept (count : Fin 4096) (svd sva svb : Fin 32)
  | repts (a : SReg) (count : Fin 4096) (svd sva svb : Fin 32)
  | trap (code : BitVec 20)
  | krd (d : SReg) (knum : BitVec 12)
  | kwr (a : SReg) (knum : BitVec 12)
  | icinv (a b : SReg)
  | add (r : RArgs)
  | sub (r : RArgs)
  | mul (r : RArgs)
  | mulh (r : RArgs)
  | div (r : RArgs)
  | divn (r : RArgs)
  | rem (r : RArgs)
  | remn (r : RArgs)
  | and (r : RArgs)
  | or (r : RArgs)
  | xor (r : RArgs)
  | shl (r : RArgs)
  | shr (r : RArgs)
  | sar (r : RArgs)
  | min (r : RArgs)
  | max (r : RArgs)
  | minn (r : RArgs)
  | maxn (r : RArgs)
  | clz (d a : SReg) (sz : Sz)
  | ffs (d a : SReg) (sz : Sz)
  | popc (d a : SReg) (sz : Sz)
  | sel (r : RArgs)
  | mov (d a : SReg) (sz : Sz)
  | addi (d : SReg) (imm : BitVec 14)
  | andi (d : SReg) (imm : BitVec 14)
  | ori (d : SReg) (imm : BitVec 14)
  | xori (d : SReg) (imm : BitVec 14)
  | shli (d : SReg) (imm : BitVec 14)
  | shri (d : SReg) (imm : BitVec 14)
  | sari (d : SReg) (imm : BitVec 14)
  | movi (d : SReg) (imm : BitVec 14)
  | lit (d : SReg) (l : Word32)
  | lith (d : SReg) (l : Word32)
  | cmp (pd : PReg) (cond : Cond) (a b : SReg)
  | cmpi (pd : PReg) (cond : Cond) (a : SReg) (l : Word32)
  | plog (pd : PReg) (op : PlogOp) (pa pb : PReg)
  | hmake (hd : HReg) (a : SReg)
  | hset (hd : HReg) (a : SReg) (field : HField)
  | hget (ha : HReg) (d : SReg) (field : HField)
  | hadv (hd ha : HReg) (a : SReg) (tag : Bool)
  | hmov (hd ha : HReg)
  | htag (hd ha : HReg) (a : SReg)
  | sld (r : RArgs)
  | sst (d a b : SReg)
  | br (off : BitVec 20)
  | jmp (a : SReg)
  | call (off : BitVec 20)
  | loop (a : SReg) (off : BitVec 14)
  | rwfil (g : GReg) (n : BitVec 14)
  | rwfre (g : GReg) (n : BitVec 14)
  | waitev (d : SReg) (base : Fin 128) (mask : Word32)
  | sigev (count : Byte)
  | sigevRemote (col : Fin 16) (ridx : Fin 32) (count : Byte)
  | evarmRoute (source line : Fin 128) (v : Bool)
  | evarmWindow (engine queue : Fin 16) (base : Fin 128)
  | evarmCount (line : Fin 128) (value : Byte) (clear : Bool)
  -- stream space (02 R63, 06)
  | ldq (q : QueueId) (h : HReg) (n : Fin 2048)
  | ldqs (q : QueueId) (h : HReg) (off : Fin 2048)
  | stq (q : QueueId) (h : HReg) (n : Fin 2048)
  | stqs (q : QueueId) (h : HReg) (off : Fin 2048)
  | copy (hd : HReg) (n : Fin 2048)
  | tcopy (hd hs : HReg) (desc : Fin 4096)
  | gather (q : QueueId) (h : HReg) (n : Fin 2048) (bias : Word32)
  | scatter (q : QueueId) (h : HReg) (n : Fin 2048) (bias : Word32)
  | rmerge (q : QueueId) (h : HReg) (n : Fin 2048) (shift : Byte)
  | planes (hd hs : HReg) (trans : Bool)
  | unplane (hd hs : HReg)
  | lput (h : HReg) (off : Fin 2048) (tag : Byte) (lane : Fin 16)
  | lputQ (q : QueueId) (tag : Byte) (lane : Fin 16)
  | ltap (q : QueueId) (keep : Bool) (lane : Fin 16)
  | ltapRow (h : HReg) (off : Fin 2048) (keep : Bool) (lane : Fin 16)
  | tcpf (h : HReg) (n : Fin 2048)
  | tcwb (h : HReg) (n : Fin 2048)
  | tcinv (h : HReg) (n : Fin 2048)
  | tcresize (mask : BitVec 16) (block : Fin 8)
  | rinit (g : GReg) (h : HReg) (e thresh : Fin 8192)
  | rclaim (g : GReg) (h : HReg) (n : Fin 512)
  | rpush (g : GReg) (h : HReg) (n : Fin 512)
  | rpop (g : GReg) (h : HReg) (n : Fin 512)
  | rstat (g : GReg) (h : HReg)
  | atadd (x : AtArgs)
  | atmin (x : AtArgs)
  | atmax (x : AtArgs)
  | atxch (x : AtArgs)
  | atcas (x : AtArgs)
  | ator (x : AtArgs)
  | atradd (x : AtArgs)
  | bind (hr ho : HReg)
  | acq (h : HReg) (d : SReg) (sz : Sz) (i : Fin 8)
  | rel (h : HReg) (d : SReg) (sz : Sz) (i : Fin 8)
  | qfence (all : Bool) (mask : Byte) (engine : Fin 16)
  | seqtag (h : HReg) (n : Fin 2048)
  -- matrix space (02 R63, 07)
  | mcfg (field : Fin 8) (l : Word32)
  | mcfgi (level : Fin 8) (count : Fin 4096)
  | mgo (clr : Bool)
  | mrel (a : ASlot)
  | mclr (a : ASlot)
  | mdrain (a : ASlot) (h : HReg) (q0 nq : Fin 4)
  | mepi (l : Word32)
  | mheapReset (k rows : Fin 64)
  | mconst (l : Word32)
  | mmaskCausal (d : BitVec 16)
  | mmaskWindow (d w : BitVec 16)
  | mmaskTree (h : HReg) (plen : Word32)
  | mscale (a : ASlot) (e : BitVec 15)
  | mcoop (l : Word32)
  -- vector space (02 R63, 08)
  | vadd (v : VArgs)
  | vsub (v : VArgs)
  | vmul (v : VArgs)
  | vmac (v : VArgs)
  | vfma (v : VArgs)
  | vmin (v : VArgs)
  | vmax (v : VArgs)
  | vabs (v : VArgs)
  | vneg (v : VArgs)
  | vand (v : VArgs)
  | vor (v : VArgs)
  | vxor (v : VArgs)
  | vnot (v : VArgs)
  | vshl (v : VArgs)
  | vshr (v : VArgs)
  | vsar (v : VArgs)
  | vrshr (v : VArgs)
  | vsat (v : VArgs)
  | vclz (v : VArgs)
  | vffs (v : VArgs)
  | vpopc (v : VArgs)
  | vcmp (v : VArgs)
  | vsel (v : VArgs)
  | vcvt (v : VArgs)
  | vsrnd (v : VArgs)
  | vrand (v : VArgs)
  | viota (v : VArgs)
  | vmov (v : VArgs)
  | vimm (v : VArgs) (l : Word32)
  | vmulh (v : VArgs)
  | vrotr (v : VArgs)
  | vrotc (v : VArgs)
  | vbcr (v : VArgs)
  | vbcc (v : VArgs)
  | vredr (v : VArgs)
  | vredc (v : VArgs)
  | vscanr (v : VArgs)
  | vscanc (v : VArgs)
  | vshfr (v : VArgs)
  | vtrn (v : VArgs)
  | vpop (v : VArgs)
  | vpush (v : VArgs)
  | vrdacc (v : VArgs)
  | vwracc (v : VArgs)
  | vsfn (v : VArgs)
  | vcoef (v : VArgs) (l : Word32)
  -- external space: memory commands (02 R63, 09 R268); ch is the channel of the logical colonnade
  | dact (ch : Fin 16) (a : SReg) (off : BitVec 10)
  | drd (ch : Fin 16) (a : SReg) (off : BitVec 10) (r : RowRef) (half : Bool) (tag : Byte)
  | dwr (ch : Fin 16) (a : SReg) (off : BitVec 10) (r : RowRef) (half : Bool) (tag : Byte)
  | dpre (ch bank : Fin 16)
  | dprea (ch : Fin 16)
  | dref (ch : Fin 16)
  | drefb (ch bank : Fin 16)
  | dmrw (ch : Fin 16) (mr value : Byte)
  | dmrr (ch : Fin 16) (mr : Byte) (r : RowRef) (tag : Byte)
  | dzqStart (ch : Fin 16)
  | dzqLatch (ch : Fin 16)
  | dsrefEnter (ch : Fin 16)
  | dsrefExit (ch : Fin 16)
  | dtlb (ch : Fin 16) (first : Fin 1024) (count : Fin 64) (row : Fin 4096)
  | dtlbq (ch : Fin 16) (index : Fin 1024) (r : RowRef) (tag : Byte)
  | dpfs (ch : Fin 16) (mask : BitVec 16)
  -- decode attention (10 R297)
  | qbind (c : Card) (slot : Fin 16)
  | qstep (c : Card) (slot : Fin 16)
  | qmask (c : Card) (slot : Fin 16)
  | qmerge (c : Card) (slot : Fin 16)
  | qstate (c : Card) (slot : Fin 16)
  | qchain (c : Card) (slot : Fin 16)
  -- the Stacks (11 R332)
  | knew (c : Card)
  | knewSeq (c : Card)
  | kput (c : Card)
  | ktree (c : Card)
  | kcommit (c : Card)
  | ksquash (c : Card)
  | ksquashSeq (c : Card)
  | kfork (c : Card)
  | kpin (c : Card)
  | kslide (c : Card)
  | kdemote (c : Card) (dst : DemoteTo)
  | kpromote (c : Card) (dst : PromoteTo)
  | kfeat (c : Card) (committed : Bool)
  | kfeatRd (c : Card) (committed : Bool)
  | kfroll (c : Card)
  | kquery (c : Card)
  | kqueryHeads (c : Card)
  | kreq (c : Card)
  -- sampling and acceptance (12 R354); inst is the instance
  | gseedSeq (inst : Fin 2) (c : Card)
  | gseedObj (inst : Fin 2) (c : Card)
  | gsoft (inst : Fin 2) (c : Card)
  | gsoftTopk (inst : Fin 2) (c : Card)
  | gcdf (inst : Fin 2) (c : Card)
  | gpick (inst : Fin 2) (c : Card)
  | gpickTopk (inst : Fin 2) (c : Card)
  | gaccept (inst : Fin 2) (c : Card)
  | gacceptGreedy (inst : Fin 2) (c : Card)
  | gresid (inst : Fin 2) (c : Card)
  | gnext (inst : Fin 2) (c : Card)
  | gparamAssume (inst : Fin 2) (c : Card)
  | gparamClear (inst : Fin 2) (c : Card)
  | gpub (inst : Fin 2) (c : Card)
  | gstat (inst : Fin 2) (c : Card)
  | gstatClr (inst : Fin 2) (c : Card)
  -- time and ingest (13 R394)
  | wtime (c : Card)
  | wtimePort (c : Card)
  | wtick (c : Card)
  | wtickOff (c : Card)
  | wflow (c : Card)
  | wflowOff (c : Card)
  | wbind (c : Card)
  | wbindOff (c : Card)
  | wlate (c : Card)
  | wdead (c : Card)
  | wdeadOff (c : Card)
  | wstat (c : Card)
  | wstatClr (c : Card)
  -- link (14 R406); port 1-3
  | nsend (port : Fin 4) (c : Card)
  | nrecv (port : Fin 4) (c : Card) (nc : Fin 4) (g : GReg)
  | nred (port : Fin 4) (c : Card)
  | nredArrival (port : Fin 4) (c : Card)
  | nbar (port : Fin 4) (c : Card)
  | nmode (port : Fin 4) (c : Card)
  | nstat (port : Fin 4) (c : Card)
  | nstatClr (port : Fin 4) (c : Card)
  -- front end (15 R439)
  | ftrig (c : Card)
  | fckpt (c : Card)
  | flend (c : Card)
  | frecl (c : Card)
  | fpost (c : Card)
  -- slot instructions without operands, and the spacer
  | spacer
  | nop
  | align
  | halt
  | rett
  | fetchb
  | ret
  | frag
  | mswap
  | mheapDrain
  | mheapDrainr
  | mconstOff
  | mmaskNone
  | mcoopOff
  -- events of the timing groups and the channels
  | alignRelease
  | fragRelease
  | resumption
  | interrupt
  | translationAbsent
  | tileCacheFill
  | drdLanding
  | dmrrLanding
  | refreshDebt
  | pollGap
  | frozenRefresh
  | frozenPoll
  | temperatureReport
  -- events of the untimed engines
  | jobCardStart
  | decodeAttentionCardCompletion
  | stacksStep
  | samplingCardCompletion
  | abandonment
  | timeIngestCardCompletion
  | linkCardCompletion
  | frontEndCardCompletion
  | specFault
  | link
  | copyLanding
  | requantisationLanding
  | faultReport
  -- time, frames and links
  | tick
  | decision
  | watchDeadline
  | frame
  | clockFrame
  | flitReception
  | nak
  | replayLimit
  | ackTimeout
  | lossOfLink
  | message
  | delivery
  -- front end and host
  | instancePlacement
  | preEmption
  | reclaimed
  | doorbell
  | registerWrite
  | hostWindowWrite
  | hostWindowRead
  | launch
  | kill
  | graphLoad
  | graphFree
  | graphRun
  | triggerWrite
  | lend
  | reclaim
  | drain
  | returnCol
  | grant
  | partCreate
  | partDestroy
  | powerMode
  | fwUpdate
  | attest
  | portAssign
  | timeStep
  | heartbeat
  | hang
  | fatalError
  | mainPower
  | status
  | read
  | write
  | reset
  | flr
  | hotReset
  | fundamentalReset
  | powerSample
  | thermalWarn
  | thermal
  | thermalTrip
  | reservedOpcode
  | acqVersionReturn
  | untimedRel
  | writeThrough
  | untimetabledRefresh
  | masterLost
  | linkBringUp
  | pcieLinkUp
  | thermalClear
  | mainPowerLoss
deriving DecidableEq, Repr

/-- How far a piece of untimed work has come that writes its rows one by one (04 R110): what it read of each row, how many of its rows, in
program order, it has written, and where its free values began. -/
structure PortRun where
  sample : List (Nat × List Byte)
  landed : List Nat
  ctr : Nat
deriving DecidableEq, Repr

/-- The operands of an event or command row: what it names (colonnade, core, channel, group, instance, partition,
queue and so on) and the data it brings from outside. Each event's meaning says which of them it reads. -/
structure EvArgs where
  core : Nat := 0
  col : Nat := 0
  ch : Nat := 0
  bank : Nat := 0
  block : Nat := 0
  group : Nat := 0
  inst : Nat := 0
  part : Nat := 0
  seq : Nat := 0
  chain : Nat := 0
  node : Nat := 0
  gen : Nat := 0
  port : Nat := 0
  queue : Nat := 0
  fn : Nat := 0
  index : Nat := 0
  addr : Nat := 0
  tag : Nat := 0
  count : Nat := 0
  value : Nat := 0
  flag : Bool := false
  opt : Option Nat := none
  lock : Option Bool := none
  bytes : List Byte := []
  cols : List Nat := []
  lines : List Nat := []
  blocks : List (List Byte) := []
  rows : List (Nat × List Byte) := []
  entry : Option (BitVec 128) := none
  q : QueueRef := { engine := .decode, col := 0, queue := 0 }
  answer : Answer := .done []
  run : Option PortRun := none
deriving DecidableEq, Repr

/-- An event row with its operands. -/
structure Event where
  op : Instr
  args : EvArgs
deriving DecidableEq, Repr

/-- A slot word with its literal (02 R54): hold, negate, guard and the instruction. -/
structure Slot where
  hold : Bool
  neg : Bool
  guard : PReg
  op : Instr
deriving DecidableEq, Repr


/-- A decoded bundle (02 R50, R51): flags, idle cycles, its slots in the order C, T, M, V, X0, X1, and its
length in words. -/
structure Bundle where
  stop : Bool
  safe : Bool
  idle : Nat
  c : Option Slot
  t : Option Slot
  m : Option Slot
  v : Option Slot
  x0 : Option Slot
  x1 : Option Slot
  len : Nat
deriving DecidableEq, Repr

end Sys2Proof
end

