-- ==== Sys2Proof/Machine/State.lean ====
section
/-! DEFINITION. The state of the device, as plain data: every piece of state the spec names, in sparse canonical
maps, and the model's own bookkeeping (the agenda of scheduled work, the inputs still to come, the issuing
context). INVENTORY.md lists each field with its rule and reset value. -/

namespace Sys2Proof.Machine

/-- A 256-byte row (04 R102). -/
abbrev Row := List Byte

/-! ### Stops and traps -/

/-- Why the machine stops with a fault: only where the spec gives no effect and no trap. -/
inductive Fault where
  /-- Raised by `step` when main power is off and no input is to come (16 R457, R451): the device does nothing. Safe. -/
  | poweredOff
  /-- Raised by `step` after a fatal error when no input is to come (15 R445): the device accepts only reads of the dump and
  reset. Safe. -/
  | fatal
deriving DecidableEq, Repr

/-- Why an instruction has no meaning here. -/
inductive Refusal where
  /-- An instruction that has no meaning yet; raised by `exec`'s arm alone. Safe. -/
  | notModelled (mnemonic : String)
deriving DecidableEq, Repr

/-- Trap causes (05 R155). -/
inductive Cause where
  | illegal | unreachable | allotment | repeatRange | sched | watermark | bank | spacing | memTiming
  | translationRange | translationAbsent | ringOverrun | catalogueRange | machineCheck
  | specFault | link | swTrap | interrupt
deriving DecidableEq, Repr

/-- A trap to be taken: the core, its cause, TVAL, the slot (0 C, 1 T, 2 M, 3 V, 4 X0, 5 X1, 7 none), its rank in
the order of 02 R64, and, for one decided after its bundle's issue, that bundle's issue cycle (05 R134, R155; 01 R463). -/
structure Trap where
  core : Nat
  cause : Cause
  tval : Nat
  slot : Nat
  rank : Nat
  cycle : Nat := 0
deriving DecidableEq, Repr

/-- What a visit to a slot is for: its issue; the look-ahead's own visit, which only tests conditions and makes reservations
(01 R22); or finding out which bundles come, with every condition taken as met. -/
inductive Visit where
  | issue | ask | path
deriving DecidableEq, Repr

/-- The context an instruction runs in: the issuing core, its slot, the address of its bundle, the address and word of
its slot word, the address after the bundle, its schedule cycle, whether it is a stop point, whether the slot
acts by a hold, whether its guard is p0 unnegated, and what the visit is for. -/
structure Here where
  core : Nat := 0
  slot : Nat := 0
  bundle : Nat := 0
  addr : Nat := 0
  word : Nat := 0
  next : Nat := 0
  cycle : Nat := 0
  stop : Bool := false
  held : Bool := false
  plain : Bool := true
  visit : Visit := .issue
deriving DecidableEq, Repr

/-- The bundle that scheduled a piece of work: for traps decided later (01 R463). -/
structure Src where
  core : Nat := 0
  slot : Nat := 0
  bundle : Nat := 0
  cycle : Nat := 0
  addr : Nat := 0
  word : Nat := 0
deriving DecidableEq, Repr

/-! ### Rows, queues and moves of the stream engine -/

/-- Where a row stands: its space (05 R131 codes), row number, its place in the byte memory, and for a dv row its
byte address. -/
structure RowAt where
  space : Nat
  row : Nat
  addr : Nat
deriving DecidableEq, Repr

/-- Where moved rows go. -/
inductive Dest where
  | queue (q : QueueId)
  | rows (rs : List RowAt) (tag : Nat) (setTag : Bool)
  | patch (rows : List Nat)
  | lane (lane station tag : Nat)
  | buffer (id : Nat)
  | none
deriving DecidableEq, Repr

/-- Where moved rows come from: rows with the expected tag (0 disables), or a queue. -/
inductive Source where
  | rows (rs : List RowAt) (tag : Nat)
  | pop (q : QueueId) (n : Nat)
deriving DecidableEq, Repr

/-- A plane tile in a latch: its plane count (0 for a zero tile) and its rows (07 R207). -/
structure Tile where
  planes : Nat := 0
  rows : List Row := []
deriving DecidableEq, Repr

/-- The mask set by MMASK (07 R221). -/
structure MaskCfg where
  mode : Nat := 0
  d : Int := 0
  w : Nat := 0
  plen : Nat := 0
  image : List Byte := []
deriving DecidableEq, Repr

/-- A running MGO: the copied configuration, the slots it reaches with their last passes, and the pass it is at
(07 R211). -/
structure MgoRun where
  words : List Nat
  clr : Bool
  const : Nat
  coop : Nat
  lasts : List (Nat × Nat)
  seen : List Nat
  pass : Nat
  total : Nat
deriving DecidableEq, Repr

/-- A running MDRAIN: the copied settings, the converted bytes not yet pushed and the flags so far (07 R220). -/
structure DrainRun where
  slot : Nat
  tx : Nat
  ty : Nat
  first : Nat
  count : Nat
  epi : Nat
  mask : MaskCfg
  carry : List Byte
  flags : Nat
deriving DecidableEq, Repr

/-- A vector instruction in the pipeline: the instruction, its issue cycle and its start (08 R230, R250). -/
structure VecRun where
  op : Instr
  sched : Nat
  start : Nat
deriving DecidableEq, Repr

/-- A memory command between issue and its send edge (09 R271, R290): its opcode (with 16 added for a latch or an exit),
its channel and send edge, the address it computed from the copied s[a], the rows it names, and its translation: 0 done,
1 pending, 2 absent. -/
structure MemCmd where
  op : Nat := 0
  ch : Nat := 0
  edge : Nat := 0
  send : Nat := 0
  x : Nat := 0
  value : Nat := 0
  lit : Nat := 0
  row : RowAt := ⟨0, 0, 0⟩
  half : Nat := 0
  tag : Nat := 0
  state : Nat := 0
  xch : Nat := 0
  bank : Nat := 0
  drow : Nat := 0
  column : Nat := 0
  data : List Byte := []
  src : Src := {}
deriving DecidableEq, Repr

/-! ### Cards and queues of untimed engines -/

/-- A job card (01 R28): its instruction and operand, who issued it (colonnade, logical colonnade, core, instance), the lines
it waits for and signals (mask bits until it enters its queue), what a QFENCE makes it wait for, and the wall cycle after
the one on which its wait condition was met, 0 before, the wall cycle of its start, what a sampling card read at its start (12 R353, R372), the banks that it
has found free since it was ready to complete, its rows written one by one (04 R110), and for a decode attention card the pages that have
landed and the wall cycle before which its work is not done (10 R305, R315). -/
structure JobCard where
  serial : Nat := 0
  op : Instr := .nop
  operand : Word := 0
  col : Nat := 0
  logical : Nat := 0
  core : Nat := 0
  inst : Nat := 0
  wait : List Nat := []
  signal : List Nat := []
  fence : List Nat := []
  fenceWrites : Nat := 0
  claimed : Nat := 0
  dropSignal : Bool := false
  arg : List Byte := []
  key : Word := 0
  started : Nat := 0
  free : List Nat := []
  run : Option PortRun := none
  pages : Nat := 0
  due : Nat := 0
deriving DecidableEq, Repr

/-- One queue of an untimed engine: waiting cards in order, cards on their way, and the running card. -/
structure CardQueue where
  cards : List JobCard := []
  transit : List JobCard := []
  running : Option JobCard := none
deriving DecidableEq, Repr

/-- An effect on one core that an instruction makes at a fixed later cycle. -/
inductive Effect where
  | setS (r : Nat) (v : Word)
  | flags (f : Nat)
  | kwr (knum : Nat) (v : Word)
  | icinv (a n : Nat)
  | fenceSnap (ranges : List (Nat × Nat))
  | fenceApply (rows : List (Nat × Row))
  | mcfg (field : Nat) (w : Nat)
  | mcfgi (level count : Nat)
  | mswap
  | own (a : Nat)
  | mclr (a : Nat)
  | mrel (a : Nat)
  | mscale (a : Nat) (e : Int)
  | mepi (w : Nat)
  | mconst (w : Nat)
  | mcoop (w : Nat)
  | mmask (m : MaskCfg)
  | mheapReset (k rows : Nat)
  | mheapEmpty
  | vlanes (reg : Nat) (first : Nat) (lanes : List Word32)
  | vmask (reg : Nat) (first count : Nat) (bits : Nat)
  | vacc (slot first : Nat) (vals : List Word)
  | coef (first : Nat) (words : List Word32)
  | writeBack (slot quarter : Nat) (clr : Bool) (ta tb : Tile) (pa pb : Nat) (sa sb : Bool)
  | patchPerform (rows : List Nat)
  | patchDiscard (rows : List Nat)
  | iqAdvance
  | bind (space base count : Nat) (objSpace objRow : Nat)
  | freeBuffer (id : Nat)
  | acqDone (d : Nat) (v : Word) (regions : List (Nat × Nat × Nat))
  | lock (index : Nat) (entry : BitVec 128)
deriving DecidableEq, Repr

/-- Scheduled work. -/
inductive Work where
  /-- a named event of the table -/
  | event (e : Event)
  /-- a core effect -/
  | eff (core : Nat) (e : Effect)
  /-- read or pop rows, then hand them on after `delay` cycles -/
  | move (src : Src) (from_ : Source) (dest : Dest) (delay : Nat)
  | put (src : Src) (dest : Dest) (rows : List Row)
  | beat (src : Src) (lane station tag : Nat) (data : List Byte)
  | tap (src : Src) (lane station : Nat) (keep : Bool) (half : Nat) (dest : Dest) (buffer : Nat)
  | rmerge (src : Src) (prev : Option Row) (rest : List RowAt) (tag shift : Nat) (q : QueueId) (delay : Nat)
  | tcopy (src : Src) (hs hd : Handle) (desc : RowAt) (seen : Row)
  | planes (src : Src) (hs hd : Handle) (trans : Bool) (buffer scales : Nat) (dests : List RowAt)
  | unplane (src : Src) (hs hd : Handle) (buffer : Nat) (dests : List RowAt)
  | masked (src : Src) (r : RowAt) (tag : Nat) (setTag : Bool) (first width : Nat) (bits : Nat)
  | tagRows (src : Src) (rs : List RowAt) (tag : Nat)
  | sld (src : Src) (r : RowAt) (word w d : Nat)
  | rmwRead (src : Src) (op : Nat) (r : RowAt) (byte w d : Nat) (x y : Nat)
  | acq (src : Src) (r : RowAt) (byte w d delay : Nat) (regions : List (Nat × Nat × Nat))
  | ringTail (col g start n : Nat) (copied : Bool)
  /-- entries of an untimed producer on their way into a ring: the count they start at, the banks found free so far, the wall cycle from
  which they may be published, and the port whose peer then gets its acknowledgement, one more -/
  | place (col g start : Nat) (rows : List Row) (landed : Nat) (pub reply : Nat)
  | ringHead (col g n : Nat)
  | ringInit (col g desc : Nat)
  | tcLines (op col : Nat) (tags : List (Nat × Nat × Nat × Nat))
  | ways (col block mask : Nat)
  | evRoute (col source line : Nat) (v : Bool)
  | evWindow (col key base : Nat)
  | evCount (col line value : Nat) (clear : Bool)
  | pulse (col source count : Nat)
  | mgo (src : Src) (r : MgoRun)
  | mgoTap (src : Src) (r : MgoRun) (side : Bool) (start from_ : Nat)
  | foreTap (src : Src) (r : MgoRun) (side : Bool) (start : Nat)
  | drain (src : Src) (r : DrainRun) (i : Nat)
  | feed (src : Src) (row : Nat) (offers : List (Nat × Nat)) (leaves : List (Option (Nat × Int)))
  | heapDrain (src : Src) (empty : Bool)
  | treeImage (src : Src) (r0 r1 : RowAt) (tag plen : Nat) (first : Option Row)
  | vec (src : Src) (r : VecRun) (q : Nat)
  | mcTranslate (c : MemCmd)
  | mcSend (c : MemCmd)
  | dramWrite (addr : Nat) (data : List Byte)
  | fillSlot (m : MemCmd)
  | dtlbRow (src : Src) (first count j row : Nat)
  | dtlbqRead (src : Src) (index : Nat) (r : RowAt) (tag : Nat)
  | arrive (q : QueueRef) (serial : Nat)
  | signal (c : JobCard)
  | fragselWrite (inst logical index : Nat)
  /-- an event of a pre-empted instance's card, which acts on what was saved of the instance -/
  | onRecord (inst : Nat) (e : Event)
  | slide (stream seq : Nat) (keep : Nat) (pin : Option Nat)
  | train (port : Nat)
deriving DecidableEq, Repr

/-- One entry of an agenda: when, in which phase of the cycle, with which rank inside the phase, in which
colonnade, and what. -/
structure Item where
  time : Nat
  phase : Nat
  rank : Nat
  col : Nat
  work : Work
deriving DecidableEq, Repr

/-! ### A core -/

/-- A hold (02 R56): the slot and the word address of the slot word that installed it. -/
structure Hold where
  slot : Slot
  addr : Nat
deriving DecidableEq, Repr

/-- What the look-ahead found for one slot of a bundle to come (01 R22, R23, R464): the bundle's issue cycle, the slot (8 more in
a handler), the slot word and its place, the bundle and the next one, whether the bundle is a stop point, the guard as tested;
whether it acts for the slot at all, whether its ring reservation or all of it is made, from which ring count and at which wall
cycle, whether it had to wait, and a trap it found; and the operand registers, the IQ rows and the index position as its bundle is to
find them. -/
structure Ask where
  cycle : Nat
  slot : Nat
  sl : Slot
  addr : Nat
  word : Nat
  held : Bool
  bundle : Nat
  next : Nat
  stop : Bool
  guard : Bool
  acts : Bool := false
  part : Bool := false
  done : Bool := false
  start : Nat := 0
  doneAt : Nat := 0
  missed : Bool := false
  trap : Option Trap := none
  regs : FMap Word := []
  handles : FMap Handle := []
  iq : List Row := []
  iqAt : List Nat := []
  ip : Nat := 0
deriving DecidableEq, Repr

/-- A resumable trap that an engine reported (11 R346, 14 R410): its cause and TVAL, the schedule cycle and the wall cycle of the report,
and the lines that the card's signal counted in that cycle. -/
structure DueTrap where
  cause : Cause
  tval : Nat
  at_ : Nat
  wall : Nat
  lines : List Nat := []
deriving DecidableEq, Repr

/-- REPLEFT and what the repeat instruction latched (02 R66, R69). -/
structure Repeat where
  active : Bool := false
  iter : Nat := 0
  pad : Nat := 0
  left : Nat := 0
  svd : Nat := 0
  sva : Nat := 0
  svb : Nat := 0
  addr : Nat := 0
  first : Nat := 0
deriving DecidableEq, Repr

/-- What a core does at its next bundle. -/
inductive Mode where
  | idle | run | atAlign | atFrag | halted
deriving DecidableEq, Repr

/-- A binding of a region to a sync object (06 R200). -/
structure Binding where
  space : Nat
  base : Nat
  count : Nat
  objSpace : Nat
  objRow : Nat
deriving DecidableEq, Repr

/-- A pending register write, for SCHED KIND 3 (05 R145, 08 R233): vector or sequencer, register code, last cycle. -/
structure PendingWrite where
  vector : Bool
  reg : Nat
  last : Nat
deriving DecidableEq, Repr

/-- A QFENCE still in force (06 R203): the queues it names, the cards and the last write cycle it waits for. -/
structure Fence where
  queues : List Nat
  cards : List Nat
  writes : Nat
deriving DecidableEq, Repr

/-- The architectural state of one core (01 R5). -/
structure Core where
  s : FMap Word := []
  sh : FMap Word := []
  h : FMap Handle := []
  p : FMap Bool := []
  ph : FMap Bool := []
  pc : Nat := 0
  fetchAt : Nat := 0
  issueAt : Nat := 0
  fetched : List Word32 := []
  noIdle : Bool := false
  cwrote : Option (Nat × Nat) := none
  mode : Mode := .idle
  rep : Repeat := {}
  valloc : Word := 0x1F00#64
  aflags : Word := 0
  stopAt : Nat := 0
  arrivedAt : Nat := 0
  barrierAt : Nat := 0
  catalogue : FMap Nat := []
  dueTraps : List DueTrap := []
  stage : BitVec 4 := 0
  livemap : Word := 0
  tvec : Word := 0
  epc : Word := 0
  tcause : Word := 0
  tval : Word := 0
  imask : Word := 0
  ipend : Word := 0
  ireq : Option Nat := none
  shadow : Bool := false
  shadowAt : Nat := 0
  trapAt : Nat := 0
  readyRett : Bool := false
  skipC : Bool := false
  swWhole : Bool := false
  irqNow : Bool := false
  hold : FMap (Option Hold) := []
  savedHold : FMap (Option Hold) := []
  pending : List PendingWrite := []
  fetchOld : FMap Row := []
  icinv : List (Nat × Nat) := []
  patch : List (Nat × Row) := []
  binds : List Binding := []
  fences : List Fence := []
  issued : List (Nat × Nat) := []
  lastWrite : Nat := 0
  asks : List Ask := []
  acqAsked : Bool := false
  acqPort : Nat := 0
  acqData : Option (List Byte) := none
  rels : List EvArgs := []
  foreseen : List (Nat × Row) := []
  queues : FMap (List Row) := []
  ip : Nat := 0
  ipAhead : Nat := 0
  iqAt : List Nat := []
  buffers : FMap (List Row) := []
  acc : FMap (FMap (Option Word)) := []
  accBase : FMap Nat := []
  accE : FMap Int := []
  accSat : FMap Bool := []
  accNx : FMap Bool := []
  owned : FMap Bool := []
  wmark : FMap (List (Nat × Nat)) := []
  mgoBusy : FMap Nat := []
  drainBusy : FMap Nat := []
  cfgA : FMap Nat := []
  cfgS : FMap Nat := []
  la : FMap Tile := []
  lb : FMap Tile := []
  laPlanes : FMap Nat := []
  lbPlanes : FMap Nat := []
  epi : Nat := 0
  mask : MaskCfg := {}
  mconst : Nat := 0
  mcoop : Nat := 0
  heapK : Nat := 1
  heapRows : Nat := 1
  heaps : FMap (List (Nat × Nat)) := []
  lse : FMap (List (Nat × Nat × Int)) := []
  feeds : FMap Nat := []
  mgoEnd : Nat := 0
  feeding : List (Nat × Nat × Nat) := []
  taps : FMap Row := []
  v : FMap (FMap Word32) := []
  m : FMap Nat := []
  coef : FMap Word32 := []
  vfin : Nat := 0
  locked : FMap (BitVec 128) := []
  replay : List MemCmd := []
deriving DecidableEq, Repr

/-- Who is told when a piece of front-end work completes: nobody, a card, or the entry of a submission queue (15 R424, R439). -/
inductive Reply where
  | none
  | card (q : QueueRef) (serial : Nat)
  | entry (part queue pos : Nat)
deriving DecidableEq, Repr

/-! ### A colonnade -/

/-- A beat on a lane (01 R7): the lane, where and when it was put, and when it was taken off. -/
structure Beat where
  lane : Nat
  station : Nat
  cycle : Nat
  gone : Nat
  tag : Nat
  data : List Byte
deriving DecidableEq, Repr

/-- A ring register with its descriptor and reservation (06 R190), and the publications waiting their turn
(06 R191, R193). -/
structure Ring where
  head : Nat := 0
  claim : Nat := 0
  tail : Nat := 0
  res : Nat := 0
  thresh : Nat := 0
  e : Nat := 0
  base : Nat := 0
  core : Nat := 0
  space : Nat := 0
  promised : Nat := 0
  done : List (Nat × Nat) := []
  freed : List (Nat × Nat) := []
  copying : Bool := false
deriving DecidableEq, Repr

/-- A tile-cache line (06 R185, R186). -/
structure TcLine where
  tid : Nat
  tx : Nat
  ty : Nat
  j : Nat
  dirty : Bool
  rows : List Nat
  poison : List Nat
  used : Nat
  pinned : Nat
  filling : Bool
  core : Nat
deriving DecidableEq, Repr

/-- The state of one bank (09 R269): its open row and the send edges of the last commands that the checks of R270 measure
from. -/
structure Bank where
  row : Option Nat := none
  actAt : Option Nat := none
  preAt : Option Nat := none
  rdAt : Option Nat := none
  wrAt : Option Nat := none
  refAt : Option Nat := none
deriving DecidableEq, Repr

/-- An access unit of device memory that untimed traffic reads or writes: the colonnade of its channels, and its dv address, or its place in
the channels' arrays (09 R280). -/
structure PortUnit where
  col : Nat
  dv : Bool
  at_ : Nat
  write : Bool := false
deriving DecidableEq, Repr

/-- An access unit that a piece of untimed work asks for in reserved slots: for whom, whether the chain prefetcher asks, when the work last
asked, and, once a slot's command has reached it, from which wall cycle on and through which core's table (09 R280; log entry 20). -/
structure UnitReq where
  key : Nat
  unit : PortUnit
  first : Bool
  asked : Nat
  done : Option (Nat × Nat) := none
deriving DecidableEq, Repr

/-- The memory command engine of one channel (09 R269); send edges are edge indices. `pend` holds the commands issued and not
yet sent; `since`, `poll` and `srAt` are schedule cycles; `modeD` and `limit` are set by the front end (09 R292); `own`
counts the engine's own refreshes (09 R25, R269), and `opened` names the banks that untimed traffic has opened,
each with the edge of its DACT (09 R280). -/
structure Chan where
  banks : FMap Bank := []
  selfRefresh : Bool := false
  timetabled : Bool := false
  since : Nat := 0
  debt : Int := 0
  poll : Nat := 0
  srAt : Nat := 0
  acts : List Nat := []
  lastSend : Option Nat := none
  rdAt : Option Nat := none
  wrAt : Option Nat := none
  preAt : Option Nat := none
  refAllAt : Option Nat := none
  mrAt : Option Nat := none
  zqAt : Option Nat := none
  xsrAt : Option Nat := none
  mr : FMap Byte := []
  corrected : Nat := 0
  limit : Nat := 256
  modeD : Bool := false
  pend : List MemCmd := []
  own : Nat := 0
  coolFrom : Option Nat := none
  opened : List (Nat × Nat) := []
deriving DecidableEq, Repr

/-- A timed bank access, for BANK (04 R109, R113): cycle, bank key, row address, whether a read-modify-write slot. -/
structure BankUse where
  cycle : Nat
  space : Nat
  owner : Nat
  bank : Nat
  row : Nat
  rmw : Bool
  core : Nat
  slot : Nat
  issued : Nat
  src : Src
deriving DecidableEq, Repr

/-- EVARM's settings that have taken hold in this cycle (05 R154), with the Trellis as it stood before them and the pulses counted since: a
freeze at this cycle puts them off (01 R22; log entry 48). -/
structure Arming where
  route : FMap Bool
  counts : FMap Nat
  sticky : FMap Bool
  windows : FMap Nat
  items : List Item
  pulses : List (Nat × Nat)
deriving DecidableEq, Repr

/-- One colonnade (01 R6). `slots` holds the reserved slots sent and not yet filled: wall cycle, channel, core, bank mask, and `reqs` the
access units that untimed traffic is to reach in them (09 R280); `attnBusy` the wall cycle until which the work of the decode attention
engine's cards is reckoned (10 R295); `backs` the rows
of dirty lines on their way to device memory: core, row number, data (06 R186). -/
structure Col where
  inst : Option Nat := none
  logical : Nat := 0
  group : Nat := 0
  part : Nat := 0
  beats : List Beat := []
  rings : FMap Ring := []
  ways : FMap Nat := []
  resizes : List (Nat × Nat × Nat) := []
  lines : FMap (Option TcLine) := []
  route : FMap Bool := []
  counts : FMap Nat := []
  sticky : FMap Bool := []
  windows : FMap Nat := []
  credits : FMap Nat := []
  chans : FMap Chan := []
  uses : List BankUse := []
  abandon : Option Nat := none
  abandonAt : Nat := 0
  stopped : Bool := false
  lentTo : Option Nat := none
  lease : Option Nat := none
  memExtent : Nat := 0
  gated : Bool := false
  temp : Nat := 0
  heldHot : Bool := false
  draining : Bool := false
  drainFor : Reply := .none
  failed : Nat := 0
  retired : Bool := false
  due : Option Nat := none
  inFlight : Nat := 0
  slots : List (Nat × Nat × Nat × Nat) := []
  backs : List (Nat × Nat × Row) := []
  armed : Option Arming := none
  reqs : List UnitReq := []
  attnBusy : Nat := 0
deriving DecidableEq, Repr

/-! ### Timing groups -/

/-- Why a group is frozen (01 R21): a slot whose look-ahead waits, by core, issue cycle and slot; a line that a changed TCOPY
descriptor named; FRAGSEL; an absent page; a handler; a pre-emption. -/
inductive Freeze where
  | ask (core cycle slot : Nat)
  | tileCache (col : Nat) (keys : List Nat)
  | fragsel
  | absent (core : Nat)
  | handler
  | preempt
deriving DecidableEq, Repr

/-- What a group is doing. -/
inductive Phase where
  /-- not launched, or ended -/
  | idle
  /-- issuing -/
  | run
  /-- frozen since the wall cycle given -/
  | frozen (since : Nat) (cleared : Option Nat)
  /-- a barrier is complete; the release falls at the wall cycle given, at a first launch or after a pre-emption -/
  | releasing (at_ : Nat) (again : Bool)
  /-- pre-empted -/
  | preempted
deriving DecidableEq, Repr

/-- One timing group of an instance (01 R18): its schedule counter and stalls, what it waits for while frozen, a barrier
that is complete with its release cycle and whether it is a FRAG, FRAGSEL and the Catalogue entry read for the next release,
the entry last released into, and its scheduled work; `endAt` the cycle, cause and TVAL of an instance-ending trap of another
colonnade, `clearedAt` the wall cycle on which the last condition met before a freeze cleared, `looked` the first issue cycle that
the look-ahead has not visited, `later` and `laterAt` the conditions and the freeze point found for bundles after a release,
`laterClear` the wall cycle on which the last of them cleared before it, and `debtAt` one more than the last schedule cycle on which refresh debt was counted. -/
structure Group where
  inst : Nat := 0
  index : Nat := 0
  cols : List Nat := []
  phase : Phase := .idle
  sched : Nat := 0
  stalls : Nat := 0
  started : Bool := false
  checked : Bool := false
  conds : List Freeze := []
  freezeStalls : Nat := 0
  freezeAt : Option Nat := none
  endAt : Option (Nat × Nat × Nat) := none
  clearedAt : Nat := 0
  fragValid : Bool := false
  fragIndex : Nat := 0
  gnextAt : Nat := 0
  entry : Option Nat := none
  preempt : Bool := false
  freezeAfter : Bool := false
  barrier : Option (Nat × Bool) := none
  looked : Nat := 0
  later : List Freeze := []
  laterAt : Option Nat := none
  laterClear : Nat := 0
  debtAt : Nat := 0
  lastEntry : Nat := 0
  abandoning : Bool := false
  captured : Bool := false
  agenda : List Item := []
  ending : Bool := false
deriving DecidableEq, Repr

/-! ### Decode attention (10 R296) -/

/-- A state slot of a decode attention engine: binding, queries, running state, tree mask, status word, and its prefetch
state: the pages in its buffers and the next to fetch. -/
structure DaSlot where
  bound : Bool := false
  desc : Row := []
  queries : List Nat := []
  m : FMap Int := []
  l : FMap Nat := []
  acc : FMap Nat := []
  plen : Nat := 0
  image : List Byte := []
  status : Nat := 0
  pages : List Nat := []
  nextPage : Nat := 0
deriving DecidableEq, Repr

/-! ### The Stacks (11 R318, R322) -/

/-- A deferred fault of a node (11 R345). -/
structure NodeFault where
  gen : Nat
  node : Nat
  cause : Nat
  chain : Nat
deriving DecidableEq, Repr

/-- A window generation (11 R322, R324). -/
structure Gen where
  base : Nat := 0xFF
  nodes : Nat := 0
  depth : Nat := 0
  clen : Nat := 0
  cfc : Nat := 0
  parents : List Nat := []
deriving DecidableEq, Repr

/-- A sequence record (11 R322, R347): `live` holds the live generations, oldest first; `fmts` the chains whose format is not
`kvfmt`; `fc`, `feats` and `fpages` the feature entries, as row pointers (0 for a zero entry), and the pages they lie in; `opened` tells one opening of a
sequence number from another. -/
structure Sequence where
  isOpen : Bool := false
  len : Nat := 0
  gcnt : Nat := 0
  live : List Nat := []
  pin : Nat := 0
  nchain : Nat := 0
  d : Nat := 0
  ptok : Nat := 0
  kvfmt : Nat := 0
  fw : Nat := 0
  tier : Nat := 0
  homes : List Nat := []
  err : Nat := 0
  errop : Nat := 0
  ctab : Nat := 0
  forked : Bool := false
  heads : FMap Nat := []
  gens : FMap Gen := []
  fmts : FMap Nat := []
  fc : Nat := 0
  feats : FMap Nat := []
  fpages : List Nat := []
  faults : List NodeFault := []
  part : Nat := 0
  opened : Nat := 0
deriving DecidableEq, Repr

/-- A copy or requantisation in flight (11 R339, R341): the opening of its sequence, and the pools of the pages it has taken. -/
structure PageCopy where
  id : Nat
  seq : Nat
  chain : Nat
  page : Nat
  dests : List Nat
  newFmt : Option Nat
  card : JobCard
  opened : Nat := 0
  keys : List Nat := []
deriving DecidableEq, Repr

/-- A page pool: the free pages, as row pointers (11 R318). -/
abbrev Pool := List Nat

/-! ### Sampling and acceptance (12 R349) -/

/-- An assumption of run-ahead work (12 R367). -/
structure Assumption where
  inst : Nat
  seq : Nat
  gen : Nat
  node : Nat
  col : Nat
  entry : Nat
  part : Nat
deriving DecidableEq, Repr

/-- The last outcome of a sequence (12 R365). -/
structure LastOutcome where
  gen : Nat := 0
  node : Option Nat := none
  valid : Bool := false
deriving DecidableEq, Repr

/-- Statistics of an instance (12 R372). -/
structure SampStats where
  completed : FMap Nat := []
  codes : FMap Nat := []
  words : Nat := 0
  lastS : Nat := 0
  lastC : Nat := 0
  refusals : Nat := 0
  abandons : Nat := 0
  fallbacks : Nat := 0
deriving DecidableEq, Repr

/-! ### Time and ingest (13 R374) -/

/-- A tick (13 R379): `from_` is the first wall cycle at which it may fire, `next` its next instant and `last` the last that
fired. -/
structure Tick where
  armed : Bool := false
  period : Nat := 0
  phase : Nat := 0
  from_ : Nat := 0
  next : Nat := 0
  last : Option Nat := none
deriving DecidableEq, Repr

/-- A steering rule: its installing row and instance, and its counters (13 R383, R397). -/
structure Rule where
  installed : Bool := false
  row : Row := []
  inst : Nat := 0
  part : Nat := 0
  matched : Nat := 0
  ringFull : Nat := 0
  trunc : Nat := 0
  noStream : Nat := 0
  noRing : Nat := 0
deriving DecidableEq, Repr

/-- What a stream has staged for an interval (13 R388): its tokens, whether a frame with LAST came, and that frame's
timestamp. -/
structure Staged where
  interval : Nat
  tokens : List (List Byte) := []
  complete : Bool := false
  arr : Nat := 0
deriving DecidableEq, Repr

/-- A stream (13 R388, R389, R397): its binding, its policy, what it has staged, the lowest interval not yet decided (`next`),
the tokens of the last entry made, its counters, and the wall cycle of the last step sent to the Stacks. -/
structure Stream where
  bound : Bool := false
  inst : Nat := 0
  tick : Nat := 0
  period : Nat := 0
  col : Nat := 0
  g : Nat := 0
  tw : Nat := 1
  seq : Nat := 0xFF
  keep : Nat := 0
  first : Nat := 0
  policy : Nat := 0
  npad : Nat := 1
  grace : Nat := 0
  pad : List Byte := []
  next : Nat := 0
  staged : List Staged := []
  lastEntry : Option (List (List Byte)) := none
  intervals : Nat := 0
  arrived : Nat := 0
  late : Nat := 0
  latePkt : Nat := 0
  earlyPkt : Nat := 0
  overTok : Nat := 0
  dropTok : Nat := 0
  ringFull : Nat := 0
  slideFail : Nat := 0
  lastDecision : Nat := 0
  lastInterval : Nat := 0
  lastStatus : Nat := 0
  slideAt : Nat := 0
deriving DecidableEq, Repr

/-- A delivery entry that waits for its pre-empted instance (13 R398). -/
structure Delivery where
  inst : Nat
  col : Nat
  g : Nat
  row : Row
deriving DecidableEq, Repr

/-- A watch (13 R392). -/
structure Watch where
  armed : Bool := false
  inst : Nat := 0
  col : Nat := 0
  tick : Nat := 0
  entry : Nat := 0
  offset : Nat := 0
  isOpen : Bool := false
  deadline : Nat := 0
  opened : Nat := 0
  met : Nat := 0
  missed : Nat := 0
  lastMissed : Nat := 0
deriving DecidableEq, Repr

/-- An Ethernet port (13 R377, R378, R397; 16 R449): `sent` holds the frames sent on it and `sentAt` the timestamp of the last event message among
them. -/
structure EthPort where
  part : Option Nat := none
  ptp : Bool := false
  frames : Nat := 0
  badFcs : Nat := 0
  clock : Nat := 0
  toFront : Nat := 0
  received : List (List Byte) := []
  portState : Nat := 0
  meanPathDelay : Nat := 0
  offset : Nat := 0
  lastSync : Nat := 0
  sent : List (List Byte) := []
  sentAt : Nat := 0
deriving DecidableEq, Repr

/-! ### Link (14 R399) -/

/-- A member's part of a barrier or a reduction that waits for the own card (14 R414, R415): the member's module, which of the two it is, the
identifier and how many with it came before, the SUB, and its bytes. -/
structure JoinPart where
  module : Nat
  bar : Bool
  id : Nat
  k : Nat
  arrival : Bool
  data : List Byte
deriving DecidableEq, Repr

/-- A message of a peer that waits to be served (14 R404, R412): its queue, the partition it is for, what it asks or brings (0 write rows,
1 read rows, 2 deliver to a ring, 3 release, 4 acquire, 5 a member's part of a reduction, 6 of a barrier), the address, or the colonnade and
ring, and its rows. -/
structure Incoming where
  queue : Nat
  part : Nat
  kind : Nat
  addr : Nat
  col : Nat
  g : Nat
  count : Nat
  rows : List (List Byte)
  at_ : Nat := 0
deriving DecidableEq, Repr

/-- A UCIe port (14 R399 to R403, R420, R421): its state (0 DOWN, 1 TRAINING, 2 UP), its peer module, the sequence numbers of its
flits, the flits not yet acknowledged and behind them the messages of cards (`out`), those outside the queues (`urgent`) and what is left of
the one on its way (`rest`), the last acknowledging flit it sent, its counters, by partition the cards and the TRAP policy, the paired partitions,
own and peer's, the message bytes received, and the messages being served. -/
structure LinkPort where
  up : Nat := 0
  peer : Nat := 0xFF
  sendSeq : Nat := 0
  goodSeq : Nat := 0xFFF
  acked : Nat := 0xFFF
  window : List (List Byte) := []
  replays : Nat := 0
  ackAt : Nat := 0
  out : List (List Byte) := []
  urgent : List (List Byte) := []
  rest : List Byte := []
  reply : List Byte := []
  sent : Nat := 0
  received : Nat := 0
  crcFail : Nat := 0
  replayed : Nat := 0
  downs : Nat := 0
  completed : FMap Nat := []
  failed : FMap Nat := []
  codes : FMap Nat := []
  trap : FMap Bool := []
  paired : List (Nat × Nat) := []
  stream : List Byte := []
  waiting : List Incoming := []
deriving DecidableEq, Repr

/-! ### Front end, host and management (15, 16) -/

/-- A completion record (15 R424, R427, R429, R440). -/
structure Completion where
  part : Nat
  queue : Nat
  pos : Nat
  status : Nat
  detail : List Byte
deriving DecidableEq, Repr

/-- A section of a code object, and the offset of its body in the object (02 R76). -/
structure ObjSection where
  off : Nat := 0
  ty : Nat
  variant : Nat
  group : Nat
  col : Nat
  core : Nat
  data : List Byte
deriving DecidableEq, Repr

/-- A code object as the loader reads it (02 R75 to R77): the fields of its header, its groups of logical colonnades, and its
sections. -/
structure Object where
  mains : Nat := 0
  draft : Nat := 0
  refresh : Nat := 0
  energy : Nat := 7
  lent : Bool := false
  seedspace : Nat := 0
  safemax : Nat := 0
  digest : List Byte := []
  groups : List (List Nat) := []
  sections : List ObjSection := []
deriving DecidableEq, Repr

/-- One execution of a code object (01 R45, R46): its number, partition and launch, its place by logical colonnade, its variant and
priority, how it ended, what was saved at its pre-emption, and what the front end wants of it: to leave its colonnades
(`evict`), a thermal relaunch or hold (`heat`: 1 class H, 2 hold, 3 back to the primary), a checkpoint, after which alone it stays where it
is (`stay`), with whom to tell once its groups are released again (`restored`); the hot colonnades it is held for, and when it ended. -/
structure Inst where
  number : Nat := 0
  part : Nat := 0
  queue : Nat := 0
  launch : Nat := 0
  object : Object := {}
  cols : FMap Nat := []
  groups : List Nat := []
  placed : Bool := false
  variant : Nat := 0
  priority : Nat := 0
  status : Option Nat := none
  cause : Nat := 0
  tval : Nat := 0
  saved : List (Nat × List Byte) := []
  savedAt : Nat := 0
  parked : List (Nat × JobCard) := []
  order : Nat := 0
  waiting : Bool := false
  placing : Bool := false
  saving : Bool := false
  evict : Bool := false
  heat : Nat := 0
  held : Bool := false
  hotCols : List Nat := []
  endedAt : Nat := 0
  reaped : Bool := false
  checkpoint : Option (Nat × Reply) := none
  restored : Option Reply := none
  stay : Bool := false
deriving DecidableEq, Repr

/-- A launch (15 R426 to R429): its entry, its object, the numbers of its instances, what each receives before its release, the
instances it has placed, and how those that ended did. -/
structure Launch where
  part : Nat := 0
  queue : Nat := 0
  pos : Nat := 0
  priority : Nat := 0
  object : Object := {}
  objAddr : Nat := 0
  base : Nat := 0
  count : Nat := 0
  next : Nat := 0
  first : Bool := true
  data : List Byte := []
  records : FMap (List Byte) := []
  contexts : FMap (List Byte) := []
  insts : List Nat := []
  ended : Nat := 0
  fault : Option (Nat × Nat × Nat) := none
  killed : Bool := false
  reclaimed : Bool := false
  thermal : Bool := false
  placing : Bool := false
  finished : Bool := false
deriving DecidableEq, Repr

/-- A submission entry: its 64 bytes, and what an administration command brings with it (log entry 28). -/
structure SubEntry where
  bytes : List Byte
  rows : List (Nat × List Byte) := []
deriving DecidableEq, Repr

/-- A submission queue (15 R424): the entries not yet started, the position of the first of them, whether an entry has started and
is being processed, and the LAUNCH that holds the queue. -/
structure SubQueue where
  entries : List SubEntry := []
  pos : Nat := 0
  started : Bool := false
  launch : Option Nat := none
deriving DecidableEq, Repr

/-- A run of a resident graph (15 R437, R438): ARG, the node it is at and the wall cycle at which it came to it, how often each LOOP has
gone to its target, the launch that it waits for, and whether it waits for a burst. -/
structure GraphRun where
  arg : Nat := 0
  node : Nat := 0
  came : Nat := 0
  loops : FMap Nat := []
  launch : Option Nat := none
  waits : Bool := false
deriving DecidableEq, Repr

/-- A resident graph (15 R437, R438): its nodes, its trigger burst, the current run, the arguments of the runs that wait, how many
trigger writes were dropped, and each LAUNCH node's launches, the newest first. -/
structure Graph where
  loaded : Bool := false
  nodes : List (List Byte) := []
  trigger : Option Nat := none
  cur : Option GraphRun := none
  runs : List Nat := []
  dropped : Nat := 0
  newest : FMap (List Nat) := []
deriving DecidableEq, Repr

/-- A burst of device memory whose writing the front end is told of: its number (flat address / 32), the graph, and whether a run
waits for it (15 R437, R438). -/
structure Trigger where
  burst : Nat
  part : Nat
  graph : Nat
  wait : Bool
deriving DecidableEq, Repr

/-- A loan (15 R433, R435): its colonnades, all that were lent, MEM, and, once it is being taken back, since when and for whom, and whether what had not been saved has
ended; `extent` holds the instances whose saved contexts lie in the lent extent. -/
structure Lease where
  lender : Nat := 0
  borrower : Nat := 0
  cols : List Nat := []
  all : List Nat := []
  mem : Nat := 0
  since : Option Nat := none
  reply : Reply := .none
  overdue : Bool := false
  handing : Bool := false
  extent : List Nat := []
deriving DecidableEq, Repr

/-- A partition (01 R48; 15 R424, R438; 16 R446 to R448): its colonnades, what it has been granted, the engines on which it holds no queue (a
mask of engine codes), the weights of its engine queues (01 R31), its host ranges and window, its function's registers, submission
queues and event ring, the MSI-X messages sent (vector, address, data), the vectors unmasked and those pending, how far its rings in host memory
have been written and read, graphs, seeds, link tables, and the DIGEST last measured. -/
structure Partition where
  live : Bool := false
  cols : List Nat := []
  seqs : List Nat := []
  ticks : List Nat := []
  rules : List Nat := []
  streams : List Nat := []
  watches : List Nat := []
  permits : List Nat := []
  noQueues : Nat := 0
  weights : FMap Nat := []
  hostRanges : List (Nat × Nat) := []
  windowTable : FMap (BitVec 128) := []
  winErr : Bool := false
  regs : FMap Word := []
  subs : FMap SubQueue := []
  turns : FMap Nat := []
  events : List (Nat × List Byte) := []
  raised : List (Nat × Nat × Nat) := []
  unmasked : List Nat := []
  pend : List Nat := []
  cplTail : Nat := 0
  evTail : Nat := 0
  rxTail : Nat := 0
  txHead : Nat := 0
  graphs : FMap Graph := []
  objSeed : Word := 0
  seeds : FMap Word := []
  exports : FMap (BitVec 128) := []
  stages : FMap (Option (Nat × Nat)) := []
  counts : FMap Nat := []
  joins : List JoinPart := []
  measured : List Byte := []
deriving DecidableEq, Repr

/-- What the front end is told (01 R35; 10 R306; 11 R346; 13 R392): a Trellis overflow (instance, logical colonnade, line), an absent address
(instance, address; of an export table, partition, address: 14 R409), a deadline missed (watch, instant), and a trap of an instance that has retired (instance, cause, TVAL); and what it
reports to system software at boot: the correction mode of each channel, D or S (09 R292). -/
inductive Notice where
  | overflow (inst logical line : Nat)
  | absent (inst addr : Nat)
  | absentExport (part addr : Nat)
  | missed (watch instant : Nat)
  | trap (inst cause tval : Nat)
  | correction (col ch : Nat) (modeD : Bool)
deriving DecidableEq, Repr

/-- What a scratchpad or block row held before a timed write made at a wall cycle (04 R111): the row by its place in the byte memory / 256. -/
structure OldRow where
  row : Nat
  wall : Nat
  data : Row
deriving DecidableEq, Repr

/-- The whole device. `turns` and `starting` hold, by engine, the queue whose turn it is with the cards started in that turn, and one
more than the serial of the card that starts next (01 R31); `dtPast` holds the last changes of device time and INC, newest first: the wall cycle,
and device time and INC as they were (13 R378); `notices` what the front end is told; `olds` the rows that timed writes replaced while a card could read them, `since` the wall cycle from
which the untimed work in hand reads, 0 outside such work, `work` whose it is, and `port` and `wrote` the rows and the access units that it
has written (04 R110, R111; 09 R280). -/
structure State where
  powered : Bool := true
  fatal : Bool := false
  wall : Nat := 0
  cursor : Nat := 0
  inputs : List (Nat × Event) := []
  ev : EvArgs := {}
  agenda : List Item := []
  ctr : Nat := 0
  here : Here := {}
  trapNow : Option Trap := none
  mem : Memory := []
  tags : FMap Byte := []
  olds : List OldRow := []
  since : Nat := 0
  work : Nat := 0
  port : List Nat := []
  wrote : List PortUnit := []
  errs : FMap Nat := []
  cores : FMap Core := []
  cols : FMap Col := []
  groups : FMap Group := []
  queues : FMap CardQueue := []
  turns : FMap Nat := []
  starting : FMap Nat := []
  notices : List Notice := []
  da : FMap DaSlot := []
  seqs : FMap Sequence := []
  pools : FMap Pool := []
  readers : List (Nat × Nat × Nat) := []
  leaving : List (Nat × Nat × List Nat) := []
  copies : List PageCopy := []
  assumptions : List Assumption := []
  outcomes : FMap LastOutcome := []
  samp : FMap SampStats := []
  dtSec : Nat := 0
  dtNs : Nat := 0
  dtFrac : Nat := 0
  dtPast : List (Nat × Nat × Nat) := []
  inc : Nat := Config.nominalInc
  clock : Nat := 0
  ticks : FMap Tick := []
  rules : FMap Rule := []
  streams : FMap Stream := []
  watches : FMap Watch := []
  deliveries : List Delivery := []
  timeQueues : FMap Nat := []
  ports : FMap EthPort := []
  modNum : Nat := 0
  links : FMap LinkPort := []
  parts : FMap Partition := []
  insts : FMap Inst := []
  launches : FMap Launch := []
  completions : List Completion := []
  leases : FMap Lease := []
  admin : SubQueue := {}
  triggers : List Trigger := []
  journal : Nat := 0
  beats : FMap Nat := []
  hung : List Nat := []
  dump : List Byte := []
  stage : Nat := 0
  bootcode : Nat := 0
  mgmtFrom : Nat := 0
  powerMode : Nat := 2
  powerGoal : Option (Nat × Reply) := none
  samples : List Nat := []
  meas : FMap (List Byte) := []
  image : List Byte := []
  newImage : Option (List Byte × Reply) := none
  updating : Option Nat := none
  report : List Byte := []
  mailbox : List Byte := []
  readData : List Byte := []
  pcieUp : Bool := false
deriving DecidableEq, Repr

/-- The machine right after reset (16 R451, R458): main power on, nothing booted, no partition, no instance, every
register and memory at its reset value (every sparse map empty). -/
def State.reset : State := {}

end Sys2Proof.Machine
end

