-- ==== Sys2Proof/WellFormed.lean ====
section
/-! DEFINITION. Which instructions an encoding may stand for: the field values that R58 to R63 and the engine
chapters forbid at the bundle whatever the registers hold. A slot that is not well formed raises ILLEGAL. -/

namespace Sys2Proof

/-- Elements in a lane of a vector type (08 R228). -/
def VType.k : VType → Nat
  | .i32 => 1 | .f32 => 1 | .i16x2 => 2 | .bf16x2 => 2 | .f16x2 => 2 | .i8x4 => 4 | .e4m3x4 => 4 | .e5m2x4 => 4

/-- Whether a vector type is an integer type (08 R235). -/
def VType.isInt : VType → Bool
  | .i32 => true | .i16x2 => true | .i8x4 => true | _ => false

/-- Element width of a vector type. -/
def VType.width (t : VType) : Nat := 32 / t.k

/-- The code of a vector type (02 R59). -/
def VType.code : VType → Nat
  | .i32 => 0 | .i16x2 => 1 | .i8x4 => 2 | .f32 => 3 | .bf16x2 => 4 | .f16x2 => 5 | .e4m3x4 => 6 | .e5m2x4 => 7

/-- The vector type of a code. -/
def VType.ofCode : Nat → VType
  | 0 => .i32 | 1 => .i16x2 | 2 => .i8x4 | 3 => .f32 | 4 => .bf16x2 | 5 => .f16x2 | 6 => .e4m3x4 | _ => .e5m2x4

/-- The queue's code (02 R59). -/
def QueueId.code : QueueId → Nat
  | .ma => 0 | .mb => 1 | .vq0 => 2 | .vq1 => 3 | .vq2 => 4 | .vq3 => 5 | .sq => 6 | .lq => 7 | .iq => 8

/-- The queue of a code; 9 to 15 raise ILLEGAL. -/
def QueueId.ofCode : Nat → Option QueueId
  | 0 => some .ma | 1 => some .mb | 2 => some .vq0 | 3 => some .vq1 | 4 => some .vq2 | 5 => some .vq3
  | 6 => some .sq | 7 => some .lq | 8 => some .iq | _ => none

/-- Rows a queue holds (06 R172). -/
def QueueId.depth : QueueId → Nat
  | .ma => 64 | .mb => 64 | .sq => 64 | .lq => 16 | .iq => 16 | _ => 32

/-- Queues that a load, GATHER, RMERGE or LTAP may push (06 R172). -/
def QueueId.loadable : QueueId → Bool
  | .sq => false | .iq => false | _ => true

/-- Queues that a store, SCATTER or LPUT may pop (06 R172). -/
def QueueId.storable : QueueId → Bool
  | .sq => true | .lq => true | _ => false

/-- The comparison of a cond code; 6 and 7 raise ILLEGAL (02 R59). -/
def Cond.ofCode : Nat → Option Cond
  | 0 => some .eq | 1 => some .ne | 2 => some .lt | 3 => some .le | 4 => some .ltn | 5 => some .len | _ => none

/-- The code of a comparison. -/
def Cond.code : Cond → Nat
  | .eq => 0 | .ne => 1 | .lt => 2 | .le => 3 | .ltn => 4 | .len => 5

/-- The predicate operation of a cond code (05 R140). -/
def PlogOp.ofCode : Nat → Option PlogOp
  | 0 => some .and | 1 => some .or | 2 => some .xor | 3 => some .andn | 4 => some .orn | 5 => some .xnor | _ => none

/-- The code of a predicate operation. -/
def PlogOp.code : PlogOp → Nat
  | .and => 0 | .or => 1 | .xor => 2 | .andn => 3 | .orn => 4 | .xnor => 5

/-- The code of a width. -/
def Sz.code : Sz → Nat
  | .w64 => 0 | .w32 => 1 | .w16 => 2 | .w8 => 3

/-- The width of a code. -/
def Sz.ofCode : Nat → Sz
  | 0 => .w64 | 1 => .w32 | 2 => .w16 | _ => .w8

/-- The width in bits, 64 >> sz (02 R59). -/
def Sz.bits : Sz → Nat
  | .w64 => 64 | .w32 => 32 | .w16 => 16 | .w8 => 8

/-- The number of a handle field (05 R131). -/
def HField.code : HField → Nat
  | .base => 0 | .space => 1 | .tid => 2 | .tag => 3 | .fmt => 4 | .dim0 => 5 | .dim1 => 6 | .walk => 7
  | .tilew => 8 | .tileh => 9 | .pitch => 10 | .scale => 11 | .tx => 12 | .ty => 13

/-- The field of a number; 14 and 15 raise ILLEGAL (05 R141). -/
def HField.ofCode : Nat → Option HField
  | 0 => some .base | 1 => some .space | 2 => some .tid | 3 => some .tag | 4 => some .fmt | 5 => some .dim0
  | 6 => some .dim1 | 7 => some .walk | 8 => some .tilew | 9 => some .tileh | 10 => some .pitch
  | 11 => some .scale | 12 => some .tx | 13 => some .ty | _ => none

/-- Whether a k-space number is a register (05 R133). -/
def knumReadable (k : Nat) : Bool :=
  k ≤ 0x00B || (0x010 ≤ k && k ≤ 0x015) || (0x100 ≤ k && k ≤ 0x140)

/-- Whether a k-space register may be written at all; EPC in shadow mode only (05 R133). -/
def knumWritable (k : Nat) : Bool :=
  k = 0x008 || k = 0x009 || k = 0x00B || k = 0x010 || k = 0x011 || k = 0x014 || k = 0x015 ||
    (0x100 ≤ k && k ≤ 0x140)

/-- Queues of the engine with an engine code (01 R9, 05 R153); 0 for a code that names none. -/
def engineQueues (e : Nat) : Nat :=
  if e = 0 then 0 else if e = 3 ∨ e = 4 then 8 else if e ≤ 9 then 4 else 0

/-- Whether a vector mode code is a rounding code of an arithmetic instruction: rne, rz, sr (03 R91). -/
def roundMode (m : Nat) : Bool := m ≤ 2

/-- Reduction operators (08 R254): the operator exists, suits the type, and saturation is for integer add. -/
def reduceOk (t : VType) (op : Nat) (sat : Bool) : Bool :=
  op ≤ 7 && (op ≤ 2 || t.isInt) && (!sat || (op = 0 && t.isInt))

/-- Whether a five-bit field names a mask m0-m7 (08 R235). -/
def maskField (v : VReg) : Bool := v.val < 8

/-- The vector field and mode checks of 08 R235 that all opcodes of one shape share: binary arithmetic. -/
def wfArith (v : VArgs) : Bool := if v.ty.isInt then v.mode.val ≤ 1 else roundMode v.mode.val

/-- Bitwise operations: registers in mode 0, masks of type i32 in mode 3 (08 R243). -/
def wfBitwise (v : VArgs) : Bool :=
  v.ty.isInt && (v.mode.val = 0 ||
    (v.mode.val = 3 && v.ty = .i32 && maskField v.vd && maskField v.va && maskField v.vb))

/-- Shifts: counts from a register, or an immediate count below the width (08 R241). -/
def wfShift (v : VArgs) : Bool :=
  v.ty.isInt && (v.mode.val = 0 || (v.mode.val = 1 && v.vb.val < v.ty.width))

/-- VCVT: part below the ratio of element counts, e4m3 alone in mode 3 (08 R247). -/
def wfCvt (v : VArgs) : Bool :=
  let kt := (VType.ofCode (v.vb.val % 8)).k
  let ks := v.ty.k
  let q := if kt > ks then kt / ks else ks / kt
  (v.vb.val / 8 < q) && (v.mode.val ≤ 2 || v.vb.val % 8 = 6)

/-- A job card's queue number. -/
def Card.wf (c : Card) (queues : Nat) : Bool := c.queue < queues

/-- A row operand of a memory command: a space code 0-8 (09 R268). -/
def RowRef.wf (r : RowRef) : Bool := r.space.val ≤ 8 && (r.space.val ≠ 0 || r.row.val < 4096)

/-- The highest set bit position of a mask word plus one, by trial from the top. -/
def topBit (m : Nat) : Nat := (List.range 32).foldl (fun acc i => if (m / 2 ^ i) % 2 = 1 then i + 1 else acc) 0

/-- Whether an instruction's field values are ones that an encoding may carry (02 R58 to R63 and the chapters). -/
def Instr.wf : Instr → Bool
  | .repts a _ _ _ _ => a.val ≠ 0
  | .krd _ k => knumReadable k.toNat
  | .kwr _ k => knumWritable k.toNat
  | .shli _ imm => imm.toNat < 64
  | .shri _ imm => imm.toNat < 64
  | .sari _ imm => imm.toNat < 64
  | .hmake _ a => a.val ≤ 60
  | .waitev _ base mask => mask.toNat ≠ 0 && base.val + topBit mask.toNat ≤ 128
  | .sigev n => n.toNat ≠ 0
  | .sigevRemote _ _ n => n.toNat ≠ 0
  | .evarmWindow e q base => q.val < engineQueues e.val && base.val ≤ 112
  | .ldq q _ n => (q.loadable || q = .iq) && n.val ≠ 0
  | .ldqs q _ _ => q.loadable || q = .iq
  | .stq q _ n => q.storable && n.val ≠ 0
  | .stqs q _ _ => q.storable
  | .copy hd n => hd.val ≤ 30 && n.val ≠ 0
  | .gather q _ n _ => q.loadable && n.val ≠ 0
  | .scatter q _ n _ => q.storable && n.val ≠ 0
  | .rmerge q _ n _ => (q.loadable || q = .iq) && n.val ≠ 0 && n.val ≤ 2046
  | .lputQ q _ _ => q.storable
  | .ltap q _ _ => q.loadable || q = .iq
  | .tcpf _ n => n.val ≠ 0
  | .tcwb _ n => n.val ≠ 0
  | .tcinv _ n => n.val ≠ 0
  | .rinit _ h e thresh =>
    h.val ≠ 0 && [1, 2, 4, 8, 16, 32, 64, 128, 256, 512, 1024, 2048, 4096].contains e.val && thresh.val ≤ e.val
  | .rclaim _ _ n => n.val ≠ 0
  | .rpush _ _ n => n.val ≠ 0
  | .rpop _ _ n => n.val ≠ 0
  | .rstat _ h => h.val ≠ 0
  | .atadd x => x.byte.val % (x.sz.bits / 8) = 0 && x.b.val = 0
  | .atmin x => x.byte.val % (x.sz.bits / 8) = 0 && x.b.val = 0
  | .atmax x => x.byte.val % (x.sz.bits / 8) = 0 && x.b.val = 0
  | .atxch x => x.byte.val % (x.sz.bits / 8) = 0 && x.b.val = 0
  | .atcas x => x.byte.val % (x.sz.bits / 8) = 0
  | .ator x => x.byte.val % (x.sz.bits / 8) = 0 && x.b.val = 0
  | .atradd x => x.byte.val % (x.sz.bits / 8) = 0 && x.b.val = 0 && x.sz = .w32
  | .qfence all mask e =>
    if all then mask.toNat = 0 && e.val = 0
    else mask.toNat ≠ 0 && engineQueues e.val ≠ 0 && mask.toNat < 2 ^ engineQueues e.val
  | .seqtag _ n => n.val ≠ 0
  | .mcfg f l => f.val ≤ 6 && (if f.val = 6 then l.toNat < 2 ^ 21 else l.toNat < 2 ^ 25)
  | .mcfgi l _ => l.val ≤ 5
  | .mdrain _ _ q0 nq => q0.val + nq.val + 1 ≤ 4
  | .mepi l =>
    let fmt := l.toNat % 16; let rnd := l.toNat / 16 % 4; let ieee := l.toNat / 64 % 2
    let act := l.toNat / 128 % 4; let heap := l.toNat / 1024 % 2; let sh := l.toNat / 65536 % 256
    fmt ≤ 8 && rnd ≤ 2 && act ≤ 2 && l.toNat / 2048 % 32 = 0 && l.toNat / 2 ^ 30 = 0 &&
      (fmt ≠ 0 || (heap = 0 && act = 0 && sh = 0)) && (ieee = 0 || fmt = 7)
  | .mconst l =>
    l.toNat ≠ 0 && l.toNat % 8 ≤ 5 && l.toNat / 32 % 8 ≤ 5 && l.toNat / 256 % 8 ≤ 5 &&
      l.toNat / 2048 % 32 = 0
  | .mmaskWindow _ w => w.toNat ≠ 0
  | .mcoop l => l.toNat ≠ 0 && l.toNat / 256 = 0 && (l.toNat / 64 % 2 = 0 || l.toNat / 128 % 2 = 0)
  | .vadd v => wfArith v
  | .vsub v => wfArith v
  | .vmul v => wfArith v
  | .vmac v => v.ty.isInt && (v.mode.val ≤ 1 || (v.ty ≠ .i32 && v.vd.val % v.ty.k = 0))
  | .vfma v => !v.ty.isInt && roundMode v.mode.val
  | .vmin v => if v.ty.isInt then v.mode.val ≤ 1 else v.mode.val = 0
  | .vmax v => if v.ty.isInt then v.mode.val ≤ 1 else v.mode.val = 0
  | .vabs v => v.vb.val = 0 && (if v.ty.isInt then v.mode.val ≤ 1 else v.mode.val = 0)
  | .vneg v => v.vb.val = 0 && (if v.ty.isInt then v.mode.val ≤ 1 else v.mode.val = 0)
  | .vand v => wfBitwise v
  | .vor v => wfBitwise v
  | .vxor v => wfBitwise v
  | .vnot v => wfBitwise v && v.vb.val = 0
  | .vshl v => wfShift v
  | .vshr v => wfShift v
  | .vsar v => wfShift v
  | .vrshr v => wfShift v
  | .vsat v => v.ty.isInt && v.mode.val ≤ 1 && v.vb.val + 1 ≤ v.ty.width
  | .vclz v => v.ty.isInt && v.vb.val = 0 && v.mode.val = 0
  | .vffs v => v.ty.isInt && v.vb.val = 0 && v.mode.val = 0
  | .vpopc v => v.ty.isInt && v.vb.val = 0 && v.mode.val = 0
  | .vcmp v =>
    let cond := v.vd.val / 8 * 4 + v.mode.val
    cond ≤ 5 && (cond ≤ 3 || v.ty.isInt)
  | .vsel _ => true
  | .vcvt v => wfCvt v
  | .vsrnd v => v.ty = .f32
  | .vrand v => (v.ty = .i32 || v.ty = .f32) && v.vb.val = 0 && v.mode.val = 0
  | .viota v => v.ty.isInt && v.va.val = 0 && v.vb.val = 0 && v.mode.val ≤ 2
  | .vmov v =>
    v.vb.val = 0 &&
      (match v.mode.val with
       | 0 => true | 1 => maskField v.va | 2 => maskField v.vd | _ => maskField v.vd && maskField v.va)
  | .vimm v _ => v.va.val = 0 && v.vb.val = 0 && v.mode.val = 0
  | .vmulh v => v.ty.isInt && v.mode.val ≤ 1
  | .vrotr _ => true
  | .vrotc v => v.vb.val < 16 && v.mode.val = 0
  | .vbcr v => v.mode.val ≤ 1
  | .vbcc v => v.vb.val < 16 && v.mode.val = 0
  | .vredr v => reduceOk v.ty v.vb.val (v.mode.val / 2 = 1)
  | .vredc v => reduceOk v.ty v.vb.val (v.mode.val / 2 = 1) && v.mode.val % 2 = 0
  | .vscanr v => reduceOk v.ty v.vb.val (v.mode.val / 2 = 1)
  | .vscanc v => reduceOk v.ty v.vb.val (v.mode.val / 2 = 1) && v.mode.val % 2 = 0
  | .vshfr v => v.ty = .i32 && v.mode.val ≤ 1
  | .vtrn v => v.vb.val = 0 && v.mode.val = 0
  | .vpop v => v.va.val < 4 && v.vb.val < 16 && v.ty = .i32 && v.mode.val = 0
  | .vpush v => v.vd.val = 0 && v.vb.val < 16 && v.ty = .i32 && v.mode.val = 0
  | .vrdacc v => v.vb.val < 4 && v.ty = .i32 && v.mode.val ≤ 2
  | .vwracc v => v.vb.val < 4 && v.ty = .i32 && v.mode.val ≤ 2
  | .vsfn v => v.ty = .f32 && v.mode.val = 0
  | .vcoef v l =>
    v.vd.val = 0 && v.va.val < 4 && v.vb.val = 0 && v.ty = .i32 && v.mode.val = 0 &&
      l.toNat / 64 % 4 = 0 && l.toNat / 16384 = 0 && l.toNat % 64 + (l.toNat / 256 % 64 + 1) ≤ 64
  | .drd _ _ _ r _ _ => r.wf
  | .dwr _ _ _ r _ _ => r.wf
  | .dmrw _ mr _ => 0x20 ≤ mr.toNat && mr.toNat ≤ 0x3F
  | .dmrr _ _ r _ => r.wf
  | .dtlb _ first count _ => first.val + count.val + 1 ≤ 1024
  | .dtlbq _ _ r _ => r.wf
  | .dpfs _ mask => mask.toNat ≠ 0
  | .qbind c _ => c.wf 4
  | .qstep c _ => c.wf 4
  | .qmask c _ => c.wf 4
  | .qmerge c _ => c.wf 4
  | .qstate c _ => c.wf 4
  | .qchain c _ => c.wf 4
  | .knew c => c.wf 4
  | .knewSeq c => c.wf 4
  | .kput c => c.wf 4
  | .ktree c => c.wf 4
  | .kcommit c => c.wf 4
  | .ksquash c => c.wf 4
  | .ksquashSeq c => c.wf 4
  | .kfork c => c.wf 4
  | .kpin c => c.wf 4
  | .kslide c => c.wf 4
  | .kdemote c _ => c.wf 4
  | .kpromote c _ => c.wf 4
  | .kfeat c _ => c.wf 4
  | .kfeatRd c _ => c.wf 4
  | .kfroll c => c.wf 4
  | .kquery c => c.wf 4
  | .kqueryHeads c => c.wf 4
  | .kreq c => c.wf 4
  | .gseedSeq _ c => c.wf 8
  | .gseedObj _ c => c.wf 8
  | .gsoft _ c => c.wf 8
  | .gsoftTopk _ c => c.wf 8
  | .gcdf _ c => c.wf 8
  | .gpick _ c => c.wf 8
  | .gpickTopk _ c => c.wf 8
  | .gaccept _ c => c.wf 8
  | .gacceptGreedy _ c => c.wf 8
  | .gresid _ c => c.wf 8
  | .gnext _ c => c.wf 8
  | .gparamAssume _ c => c.wf 8
  | .gparamClear _ c => c.wf 8
  | .gpub _ c => c.wf 8
  | .gstat _ c => c.wf 8
  | .gstatClr _ c => c.wf 8
  | .wtime c => c.wf 4
  | .wtimePort c => c.wf 4
  | .wtick c => c.wf 4
  | .wtickOff c => c.wf 4
  | .wflow c => c.wf 4
  | .wflowOff c => c.wf 4
  | .wbind c => c.wf 4
  | .wbindOff c => c.wf 4
  | .wlate c => c.wf 4
  | .wdead c => c.wf 4
  | .wdeadOff c => c.wf 4
  | .wstat c => c.wf 4
  | .wstatClr c => c.wf 4
  | .nsend p c => p.val ≠ 0 && c.wf 4
  | .nrecv p c _ _ => p.val ≠ 0 && c.wf 4
  | .nred p c => p.val ≠ 0 && c.wf 4
  | .nredArrival p c => p.val ≠ 0 && c.wf 4
  | .nbar p c => p.val ≠ 0 && c.wf 4
  | .nmode p c => p.val ≠ 0 && c.wf 4
  | .nstat p c => p.val ≠ 0 && c.wf 4
  | .nstatClr p c => p.val ≠ 0 && c.wf 4
  | .ftrig c => c.wf 4
  | .fckpt c => c.wf 4
  | .flend c => c.wf 4
  | .frecl c => c.wf 4
  | .fpost c => c.wf 4
  | _ => true

/-- Memory commands, opcodes 0x01 to 0x0E of the external space (02 R63). -/
def Instr.isMemCmd : Instr → Bool
  | .dact .. | .drd .. | .dwr .. | .dpre .. | .dprea .. | .dref .. | .drefb .. | .dmrw .. | .dmrr ..
  | .dzqStart .. | .dzqLatch .. | .dsrefEnter .. | .dsrefExit .. | .dtlb .. | .dtlbq .. | .dpfs .. => true
  | _ => false

/-- Where H = 1 is allowed (02 R56, R62): any T, M or V slot; an X slot with NOP or a memory command. -/
def holdAllowed (sp : Space) (i : Instr) : Bool :=
  match sp with
  | .c => false
  | .x => i.isMemCmd || (match i with | .nopX _ => true | _ => false)
  | _ => true

end Sys2Proof
end

