-- ==== Sys2Proof/Machine/Ops.lean ====
section
/-! DEFINITION. The named operations over the state: numbering and places, access to cores, colonnades and groups,
registers, rows and tags, the agenda, the checks of a timed access, taking a trap and returning from one. -/

namespace Sys2Proof.Machine

/-! ### Numbers and places (01 R6, 04 R102) -/

/-- The colonnade of a core. -/
def colOf (core : Nat) : Nat := core / 8

/-- The logical core number within its colonnade. -/
def coreNo (core : Nat) : Nat := core % 8

/-- The ring station of a core (01 R6). -/
def stationOf (core : Nat) : Nat := 2 * coreNo core

/-- Where a core's scratchpad, a block, a core's instruction memory, a channel's array and host memory stand in the
flat byte memory. -/
def spAddr (core row : Nat) : Nat := core * 2 ^ 20 + row * 256
def cbAddr (col block row : Nat) : Nat := 2 ^ 28 + (col * 8 + block) * 2 ^ 21 + row * 256
def imAddr (core row : Nat) : Nat := 2 ^ 29 + core * 2 ^ 18 + row * 256
def channelNo (col ch : Nat) : Nat := col * 3 + ch
def dramAddr (col ch bank row column : Nat) : Nat :=
  2 ^ 40 + channelNo col ch * 2 ^ 34 + (row * 16 + bank) * 4096 + column
def hostAddr (a : Nat) : Nat := 2 ^ 48 + a

/-- Rows of a space by its code: 0 sp, 1-8 cb, 9 im (04 R102). -/
def rowsOf (space : Nat) : Nat :=
  if space = 0 then Config.spRows else if space ≤ 8 then Config.cbRows else if space = 9 then Config.imRows else 0

/-- The row of a space as a core sees it. -/
def rowAt (core space row : Nat) : RowAt :=
  if space = 0 then ⟨0, row, spAddr core row⟩
  else if space ≤ 8 then ⟨space, row, cbAddr (colOf core) (space - 1) row⟩
  else ⟨space, row, imAddr core row⟩

/-- The bank of a row (04 R103). -/
def bankOf (row : Nat) : Nat := row % 16

/-! ### Access to the parts of the state -/

def State.core (s : State) (k : Nat) : Core := FMap.get {} s.cores k
def State.setCore (s : State) (k : Nat) (c : Core) : State := { s with cores := FMap.set {} s.cores k c }
def State.modCore (s : State) (k : Nat) (f : Core → Core) : State := s.setCore k (f (s.core k))
def State.col (s : State) (c : Nat) : Col := FMap.get {} s.cols c
def State.setCol (s : State) (c : Nat) (v : Col) : State := { s with cols := FMap.set {} s.cols c v }
def State.modCol (s : State) (c : Nat) (f : Col → Col) : State := s.setCol c (f (s.col c))
def State.group (s : State) (g : Nat) : Group := FMap.get {} s.groups g
def State.setGroup (s : State) (g : Nat) (v : Group) : State := { s with groups := FMap.set {} s.groups g v }
def State.modGroup (s : State) (g : Nat) (f : Group → Group) : State := s.setGroup g (f (s.group g))
def State.inst (s : State) (i : Nat) : Inst := FMap.get {} s.insts i
def State.setInst (s : State) (i : Nat) (v : Inst) : State := { s with insts := FMap.set {} s.insts i v }
def State.part (s : State) (p : Nat) : Partition := FMap.get {} s.parts p
def State.setPart (s : State) (p : Nat) (v : Partition) : State := { s with parts := FMap.set {} s.parts p v }

/-- The group of a core, and its number; L, the group's look-ahead distance (01 R10). -/
def State.groupNo (s : State) (k : Nat) : Nat := (s.col (colOf k)).group
def State.groupOf (s : State) (k : Nat) : Group := s.group (s.groupNo k)

/-- The look-ahead distance of a core's group. -/
def State.lookDist (s : State) (k : Nat) : Nat := Config.lookAhead (s.groupOf k).cols.length

/-- The instance of a core. -/
def State.instOf (s : State) (k : Nat) : Inst := s.inst ((s.col (colOf k)).inst.getD 0)

/-- The cores of a group, in the order of 01 R29: colonnade (D last), then core. -/
def Group.coreList (g : Group) : List Nat :=
  g.cols.flatMap (fun c => (List.range 8).map (fun k => c * 8 + k))

/-- The issuing core's state. -/
def State.me (s : State) : Core := s.core s.here.core

/-- Change the issuing core. -/
def State.modMe (s : State) (f : Core → Core) : State := s.modCore s.here.core f

/-! ### Registers (05 R129, R156) -/

/-- s[r] of a core: s0 reads zero; the shadow bank in shadow mode. -/
def Core.sreg (c : Core) (r : Nat) : Word :=
  if r = 0 then 0 else FMap.get 0 (if c.shadow then c.sh else c.s) r

/-- Write s[r]; writes to s0 are discarded. -/
def Core.setS (c : Core) (r : Nat) (v : Word) : Core :=
  if r = 0 then c
  else if c.shadow then { c with sh := FMap.set 0 c.sh r v } else { c with s := FMap.set 0 c.s r v }

/-- Write s[r] of the main bank: late results of instructions issued outside shadow mode. -/
def Core.setMain (c : Core) (r : Nat) (v : Word) : Core :=
  if r = 0 then c else { c with s := FMap.set 0 c.s r v }

/-- p[r]: p0 reads 1. -/
def Core.preg (c : Core) (r : Nat) : Bool :=
  if r = 0 then true else FMap.get false (if c.shadow then c.ph else c.p) r

/-- Write p[r]; writes to p0 are discarded. -/
def Core.setP (c : Core) (r : Nat) (v : Bool) : Core :=
  if r = 0 then c
  else if c.shadow then { c with ph := FMap.set false c.ph r v } else { c with p := FMap.set false c.p r v }

/-- Word `i` of the 4,096 of an accumulator slot (07 R213): where nothing has been written since a launch or a restore left the slot
undefined, a free value; after a clear, 0 (07 R207; 01 R43; log entry 6). -/
def Core.accAt (c : Core) (slot i : Nat) : Word :=
  match FMap.get none (FMap.get [] c.acc slot) i, FMap.get 0 c.accBase slot with
  | some v, _ => v
  | none, 0 => 0
  | none, n + 1 => Config.freeWord (n + i)

/-- Word (row, column) of a slot. -/
def Core.accWord (c : Core) (slot row col : Nat) : Word := c.accAt slot (row * 64 + col)

/-- Write 64-bit words of a slot from an index on. -/
def Core.setAcc (c : Core) (slot first : Nat) (vals : List Word) : Core :=
  { c with acc := FMap.set [] c.acc slot (FMap.splice none (FMap.get [] c.acc slot) first (vals.map some)) }

/-- H[r]. -/
def Core.hreg (c : Core) (r : Nat) : Handle := FMap.get 0 c.h r

/-- Write H[r]. -/
def Core.setH (c : Core) (r : Nat) (v : Handle) : Core := { c with h := FMap.set 0 c.h r v }

/-- The value a slot reads from s[r] (05 R130). -/
def State.rs (s : State) (r : SReg) : Word := s.me.sreg r.val

/-- The handle a slot reads. -/
def State.rh (s : State) (r : HReg) : Handle := s.me.hreg r.val

/-- A C slot's write of s[r], readable by the next bundle; noted so that a late write of the same cycle by an earlier
instruction does not replace it (05 R130). -/
def State.ws (s : State) (r : SReg) (v : Word) : State :=
  s.modMe (fun c => { c.setS r.val v with cwrote := if c.shadow then c.cwrote else some (s.here.cycle, r.val) })

/-- A guard's value (02 R55). -/
def guardOf (sl : Slot) (c : Core) : Bool := c.preg sl.guard.val != sl.neg

/-! ### Rows and tags (04 R105, R112) -/

/-- The row's bytes. -/
def State.readRow (s : State) (r : RowAt) : Row := s.mem.readBytes r.addr 256

/-- Write a row's bytes. -/
def State.writeRow (s : State) (r : RowAt) (d : Row) : State := { s with mem := s.mem.writeBytes r.addr d }

/-- A row's sequence tag. -/
def State.rowTag (s : State) (r : RowAt) : Nat := (FMap.get (0 : Byte) s.tags (r.addr / 256)).toNat

/-- Write a row's tag; only scratchpad and block rows carry one. -/
def State.setTag (s : State) (r : RowAt) (t : Nat) : State :=
  if r.space ≤ 8 then { s with tags := FMap.set (0 : Byte) s.tags (r.addr / 256) (BitVec.ofNat 8 t) } else s

/-- Whether an engine has a card that may be reading its rows. -/
def State.reading (s : State) : Bool :=
  s.queues.any (fun p => p.2.running.isSome || p.2.cards.any (fun c => c.claimed ≠ 0))

/-- Keep what a row holds before a timed write, for the engines that may be reading it (04 R111). -/
def State.keepOld (s : State) (r : RowAt) : State :=
  if s.reading then { s with olds := ⟨r.addr / 256, s.wall, s.readRow r⟩ :: s.olds } else s

/-- Untimed work has written rows of the byte memory: from place `a`, `n` bytes. Its later reads find them so. -/
def State.notePort (s : State) (a n : Nat) : State :=
  let rows := List.range' (a / 256) ((a + n + 255) / 256 - a / 256)
  { s with port := if s.since = 0 then [] else rows.reverse ++ s.port, olds := if s.olds.isEmpty then [] else s.olds.filter (fun o => !rows.contains o.row) }

/-- An access unit of a colonnade's device memory, by its dv address and its place in the channels' arrays: by the first, which the table of the
core whose slot serves it translates, but by the second for work on a saved instance, whose tables are not those of the cores that stand there
(09 R280; log entry 20). -/
def State.portUnit (s : State) (col x a : Nat) (write : Bool) : PortUnit :=
  if (match (s.col col).inst with | some i => (s.inst i).saved.isEmpty | none => true) then ⟨col, true, x, write⟩ else ⟨col, false, a, write⟩

/-- Untimed work has written an access unit of device memory. -/
def State.noteUnit (s : State) (u : PortUnit) : State := { s with wrote := if s.since = 0 then [] else u :: s.wrote }

/-- An open-port write of a row: its tag becomes 0x00 (04 R105). -/
def State.openWrite (s : State) (r : RowAt) (d : Row) : State := ((s.notePort r.addr 256).writeRow r d).setTag r 0

/-! ### The agenda -/

/-- The phases of a cycle, in their order: EVARM's writes, Trellis increments and ring count changes, which take place at a freeze
point too (01 R22, 05 R154; log entry 48); effects taking hold at a cycle, queue pops, reads, pushes, row writes, tag writes,
register writes and flag merges. -/
def phEvarm : Nat := 0
def phPulse : Nat := 1
def phEffect : Nat := 2
def phPop : Nat := 4
def phRead : Nat := 5
def phPush : Nat := 6
def phWrite : Nat := 7
def phTag : Nat := 8
def phReg : Nat := 9

/-- The order of same-cycle writes to one row (04 R112). -/
def rkDrd : Nat := 0
def rkLane : Nat := 1000
def rkStore (core : Nat) : Nat := 2000 + core
def rkRmw : Nat := 3000

/-- Whether an entry comes before another: by time, phase and rank. -/
def Item.before (a b : Item) : Bool :=
  a.time < b.time || (a.time = b.time && (a.phase < b.phase || (a.phase = b.phase && a.rank < b.rank)))

/-- Insert an entry after all that do not come later: of two writes of one core to one row in one cycle the one scheduled later stands
(04 R112; log entry 96), and of two of one bundle to one scalar register as well (05 R130; log entry 122). -/
def insertItem (i : Item) : List Item → List Item
  | [] => [i]
  | j :: r => if i.before j then i :: j :: r else j :: insertItem i r

/-- Put work on the agenda of a core's group at a schedule cycle. -/
def State.atCycle (s : State) (core time phase rank : Nat) (w : Work) : State :=
  s.modGroup (s.groupNo core) (fun g => { g with agenda := insertItem ⟨time, phase, rank, colOf core, w⟩ g.agenda })

/-- Put work on the wall agenda, behind the entries of its cycle with a lower rank. -/
def State.atWallBy (s : State) (time rank : Nat) (w : Work) : State :=
  { s with agenda := insertItem ⟨time, 0, rank, 0, w⟩ s.agenda }

/-- Put work on the wall agenda. -/
def State.atWall (s : State) (time : Nat) (w : Work) : State := s.atWallBy time 0 w

/-- Put work on the issuing core's agenda, `d` cycles after its bundle: wall cycles in shadow mode (05 R156). -/
def State.after (s : State) (d phase rank : Nat) (w : Work) : State :=
  if s.me.shadow then s.atWall (s.wall + d) w
  else s.atCycle s.here.core (s.here.cycle + d) phase rank w

/-- A core effect of the issuing core, `d` cycles after its bundle, in the first phase. -/
def State.effectAfter (s : State) (d : Nat) (e : Effect) : State := s.after d phEffect 0 (.eff s.here.core e)

/-- Flags merged into AFLAGS `d` cycles after the bundle, behind what is read in that cycle (03 R101): in shadow mode, where a
handler's bundles follow the wall agenda, on the wall cycle after. -/
def State.flagsAfter (s : State) (d f : Nat) : State :=
  if f = 0 then s
  else s.after (if s.me.shadow then d + 1 else d) phReg 0 (.eff s.here.core (.flags f))

/-- Put an event on the wall agenda. -/
def State.eventAt (s : State) (time : Nat) (op : Instr) (a : EvArgs) : State := s.atWall time (.event ⟨op, a⟩)

/-- A fresh free number: extra cycles of an untimed engine (log entry 5). -/
def State.freshSlack (s : State) : Nat × State := (Config.slack s.ctr, { s with ctr := s.ctr + 1 })

/-- A fresh free 64-bit value. -/
def State.freshWord (s : State) : Word × State := (Config.freeWord s.ctr, { s with ctr := s.ctr + 1 })

/-- The source of the work a slot schedules. -/
def State.src (s : State) : Src :=
  ⟨s.here.core, s.here.slot, s.here.bundle, s.here.cycle, s.here.addr, s.here.word⟩

/-! ### Traps (01 R26, R27; 05 R155 to R159) -/

/-- The code of a cause (05 R155). -/
def Cause.code : Cause → Nat
  | .illegal => 0x01 | .unreachable => 0x02 | .allotment => 0x03 | .repeatRange => 0x04 | .sched => 0x05
  | .watermark => 0x06 | .bank => 0x07 | .spacing => 0x08 | .memTiming => 0x09 | .translationRange => 0x0A
  | .translationAbsent => 0x0B | .ringOverrun => 0x0C | .catalogueRange => 0x0D | .machineCheck => 0x0E
  | .specFault => 0x10 | .link => 0x11 | .swTrap => 0x12 | .interrupt => 0x20

/-- Whether a cause ends the instance (01 R26). -/
def Cause.ending : Cause → Bool
  | .specFault => false | .link => false | .swTrap => false | .interrupt => false | _ => true

/-- TVAL of ILLEGAL and UNREACHABLE: the offending word and its address (05 R155). -/
def wordTval (addr word : Nat) : Nat := addr % 65536 * 2 ^ 32 + word % 2 ^ 32

/-- A trap of the acting slot. -/
def State.trapHere (s : State) (cause : Cause) (tval rank : Nat) : Trap :=
  { core := s.here.core, cause := cause, tval := tval, slot := s.here.slot, rank := rank }

/-- ILLEGAL found by the encoding (rank 2) or by values (rank 9) in the acting slot. -/
def State.illegal (s : State) (rank : Nat := 9) : Trap :=
  s.trapHere .illegal (wordTval s.here.addr s.here.word) rank

/-- UNREACHABLE in the acting slot. -/
def State.unreachable (s : State) : Trap := s.trapHere .unreachable (wordTval s.here.addr s.here.word) 3

/-- TVAL of SCHED with its KIND (05 R155). -/
def schedTval (kind rest : Nat) : Nat := kind * 2 ^ 60 + rest

/-- TVAL of SCHED KIND 0, a tag mismatch. -/
def tagTval (r : RowAt) (want found : Nat) : Nat :=
  schedTval 0 (r.space * 2 ^ 48 + r.row * 2 ^ 32 + want * 2 ^ 8 + found)

/-- A credit of a queue returns to the gateway of the colonnade that sent the card (01 R30). -/
def State.giveCredit (s : State) (key : Nat) (c : JobCard) : State :=
  if !(s.inst c.inst).placed then s else
  s.modCol c.col (fun co => { co with credits := FMap.modify 0 co.credits (key / 256 * 16 + key % 16) (· - 1) })

/-- Discard an ended instance's cards that have not started, their credits returning; the signals of those that run are
dropped (15 R432). -/
def State.dropCards (s : State) (i : Nat) : State :=
  s.queues.foldl (fun s p =>
    let keep (l : List JobCard) : List JobCard := l.filter (fun c => c.inst ≠ i)
    let gone := (p.2.cards ++ p.2.transit).filter (fun c => c.inst = i)
    let s := { s with queues := FMap.set {} s.queues p.1 {
      cards := keep p.2.cards, transit := keep p.2.transit,
      running := p.2.running.map (fun c => if c.inst = i then { c with dropSignal := true } else c) } }
    gone.foldl (fun s c => s.giveCredit p.1 c) s) s

/-- End an instance: its groups stop, its scheduled work is dropped, its status, cause and TVAL are kept for the front
end (01 R46, 15 R429). -/
def State.endInstance (s : State) (i status cause tval : Nat) : State :=
  let inst := s.inst i
  if inst.status.isSome then s
  else
    let s := (s.setInst i { inst with status := some status, cause := cause, tval := tval, endedAt := s.wall }).dropCards i
    inst.groups.foldl (fun s g =>
      let cs := (s.group g).coreList
      let s := s.modGroup g (fun gr => { gr with phase := .idle, agenda := [], conds := [], preempt := false })
      cs.foldl (fun s k => s.modCore k (fun c => { c with mode := .idle, shadow := false, fetched := [] })) s) s

/-- The launch status of an instance that a trap ends (15 R427). -/
def trapStatus : Nat := 2

/-- The order in which the conditions of a freeze are served: sequencer waits by core (01 R34). -/
def Freeze.rank : Freeze → Nat
  | .ask k _ _ => k + 1
  | _ => 0

/-- Add a condition to those of a freeze. -/
def addCond (c : Freeze) : List Freeze → List Freeze
  | [] => [c]
  | d :: r => if c = d then d :: r else if c.rank < d.rank then c :: d :: r else d :: addCond c r

/-- The freeze point is now: the group stops issuing (01 R22). Conditions that the look-ahead met may have cleared already (R24). -/
def State.freezeNow (s : State) (g : Nat) : State :=
  s.modGroup g (fun gr =>
    match gr.phase with
    | .frozen since _ => { gr with phase := .frozen since none }
    | _ => { gr with phase := .frozen s.wall (if gr.conds.isEmpty && gr.clearedAt ≠ 0 then some gr.clearedAt else none),
                     freezeStalls := 0, captured := false, freezeAt := none, clearedAt := 0 })

/-- The freeze point is now, waiting for the given condition (01 R22, R24, R27). -/
def State.freezeGroup (s : State) (g : Nat) (c : Freeze) : State :=
  (s.modGroup g (fun gr => { gr with conds := addCond c gr.conds })).freezeNow g

/-- A condition freezes a group at a schedule cycle; conditions found for several points make one freeze, at the earliest (01 R461). -/
def State.freezeAtCycle (s : State) (g n : Nat) (c : Freeze) : State :=
  if n ≤ (s.group g).sched then s.freezeGroup g c
  else s.modGroup g (fun gr => { gr with
    conds := addCond c gr.conds,
    freezeAt := match gr.freezeAt with | some f => some (min f n) | none => some n })

/-- Stop for a trap of a colonnade (01 R27): a group of one colonnade, or any group for an unguarded TRAP, freezes now; in
a larger group the colonnade stops now, its handler runs, and the others freeze 32 cycles later; none resumes before RETT. -/
def State.stopGroup (s : State) (g col : Nat) (whole : Bool) : State :=
  if (s.group g).cols.length ≤ 1 || whole then s.freezeGroup g .handler
  else (s.modCol col (fun c => { c with stopped := true })).freezeAtCycle g ((s.group g).sched + 32) .handler

/-- An instance ends by a trap: at once in a group of one colonnade, or for an unguarded TRAP; in a larger group the trapping
colonnade stops now and the others, and the instance with them, 32 cycles later (01 R27, R463). -/
def State.endByTrap (s : State) (i g col : Nat) (whole : Bool) (code tval : Nat) : State :=
  if (s.group g).cols.length ≤ 1 || whole then s.endInstance i trapStatus code tval
  else
    let s := s.modCol col (fun c => { c with stopped := true })
    s.modGroup g (fun gr => { gr with
      endAt := if gr.endAt.isSome then gr.endAt else some (gr.sched + 32, code, tval) })

/-- Taking a trap (05 R156, R157, R159; 01 R27): TCAUSE and TVAL are written; outside shadow mode EPC names the bundle,
SKIPC is set for SW_TRAP, ENDING for a trap that ends the instance or that a larger group cannot resume from, the hold state is saved, and the handler's first bundle issues 12 wall cycles after the
freeze point; with TVEC.EN = 0, or in shadow mode, the instance ends. -/
def takeTrap (s : State) (t : Trap) (bundle : Nat) : State :=
  let c := s.core t.core
  let i := (s.col (colOf t.core)).inst.getD 0
  let s := { s with trapNow := some t }
  let ending := t.cause.ending
  if c.shadow then
    let tc := t.cause.code + t.slot * 2 ^ 8 + 2 ^ 11 + 2 ^ 12
    (s.setCore t.core { c with tcause := BitVec.ofNat 64 tc, tval := BitVec.ofNat 64 t.tval }).endInstance
      i trapStatus tc t.tval
  else
    let off := c.tvec.toNat / 2 ^ 31 % 2 = 0
    let whole := t.cause = .swTrap && s.here.plain
    let last := ending || off || (1 < (s.groupOf t.core).cols.length && !whole)
    let tc := t.cause.code + t.slot * 2 ^ 8 + (if last then 2 ^ 11 else 0)
    let c := { c with
      tcause := BitVec.ofNat 64 tc, tval := BitVec.ofNat 64 t.tval,
      epc := BitVec.ofNat 64 (bundle % 65536 + (if t.cause = .swTrap then 2 ^ 16 else 0)) }
    if off then (s.setCore t.core c).endByTrap i (s.groupNo t.core) (colOf t.core) whole tc t.tval
    else
      let s := s.setCore t.core { c with
        shadow := true, readyRett := false, savedHold := c.hold, hold := [], skipC := false, swWhole := whole,
        shadowAt := s.wall + Config.handlerDelay, trapAt := (s.groupOf t.core).sched, pc := c.tvec.toNat % 65536, fetched := [] }
      s.stopGroup (s.groupNo t.core) (colOf t.core) whole

/-- Taking an interrupt (05 R156, R159): as a trap, with cause 0x20, TVAL 0, the causing IPEND bits in TCAUSE.IRQ and EPC
naming the bundle that would have issued next. -/
def takeInterrupt (s : State) (k : Nat) : State :=
  let c := s.core k
  let irq := (c.ipend &&& c.imask).toNat % 16
  s.setCore k { c with
    tcause := BitVec.ofNat 64 (0x20 + 7 * 2 ^ 8 + irq * 2 ^ 16), tval := 0,
    epc := BitVec.ofNat 64 (c.pc % 65536), ireq := none,
    shadow := true, readyRett := false, savedHold := c.hold, hold := [], skipC := false, irqNow := false,
    shadowAt := s.wall + Config.handlerDelay, trapAt := (s.groupOf k).sched, pc := c.tvec.toNat % 65536, fetched := [] }
  |>.freezeGroup (s.groupNo k) .handler

/-- Set IPEND bits of a core and request or withdraw its interrupt: one is requested while IPEND AND IMASK is nonzero; a
halted core discards requests (05 R148, R159). -/
def State.raiseIrq (s : State) (k bits : Nat) : State :=
  s.modCore k (fun c =>
    if c.mode = .halted then c
    else
      let p := c.ipend ||| BitVec.ofNat 64 bits
      { c with ipend := p,
               ireq := if (p &&& c.imask) = 0 then none
                       else if c.ireq.isSome then c.ireq else some (s.groupOf k).sched })

/-- The return of RETT (05 R158): the hold state is restored and the bundle at EPC.ADDR issues at the schedule cycle the
interrupted bundle held, its C slot a NOP under SKIPC; an EPC changed by the handler ends a repeat in progress; an interrupt still
pending is requested anew (R159, R160). -/
def returnFromHandler (s : State) (k : Nat) : State :=
  let c := s.core k
  let addr := c.epc.toNat % 65536
  s.setCore k { c with
    shadow := false, readyRett := true, hold := c.savedHold, savedHold := [], pc := addr, fetched := [], noIdle := true,
    fetchAt := c.issueAt, ireq := none, skipC := c.epc.toNat / 2 ^ 16 % 2 = 1,
    rep := if c.rep.active && c.rep.addr ≠ addr then {} else c.rep }
  |>.raiseIrq k 0

/-- A trap decided at a later cycle than its bundle's (01 R463; log entry 10). -/
def lateTrap (s : State) (src : Src) (cause : Cause) (tval : Nat) : State :=
  takeTrap s { core := src.core, cause := cause, tval := tval, slot := src.slot, rank := 10, cycle := src.cycle } src.bundle

/-! ### How a meaning ends -/

/-- The outcome of a meaning: the first trap its checks find, taken; else its effect. -/
def State.orTrap (s : State) (t : Option Trap) (next : State) : Host.Outcome State Fault Refusal :=
  match t with
  | some t => .next (takeTrap s t s.here.bundle)
  | none => .next next

/-- The first of a list of checks that finds a trap. -/
def firstTrap : List (Option Trap) → Option Trap
  | [] => none
  | some t :: _ => some t
  | none :: r => firstTrap r

/-- A check: the trap when the condition holds. -/
def trapIf (c : Bool) (t : Trap) : Option Trap := if c then some t else none

/-! ### Timed accesses to rows: ways and banks (06 R168, R189; 04 R108, R109, R113) -/

/-- The way mask of a block at a cycle, counting resizes already issued (06 R189). -/
def Col.waysAt (c : Col) (block cycle : Nat) : Nat :=
  (c.resizes.filter (fun r => r.1 ≤ cycle && r.2.1 = block)).foldl (fun _ r => r.2.2) (FMap.get 0 c.ways block)

/-- Whether a block row lies in a cache way at a cycle (06 R168). -/
def Col.inCacheWay (c : Col) (block row cycle : Nat) : Bool := bitOf (c.waysAt block cycle) (row / 512)

/-- Whether a row may be named by row index at a cycle: inside its space and outside cache ways (06 R168). -/
def State.rowOk (s : State) (core : Nat) (r : RowAt) (cycle : Nat) : Bool :=
  if r.space = 0 then r.row < Config.spRows
  else if r.space ≤ 8 then r.row < Config.cbRows && !(s.col (colOf core)).inCacheWay (r.space - 1) r.row cycle
  else if r.space = 9 then r.row < Config.imRows
  else true

/-- The bank key of a row: the memory that holds it and the bank. -/
def bankKey (r : RowAt) : Nat × Nat := (r.addr / (if r.space = 0 then 2 ^ 20 else 2 ^ 21), bankOf r.row)

/-- What names a row among a core's accesses: its place, or its row of device memory. -/
def RowAt.key (r : RowAt) : Nat := if r.space ≤ 9 then r.addr / 256 else r.space * 2 ^ 60 + r.row

/-- Remember an access of the issuing core and when it is performed, for REL and QFENCE (06 R202, 04 R123). -/
def State.noteAccess (s : State) (r : RowAt) (cycle : Nat) : State :=
  s.modMe (fun c => { c with
    issued := (r.key, cycle) :: c.issued.filter (fun p => s.here.cycle ≤ p.2),
    lastWrite := max c.lastWrite cycle })

/-- Remember an access of the issuing core to a row of device memory by a memory command, for REL (04 R117). -/
def State.noteDv (s : State) (x cycle : Nat) : State :=
  s.modMe (fun c => { c with
    issued := (10 * 2 ^ 60 + x / 256, cycle) :: c.issued.filter (fun p => s.here.cycle ≤ p.2) })

/-- TVAL of BANK (05 R155). -/
def bankTval (collision later : Bool) (space other mine : Nat) : Nat :=
  (if collision then 2 ^ 61 else 0) + (if later then 2 ^ 60 else 0) + space * 2 ^ 48 + other * 2 ^ 32 + mine

/-- The conflict of a new timed access with one recorded: a read-modify-write slot's cycle, or another row of the bank in
the same cycle (04 R109, R113). -/
def BankUse.conflict (u n : BankUse) : Bool :=
  u.cycle = n.cycle && u.space = n.space && u.owner = n.owner && u.bank = n.bank &&
    (u.row ≠ n.row || u.rmw || n.rmw)

/-- The trap a conflict raises: at the later-issued bundle, which is the new one, or, for two of one cycle, as 04 R109 and
R113 say. -/
def State.bankTrap (s : State) (u n : BankUse) : Trap :=
  let same := u.issued = s.here.cycle
  if u.rmw || n.rmw then
    if same && n.rmw && !u.rmw then
      { core := u.core, cause := .bank, tval := bankTval false true u.space n.row u.row, slot := u.slot, rank := 9 }
    else
      let reserved := if u.rmw then u.row else n.row
      let accessed := if u.rmw then n.row else u.row
      s.trapHere .bank (bankTval false u.rmw n.space reserved accessed) 9
  else if same && u.core = n.core && u.slot > n.slot then
    { core := n.core, cause := .bank, tval := bankTval true true n.space n.row u.row, slot := u.slot, rank := 9 }
  else s.trapHere .bank (bankTval true true n.space u.row n.row) 9

/-- Claim a bank for a timed access of the issuing slot at a schedule cycle; rows of device memory have no bank. -/
def State.claimBank (s : State) (r : RowAt) (cycle : Nat) (rmw : Bool) : State × Option Trap :=
  let s := s.noteAccess r cycle
  if r.space > 8 then (s, none)
  else
    let k := bankKey r
    let n : BankUse := ⟨cycle, r.space, k.1, k.2, r.row, rmw, s.here.core, s.here.slot, s.here.cycle, s.src⟩
    let col := s.col (colOf s.here.core)
    match col.uses.find? (fun u => u.conflict n) with
    | some u => (s, some (s.bankTrap u n))
    | none =>
      (s.setCol (colOf s.here.core)
        { col with uses := n :: col.uses.filter (fun u => s.here.cycle ≤ u.cycle) }, none)

/-- Claim banks for several accesses in order, stopping at the first trap. -/
def State.claimBanks (s : State) : List (RowAt × Nat × Bool) → State × Option Trap
  | [] => (s, none)
  | (r, cycle, rmw) :: rest =>
    match s.claimBank r cycle rmw with
    | (s', none) => s'.claimBanks rest
    | (s', some t) => (s', some t)

/-- The three cycles of a read-modify-write slot that starts at a cycle (04 R108). -/
def rmwUses (r : RowAt) (start : Nat) : List (RowAt × Nat × Bool) :=
  [(r, start, true), (r, start + 1, true), (r, start + 2, true)]

/-! ### Operand queues (06 R172, R173) -/

/-- The rows of a queue, head first. -/
def Core.queue (c : Core) (q : QueueId) : List Row := FMap.get [] c.queues q.code

/-- Replace the rows of a queue. -/
def Core.setQueue (c : Core) (q : QueueId) (l : List Row) : Core := { c with queues := FMap.set [] c.queues q.code l }

/-- TVAL of SCHED KIND 4 (06 R173). -/
def queueTval (q : QueueId) (under : Bool) (present : Nat) : Nat :=
  schedTval 4 (q.code * 2 ^ 16 + (if under then 2 ^ 8 else 0) + present)

/-- Push rows; above the depth it is an overrun, raised at the source's bundle. The cycle of a push into IQ is kept (06 R179). -/
def State.push (s : State) (src : Src) (q : QueueId) (rows : List Row) : State :=
  let c := s.core src.core
  let l := c.queue q
  if q.depth < l.length + rows.length then lateTrap s src .sched (queueTval q false l.length)
  else s.setCore src.core { c.setQueue q (l ++ rows) with
    iqAt := if q = .iq then c.iqAt ++ List.replicate rows.length (s.groupOf src.core).sched else c.iqAt }

/-- Pop `n` rows; fewer present is an underrun. -/
def State.pop (s : State) (src : Src) (q : QueueId) (n : Nat) : State × List Row :=
  let c := s.core src.core
  let l := c.queue q
  if l.length < n then (lateTrap s src .sched (queueTval q true l.length), [])
  else (s.setCore src.core (c.setQueue q (l.drop n)), l.take n)

/-! ### The Trellis (01 R32 to R35) -/

/-- Predicates as the bits of PRED (05 R134): bit i is p[i]. -/
def predBits (p : FMap Bool) : Nat :=
  1 + ((List.range 8).filter (fun i => i ≠ 0 && FMap.get false p i)).foldl (fun n i => n + 2 ^ i) 0

/-- Predicates from the bits of PRED. -/
def predOf (bits : Nat) : FMap Bool :=
  ((List.range 8).filter (fun i => i ≠ 0 && bitOf bits i)).map (fun i => (i, true))

/-- A C slot's write of p[r]. -/
def State.wp (s : State) (r : PReg) (v : Bool) : State := s.modMe (fun c => c.setP r.val v)

/-- ILLEGAL in shadow mode, for the instructions a handler may not carry (05 R157); of a C slot it is raised as the slot acts, not under a false
guard (log entry 120). -/
def State.noShadow (s : State) : Option Trap := trapIf s.me.shadow s.illegal

/-- The key of a routing bit. -/
def routeKey (source line : Nat) : Nat := source * 128 + line

/-- Add pulses to one line: above 255 the excess is lost, the sticky bit is set, and the colonnade's cores get the
Trellis interrupt (01 R35, 05 R134). -/
def Col.addLine (c : Col) (line n : Nat) : Col :=
  let v := FMap.get 0 c.counts line + n
  if 255 < v then { c with counts := FMap.set 0 c.counts line 255, sticky := FMap.set false c.sticky line true }
  else { c with counts := FMap.set 0 c.counts line v }

/-- Tell the front end. -/
def State.tell (s : State) (n : Notice) : State := { s with notices := s.notices ++ [n] }

/-- Add pulses to a line of a colonnade, with the overflow report to its cores and to the front end (01 R35, 05 R134). -/
def State.addLine (s : State) (col line n : Nat) : State :=
  let excess := 255 < FMap.get 0 (s.col col).counts line + n
  let s := s.modCol col (fun c => c.addLine line n)
  if excess then
    ((List.range 8).foldl (fun s k => s.raiseIrq (col * 8 + k) 4) s).tell
      (.overflow ((s.col col).inst.getD 0) (s.col col).logical line)
  else s

/-- Note pulses of a cycle in which EVARM's settings have taken hold (log entry 48). -/
def State.notePulse (s : State) (col source n : Nat) : State :=
  match (s.col col).armed with
  | some a => s.modCol col (fun c => { c with armed := some { a with pulses := a.pulses ++ [(source, n)] } })
  | none => s

/-- Pulses of a source: each adds one to every line the source is routed to (01 R32). -/
def State.pulse (s : State) (col source n : Nat) : State :=
  let s := s.notePulse col source n
  (List.range 128).foldl (fun s line =>
    if FMap.get false (s.col col).route (routeKey source line) then s.addLine col line n else s) s

/-- Put off the settings of EVARM that have taken hold in a colonnade in this cycle: its Trellis stands as before them, with the cycle's
pulses counted under the old routing (01 R22; log entry 48). -/
def State.unarmCol (s : State) (g col : Nat) : State :=
  match (s.col col).armed with
  | none => s
  | some a =>
    let s := s.modCol col (fun c => { c with route := a.route, counts := a.counts, sticky := a.sticky, windows := a.windows, armed := none })
    let s := s.modGroup g (fun gr => { gr with agenda := a.items.foldr (fun it l => it :: l) gr.agenda })
    a.pulses.foldl (fun s p => s.pulse col p.1 p.2) s

/-- Put off the settings of EVARM of this cycle in a group's colonnades. -/
def State.unarm (s : State) (g : Nat) : State := (s.group g).cols.foldl (fun s c => s.unarmCol g c) s

/-- Weighted round robin (01 R31): of the ready queues with their weights, in queue order, the one to serve next, and the turn it leaves; a
turn is 16 times the queue plus the cards started in it, 0 before the first. -/
def nextTurn (turn : Nat) (ready : List (Nat × Nat)) : Option (Nat × Nat) :=
  let cur := turn / 16
  match ready.find? (fun p => p.1 = cur && turn % 16 ≠ 0 && turn % 16 < p.2) with
  | some p => some (p.1, turn + 1)
  | none =>
    match ready.find? (fun p => turn = 0 || cur < p.1) with
    | some p => some (p.1, p.1 * 16 + 1)
    | none => ready.head?.map (fun p => (p.1, p.1 * 16 + 1))

/-- Whether every named line has a count (01 R34). -/
def Col.linesReady (c : Col) (lines : List Nat) : Bool := lines.all (fun l => FMap.get 0 c.counts l ≠ 0)

/-- Take one count off each named line. -/
def Col.takeLines (c : Col) (lines : List Nat) : Col :=
  lines.foldl (fun c l => { c with counts := FMap.modify 0 c.counts l (· - 1) }) c

/-! ### Rings (06 R190, R191) -/

def mod20 (x : Nat) : Nat := x % 2 ^ 20
def Ring.filled (r : Ring) : Nat := mod20 (r.tail + 2 ^ 20 - r.claim)
def Ring.claimed (r : Ring) : Nat := mod20 (r.claim + 2 ^ 20 - r.head)
def Ring.room (r : Ring) : Nat := r.e - mod20 (r.res + 2 ^ 20 - r.head)

/-- The row of the entry of a count. -/
def Ring.entry (r : Ring) (col count : Nat) : RowAt :=
  rowAt (col * 8 + r.core) r.space (r.base + count % (if r.e = 0 then 1 else r.e))

def Col.ring (c : Col) (g : Nat) : Ring := FMap.get {} c.rings g
def State.modRing (s : State) (col g : Nat) (f : Ring → Ring) : State :=
  s.modCol col (fun c => { c with rings := FMap.set {} c.rings g (f (c.ring g)) })

/-- Whether filled rose from below THRESH to it or above (06 R196). -/
def ringRose (old new : Ring) : Bool := old.thresh ≠ 0 && old.filled < old.thresh && new.thresh ≤ new.filled

/-- Take every publication whose earlier reservations have all published (06 R191): `done` holds (start, count). -/
def Ring.advance : Nat → Ring → Ring
  | 0, r => r
  | fuel + 1, r =>
    match r.done.find? (fun p => p.1 = r.tail) with
    | none => r
    | some p => Ring.advance fuel { r with tail := mod20 (r.tail + p.2), done := r.done.filter (· ≠ p) }

/-- Take every release whose earlier claims have all been released (14 R413): `freed` holds (start, count). -/
def Ring.retire : Nat → Ring → Ring
  | 0, r => r
  | fuel + 1, r =>
    match r.freed.find? (fun p => p.1 = r.head) with
    | none => r
    | some p => Ring.retire fuel { r with head := mod20 (r.head + p.2), freed := r.freed.filter (· ≠ p) }

/-- Publish `n` entries reserved from count `start`, with the threshold's pulse (06 R191, R196). -/
def State.publishRing (s : State) (col g start n : Nat) : State :=
  let old := (s.col col).ring g
  let new := Ring.advance 128 { old with done := old.done ++ [(start, n)] }
  let s := s.modRing col g (fun _ => new)
  if ringRose old new then s.pulse col (8 + g) 1 else s

/-- Whether entries reserved from count `start` are still to be published (06 R191). -/
def Ring.unpublished (r : Ring) (start : Nat) : Bool := mod20 (start + 2 ^ 20 - r.tail) < mod20 (r.res + 2 ^ 20 - r.tail)

/-- Release `n` entries claimed from count `start`. -/
def State.releaseRing (s : State) (col g start n : Nat) : State :=
  s.modRing col g (fun r => Ring.retire 128 { r with freed := r.freed ++ [(start, n)] })

end Sys2Proof.Machine
end

