-- ==== Sys2Proof/Machine/Operands.lean ====
section
/-! DEFINITION. Operand forms: handles and their fields, row sequences, element formats, translation of device addresses,
tile-cache lines, the rows an operand reaches with their timing groups, row pointers and argument rows. -/

namespace Sys2Proof.Machine

/-! ### Handles (05 R131, R132) -/

/-- Bits [lo+w-1:lo] of a handle. -/
def hbits (h : Handle) (lo w : Nat) : Nat := h.toNat / 2 ^ lo % 2 ^ w

/-- Where a field stands: its lowest bit and width (05 R131); field 7 has its upper part, which must be zero when used. -/
def hplace : HField → Nat × Nat
  | .base => (0, 44) | .space => (44, 4) | .tid => (48, 16) | .tag => (64, 8) | .fmt => (72, 8)
  | .dim0 => (80, 24) | .dim1 => (104, 24) | .walk => (128, 16) | .tilew => (144, 16) | .tileh => (160, 16)
  | .pitch => (176, 16) | .scale => (192, 16) | .tx => (208, 24) | .ty => (232, 24)

/-- The value of a field. -/
def hget (h : Handle) (f : HField) : Nat := hbits h (hplace f).1 (hplace f).2

/-- A handle with a field replaced by the low bits of a value. -/
def hset (h : Handle) (f : HField) (v : Nat) : Handle :=
  BitVec.ofNat 256 (h.toNat - hget h f * 2 ^ (hplace f).1 + v % 2 ^ (hplace f).2 * 2 ^ (hplace f).1)

/-- The planes of a plane format, and whether it is signed (05 R132). -/
def planeFmt (fmt : Nat) : Option (Nat × Bool) :=
  if 0x20 ≤ fmt ∧ fmt ≤ 0x2F then some (fmt - 0x1F, true)
  else if 0x30 ≤ fmt ∧ fmt ≤ 0x3F then some (fmt - 0x2F, false)
  else none

/-- The element format of a FMT code, block formats by their element (05 R132). -/
def elemFmt (fmt : Nat) : Option ElemFmt :=
  match fmt with
  | 0x00 => some (.int 8 true) | 0x01 => some (.int 16 true) | 0x02 => some (.int 32 true)
  | 0x03 => some (.int 64 true) | 0x04 => some (.int 8 false) | 0x05 => some (.int 16 false)
  | 0x06 => some (.int 32 false) | 0x07 => some (.int 64 false) | 0x08 => some (.flt f32F)
  | 0x09 => some (.flt f16F) | 0x0A => some (.flt bf16F) | 0x0B => some (.flt e5m2F)
  | 0x0C => some (.flt e4m3F) | 0x0D => some (.flt e2m1F) | 0x10 => some (.int 8 true)
  | 0x11 => some (.flt e4m3F) | 0x12 => some (.flt e2m1F) | _ => none

/-- Whether a FMT code is a block format. -/
def isBlockFmt (fmt : Nat) : Bool := 0x10 ≤ fmt && fmt ≤ 0x12

/-- Whether a FMT code is one that R132 lists. -/
def fmtListed (fmt : Nat) : Bool := (elemFmt fmt).isSome || (planeFmt fmt).isSome

/-- Whether an engine may use the handle: no reserved SPACE or FMT, bits [143:129] zero (05 R131). -/
def handleUsable (h : Handle) : Bool := hget h .space ≤ 13 && fmtListed (hget h .fmt) && hbits h 129 15 = 0

/-- Row `i` of T(h), none beyond its end (06 R169). -/
def rowSeq (h : Handle) (i : Nat) : Option Nat :=
  let base := hget h .base; let tw := hget h .tilew; let th := hget h .tileh
  let tx := hget h .tx; let ty := hget h .ty; let pitch := hget h .pitch
  if tw = 0 ∨ th = 0 then some (base + i)
  else
    match planeFmt (hget h .fmt) with
    | some (p, _) => if i ≤ p then some (base + ty * pitch + tx * (p + 1) + i) else none
    | none =>
      let b := match elemFmt (hget h .fmt) with | some f => f.width | none => 8
      let x0 := tx * tw * b
      let x1 := x0 + tw * b
      let first := x0 / 2048
      let n := (x1 - 1) / 2048 - first + 1
      let y := i / n
      if y < th then some (base + (ty * th + y) * pitch + first + i % n) else none

/-! ### Translation (09 R265 to R267) -/

/-- The outcome of a lookup: the range trap, an absent entry's index, or the place of an access unit. -/
inductive Xlat where
  | range
  | absent (index : Nat)
  | ok (ch bank row column : Nat)
deriving DecidableEq, Repr

/-- log2 of a page size by its SIZE code (09 R266). -/
def pageBits (size : Nat) : Nat :=
  match size with | 1 => 16 | 2 => 21 | 3 => 28 | 4 => 34 | _ => 0

/-- Field [lo+w-1:lo] of a table entry. -/
def ebits (e : BitVec 128) (lo w : Nat) : Nat := e.toNat / 2 ^ lo % 2 ^ w

/-- Whether an entry covers an address. -/
def entryHolds (e : BitVec 128) (x : Nat) : Bool :=
  (ebits e 56 2 = 1 || ebits e 56 2 = 2) && ebits e 0 52 ≤ x && x < ebits e 0 52 + 2 ^ pageBits (ebits e 52 4)

/-- Whether an entry is well formed for a colonnade with `channels` channels (09 R266). -/
def entryWf (channels : Nat) (e : BitVec 128) : Bool :=
  let st := ebits e 56 2; let size := ebits e 52 4; let p := pageBits size
  let setw := ebits e 82 2; let setbase := ebits e 84 4; let rowbase := ebits e 64 18
  let span := 2 ^ (p - 16 - setw)
  e = 0 ||
    ((st = 1 || st = 2) && 1 ≤ size && size ≤ 4 && ebits e 0 52 % 2 ^ p = 0 && setw ≤ 2 &&
      setbase % 2 ^ setw = 0 && setbase + 2 ^ setw ≤ channels && (size ≠ 1 || setw = 0) &&
      rowbase % span = 0 && rowbase + span ≤ 2 ^ 18 && ebits e 58 6 = 0 && ebits e 88 8 = 0)

/-- The place of an address within its page (09 R265). -/
def entryPlace (e : BitVec 128) (x : Nat) : Nat × Nat × Nat × Nat :=
  let w := ebits e 82 2
  let off := x % 2 ^ pageBits (ebits e 52 4)
  (ebits e 84 4 + off / 2 ^ 7 % 2 ^ w,
   off / 2 ^ (14 + w) % 4 * 4 + off / 2 ^ (12 + w) % 4,
   ebits e 64 18 + off / 2 ^ (16 + w),
   off / 2 ^ (7 + w) % 32)

/-- A lookup through a core's locked table (09 R267). -/
def Core.translate (c : Core) (x : Nat) : Xlat :=
  if 2 ^ 52 ≤ x then .range
  else
    match c.locked.find? (fun p => entryHolds p.2 x) with
    | none => .range
    | some (i, e) =>
      if ebits e 56 2 = 2 then .absent i
      else let p := entryPlace e x; .ok p.1 p.2.1 p.2.2.1 p.2.2.2

/-- The flat address of an access unit's first byte. -/
def unitAddr (col : Nat) (ch bank row column : Nat) : Nat := dramAddr col ch bank row (column * 128)

/-- The flat address of the access unit of a device virtual address through a core's table. -/
def State.unitOf (s : State) (core x : Nat) : Option Nat :=
  match (s.core core).translate x with
  | .ok ch bank row column => some (unitAddr (colOf core) ch bank row column)
  | _ => none

/-- The colonnade and channel of a flat address of device memory. -/
def channelOf (a : Nat) : Nat × Nat :=
  let n := (a - 2 ^ 40) / 2 ^ 34
  let col := min (n / 3) Config.draftCol
  (col, n - col * 3)

/-- The engine of a channel of a colonnade. -/
def Col.chan (c : Col) (ch : Nat) : Chan := FMap.get {} c.chans ch

/-- What the error-correcting code makes of a burst (09 R292): 0 no error, 1 corrected, 2 uncorrectable, 3 outside the
code's guarantee. -/
def State.burstState (s : State) (burst : Nat) : Nat :=
  let n := FMap.get 0 s.errs burst
  if n = 0 then 0
  else
    let p := channelOf (burst * 32)
    if ((s.col p.1).chan p.2).modeD then (if n ≤ 2 then 1 else 3)
    else if n = 1 then 1 else if n ≤ 3 then 2 else 3

/-- `n` bytes of a channel's array as the engine returns them (09 R292). -/
def State.readArray (s : State) (a n : Nat) : List Byte :=
  if s.errs.isEmpty then s.mem.readBytes a n
  else (List.range' a n).map (fun b =>
    if s.burstState (b / 32) = 3 then Config.miscorrect b (FMap.get 0 s.errs (b / 32)) else s.mem.read b)

/-- A write to a burst that a resident graph watches is told to the front end, with the burst's first 8 bytes as the write left
them (15 R438). -/
def State.tellWrites (s : State) (a n : Nat) : State :=
  if s.triggers.isEmpty then s
  else
    (s.triggers.filter (fun t => t.burst * 32 < a + n && a < t.burst * 32 + 32)).foldl (fun s t =>
      s.eventAt s.wall .triggerWrite
        { part := t.part, index := t.graph, flag := t.wait, value := leNat (s.mem.readBytes (t.burst * 32) 8) }) s

/-- Write bytes of a channel's array: every burst written whole carries fresh metadata (09 R293). -/
def State.writeArray (s : State) (a : Nat) (d : List Byte) : State :=
  let e := a + d.length
  let t : State := { s with
    mem := s.mem.writeBytes a d,
    errs := if s.errs.isEmpty then s.errs
            else s.errs.filter (fun p => p.1 * 32 < a || e < p.1 * 32 + 32) }
  t.tellWrites a d.length

/-- `n` bytes of device memory from a virtual address, none where a unit does not translate. -/
def State.readDv (s : State) (core x n : Nat) : Option (List Byte) :=
  (List.range' (x / 128) ((x + n - 1) / 128 - x / 128 + 1)).foldl (fun acc u =>
      match acc, s.unitOf core (u * 128) with
      | some l, some a => some (l ++ s.readArray a 128)
      | _, _ => none) (some [])
    |>.map (fun l => (l.drop (x % 128)).take n)

/-- Write bytes of device memory at a virtual address, access unit by access unit through the table. -/
def State.writeDv (s : State) (core x : Nat) (d : List Byte) : State :=
  (List.range' (x / 128) ((x + d.length - 1) / 128 - x / 128 + 1)).foldl (fun s u =>
    match s.unitOf core (u * 128) with
    | some a =>
      let lo := max x (u * 128)
      (s.noteUnit (s.portUnit (colOf core) (u * 128) a true)).writeArray (a + lo % 128) ((d.drop (lo - x)).take (u * 128 + 128 - lo))
    | none => s) s

/-- The virtual address of the first uncorrectable burst of a range of device memory (09 R293). -/
def State.badDv (s : State) (core x n : Nat) : Option Nat :=
  if s.errs.isEmpty then none
  else
    ((List.range' (x / 32) ((x + n - 1) / 32 - x / 32 + 1)).find? (fun u =>
      match s.unitOf core (u * 32 / 128 * 128) with
      | some a => s.burstState ((a + u * 32 % 128) / 32) = 2
      | none => false)).map (· * 32)

/-- Count corrected bursts of a range of a channel's array; at the threshold IPEND.CORRECTED is set in every core of the
owning colonnade and the count restarts (09 R292). -/
def State.countCorrected (s : State) (a n : Nat) : State :=
  if s.errs.isEmpty then s
  else
    let p := channelOf a
    (List.range' (a / 32) ((a + n - 1) / 32 - a / 32 + 1)).foldl (fun s b =>
      if s.burstState b ≠ 1 then s
      else
        let c := (s.col p.1).chan p.2
        let k := c.corrected + 1
        let up := c.limit ≤ k
        let s := s.modCol p.1 (fun co => { co with
          chans := FMap.set {} co.chans p.2 { c with corrected := if up then 0 else k } })
        if up then (List.range 8).foldl (fun s k => s.raiseIrq (p.1 * 8 + k) 8) s else s) s

/-! ### The tile cache (06 R185, R186) -/

/-- The set of a tag. -/
def setOf (tid tx ty j : Nat) : Nat := (tid + tx + 7 * ty + 13 * j) % 32

/-- The key of line `set` of a way of a block. -/
def lineKey (block way set : Nat) : Nat := (block * 16 + way) * 32 + set

/-- The block row of row `r` of a line. -/
def lineRow (col key r : Nat) : Nat := cbAddr col (key / 512) (512 * (key / 32 % 16) + 16 * (key % 32) + r)

/-- The line that holds a tag. -/
def Col.findLine (c : Col) (tid tx ty j : Nat) : Option (Nat × TcLine) :=
  (c.lines.find? (fun p => match p.2 with
    | some l => l.tid = tid && l.tx = tx && l.ty = ty && l.j = j
    | none => false)).bind (fun p => p.2.map (fun l => (p.1, l)))

/-- A line needed by an instruction: its tag, and the dv row numbers it holds. -/
structure LineNeed where
  tid : Nat
  tx : Nat
  ty : Nat
  j : Nat
  rows : List Nat
deriving DecidableEq, Repr

/-- A row that an operand reaches: its row number, and for device memory the cache line that holds it and the row within
the line. -/
structure Ref where
  row : Nat
  need : LineNeed
  pos : Nat
deriving DecidableEq, Repr

/-- The rows of the 52-bit device space, and what stands for a row of a line outside it (05 R131; log entry 102). -/
def dvRows : Nat := 2 ^ 44
def dvRowOf (i : Int) : Nat := if i < 0 then dvRows else min i.toNat dvRows

/-- Row BASE + i of the unshaped view: tile (0, ⌊i/16⌋), j = 0, for TCOPY, LDQS and STQS too (06 R185; log entries 100 and 101); none
below row 0 or beyond the device space. -/
def idxRef (h : Handle) (i : Int) : Option Ref :=
  let base : Int := hget h .base
  if base + i < 0 ∨ (hget h .space = 10 ∧ dvRows ≤ (base + i).toNat) then none
  else
    let q := i / 16
    some ⟨(base + i).toNat,
      { tid := hget h .tid, tx := 0, ty := (q % (2 ^ 48 : Int)).toNat, j := 0,
        rows := (List.range 16).map (fun (r : Nat) => dvRowOf (base + 16 * q + (r : Int))) },
      (i % 16).toNat⟩

/-- Row T(h)[i]; none beyond the end of a shaped handle (06 R169, R185). -/
def seqRef (h : Handle) (i : Nat) : Option Ref :=
  match rowSeq h i with
  | none => none
  | some n =>
    if hget h .tilew = 0 ∨ hget h .tileh = 0 then idxRef h i
    else if hget h .space = 10 ∧ dvRows ≤ n then none
    else some ⟨n,
      { tid := hget h .tid, tx := hget h .tx, ty := hget h .ty, j := i / 16,
        rows := ((List.range' (i / 16 * 16) 16).filterMap (rowSeq h)).map (min dvRows) }, i % 16⟩

/-- The first `n` rows of T(h); none when it holds fewer (06 R169). -/
def seqRefs (h : Handle) (n : Nat) : Option (List Ref) := (List.range n).mapM (seqRef h)

/-- Cache lines of a set, lowest block and way first. -/
def Col.setKeys (c : Col) (set : Nat) : List Nat :=
  (List.range 8).flatMap (fun b =>
    (List.range 16).filterMap (fun w => if bitOf (FMap.get 0 c.ways b) w then some (lineKey b w set) else none))

/-- The rows of a line that stand in the device space. -/
def lineRows (rows : List Nat) : List Nat := rows.filter (· < dvRows)

/-- Whether an access to a row through a core's table meets no entry (06 R186). -/
def Core.rowOutside (c : Core) (row : Nat) : Bool := c.translate (row * 256) = .range || c.translate (row * 256 + 128) = .range

/-- Whether a line is dirty and cannot be written back: a row has no entry in its core's table. It stays, dirty (log entry 102). -/
def State.stuckLine (s : State) (l : TcLine) : Bool :=
  l.dirty && l.poison.isEmpty && (lineRows l.rows).any (s.core l.core).rowOutside

/-- The victim of a fill (06 R186): an invalid line first, else the least recently used unpinned one, which may be a prefetch still under
way. A line pinned for a bundle that has still to issue is pinned for one that the look-ahead of a larger group visits too. -/
def State.victim (s : State) (col set cycle : Nat) : Option Nat :=
  let c := s.col col
  let now := min cycle (s.groupOf (col * 8)).sched
  let keys := c.setKeys set
  match keys.find? (fun k => (FMap.get none c.lines k).isNone) with
  | some k => some k
  | none =>
    let free := keys.filterMap (fun k => match FMap.get none c.lines k with
      | some l => if l.pinned > now || s.stuckLine l then none else some (k, l.used)
      | none => none)
    (free.foldl (fun best p => match best with
      | none => some p
      | some b => if p.2 < b.2 then some p else some b) none).map (·.1)

/-- A dirty line starts on its way back to device memory, through its core's table (06 R186); a poisoned line is never written. -/
def State.writeBack (s : State) (col key : Nat) : State :=
  match FMap.get none (s.col col).lines key with
  | none => s
  | some l =>
    if l.dirty && l.poison.isEmpty && !s.stuckLine l then
      let rows := (l.rows.zipIdx.filter (fun p : Nat × Nat => p.1 < dvRows)).map (fun p : Nat × Nat =>
        (l.core, p.1, s.mem.readBytes (lineRow col key p.2) 256))
      s.modCol col (fun c => { c with
        backs := c.backs ++ rows, lines := FMap.set none c.lines key (some { l with dirty := false }) })
    else s

/-- The rows on their way back reach device memory, in order, ahead of what follows them in the channel's queue (09 R280); a row whose page
is absent waits for it. -/
def State.drainBacks (s : State) (col : Nat) : State :=
  let l := (s.col col).backs
  let out (p : Nat × Nat × Row) : Bool := (s.unitOf p.1 (p.2.1 * 256)).isSome && (s.unitOf p.1 (p.2.1 * 256 + 128)).isSome
  ((l.takeWhile out).foldl (fun s p => s.writeDv p.1 (p.2.1 * 256) p.2.2) s).modCol col (fun c => { c with backs := l.dropWhile out })

/-! ### The rows of an operand -/

/-- The place of a row of handle `h`'s space as the issuing core sees it at a bank cycle: ILLEGAL outside its space or in
a cache way (06 R168, R169); a row of device memory stands in the tile-cache line that holds it. -/
def State.resolve (s : State) (h : Handle) (f : Ref) (cycle : Nat) : Except Trap RowAt :=
  let sp := hget h .space
  if sp ≤ 9 then
    let r := rowAt s.here.core sp f.row
    if s.rowOk s.here.core r cycle then .ok r else .error s.illegal
  else if sp = 10 then
    let col := colOf s.here.core
    match (s.col col).findLine f.need.tid f.need.tx f.need.ty f.need.j with
    | some (k, _) => .ok ⟨10, f.row, lineRow col k f.pos⟩
    | none => .ok ⟨10, f.row, 0⟩
  else .error s.illegal

/-- MACHINE_CHECK for a stream read of a poisoned row (09 R293). -/
def State.poisonCheck (s : State) (h : Handle) (fs : List Ref) : Option Trap :=
  if hget h .space ≠ 10 then none
  else
    firstTrap (fs.map (fun f =>
      match (s.col (colOf s.here.core)).findLine f.need.tid f.need.tx f.need.ty f.need.j with
      | some (_, l) => (l.poison.find? (fun x => x / 256 = f.row)).map (fun x => s.trapHere .machineCheck x 9)
      | none => none))

/-- The spaces an operand accepts: scratchpad and blocks, device memory, instruction memory. -/
def spaceIn (h : Handle) (cb dv im : Bool) : Bool :=
  let sp := hget h .space
  (cb && sp ≤ 8) || (dv && sp = 10) || (im && sp = 9)

/-- Read delay α and write delay β of a space code; queues are as scratchpad (06 R170). -/
def alphaOf (space : Nat) : Nat := if space = 0 then 1 else if space ≤ 8 then 4 else 6
def betaOf (space : Nat) : Nat := if space = 0 then 0 else if space ≤ 8 then 2 else if space = 9 then 1 else 2
def capOf (space : Nat) : Nat := if space ≤ 8 then 4 else 1

/-- The bank of a row for grouping: only scratchpad and block rows have one (06 R170). -/
def groupBank (space row : Nat) : Option (Nat × Nat) := if space ≤ 8 then some (space, bankOf row) else none

/-- Whether a bank is already used on a side. -/
def bankIn (b : Option (Nat × Nat)) (used : List (Option (Nat × Nat))) : Bool := b.isSome && used.contains b

/-- Group numbers of a sequence of moves: each has a bank, or none, on the source and destination sides (06 R170). -/
def assignGroups (cap : Nat) : List (Option (Nat × Nat) × Option (Nat × Nat)) → Nat → Nat →
    List (Option (Nat × Nat)) → List (Option (Nat × Nat)) → List Nat
  | [], _, _, _, _ => []
  | (a, b) :: r, g, n, ua, ub =>
    if n < cap && !bankIn a ua && !bankIn b ub then g :: assignGroups cap r g (n + 1) (a :: ua) (b :: ub)
    else
      let g' := if n = 0 then g else g + 1
      g' :: assignGroups cap r g' 1 [a] [b]

/-! ### Row pointers and argument rows (10 R298, 11 R327) -/

/-- Where an untimed engine finds a row: a scratchpad or block row of the card's colonnade, or device memory. -/
inductive EngineRow where
  | row (r : RowAt)
  | dv (x : Nat)
deriving DecidableEq, Repr

/-- A row pointer of 64 bits; none when it is out of range (10 R298). -/
def State.rowPointer (s : State) (core p : Nat) : Option EngineRow :=
  let sp := p / 2 ^ 60 % 16
  let rest := p % 2 ^ 60
  if sp ≤ 8 then
    let r := rowAt core sp (rest % 2 ^ 13)
    if rest < 2 ^ 13 && s.rowOk core r (s.groupOf core).sched then some (.row r) else none
  else if sp = 10 && rest < 2 ^ 52 && rest % 256 = 0 then some (.dv rest)
  else none

/-- The row at a place of the byte memory as untimed work reads it: as it is, or, for each timed write that replaced it while the work could
read it, as it was before (04 R111; log entry 103); a row that the work itself has written is as it left it. -/
def State.portRow (s : State) (row : Nat) : Row :=
  let olds := s.olds.filter (fun o => o.row = row && s.since ≤ o.wall)
  if olds.isEmpty || s.port.contains row then s.mem.readBytes (row * 256) 256
  else match olds[Config.whichRow s.ctr row % (olds.length + 1)]? with
    | some o => o.data
    | none => s.mem.readBytes (row * 256) 256

/-- Bytes as untimed work reads them through the open port, row by row. -/
def State.portBytes (s : State) (a n : Nat) : List Byte :=
  if s.since = 0 || s.olds.isEmpty then s.mem.readBytes a n
  else (((List.range' (a / 256) ((a + n + 255) / 256 - a / 256)).flatMap s.portRow).drop (a % 256)).take n

/-- Read `n` bytes at a row pointer's place plus an offset; none where a dv address does not translate. -/
def State.readEngine (s : State) (core : Nat) (r : EngineRow) (off n : Nat) : Option (List Byte) :=
  match r with
  | .row r => some (s.portBytes (r.addr + off) n)
  | .dv x => s.readDv core (x + off) n

/-- Write bytes at a row pointer's place plus an offset: through the open port with tag 0x00, or device memory. -/
def State.writeEngine (s : State) (core : Nat) (r : EngineRow) (off : Nat) (d : List Byte) : State :=
  match r with
  | .row r =>
    let s := s.notePort (r.addr + off) d.length
    let s := { s with mem := s.mem.writeBytes (r.addr + off) d }
    (List.range ((off % 256 + d.length + 255) / 256)).foldl
      (fun s i => s.setTag { r with addr := r.addr + off / 256 * 256 + i * 256 } 0) s
  | .dv x => s.writeDv core (x + off) d

/-- The argument row of a card's operand: ASPACE [47:44] and AROW [12:0] (11 R327); none out of range. -/
def State.argRow (s : State) (core : Nat) (operand : Word) : Option RowAt :=
  let sp := operand.toNat / 2 ^ 44 % 16
  let r := rowAt core sp (operand.toNat % 2 ^ 13)
  if sp ≤ 8 && s.rowOk core r (s.groupOf core).sched then some r else none

/-! ### What the look-ahead finds (01 R21 to R23, R464) -/

/-- The look-ahead of a slot: nothing to look ahead for, its reservation made (from a ring count, 0 without a ring), a freezing
condition (with work started to clear it), or a trap that its bundle raises. -/
inductive Look where
  | free
  | ok (start : Nat) (s : State)
  | wait (s : State)
  | trap (t : Trap)

/-- The slot number under which the look-ahead keeps its findings: a handler's slots have their own. -/
def State.askSlot (s : State) : Nat := if s.me.shadow then s.here.slot + 8 else s.here.slot

/-- Whether a finding is about the acting slot of its bundle. -/
def State.isMine (s : State) (a : Ask) : Bool := a.cycle = s.here.cycle && a.slot = s.askSlot && a.addr = s.here.addr

/-- What the look-ahead found for the acting slot. -/
def State.myAsk (s : State) : Option Ask := s.me.asks.find? s.isMine

/-- Change what the look-ahead found for the acting slot. -/
def State.noteAsk (s : State) (f : Ask → Ask) : State :=
  s.modMe (fun c => { c with asks := c.asks.map (fun a => if s.isMine a then f a else a) })

/-- The look-ahead's own visit ends with its finding kept; at the bundle's issue the slot goes on. -/
def State.endLook (s : State) (f : Ask → Ask) (k : State → Host.Outcome State Fault Refusal) :
    Host.Outcome State Fault Refusal :=
  match s.here.visit with
  | .ask => .next (s.noteAsk f)
  | _ => k s

/-- The look-ahead of the acting slot, made once: it reserves, waits in a freeze at its bundle's cycle, or keeps a trap for its bundle; a
handler's bundle waits by itself (05 R157); at the bundle's issue the slot goes on with the ring count it reserved or claimed from (01 R22, R23, R464). -/
def State.look (s : State) (l : State → Look) (k : Nat → State → Host.Outcome State Fault Refusal) :
    Host.Outcome State Fault Refusal :=
  if s.here.visit = .path then k 0 s
  else
    match s.myAsk.filter (·.done) with
    | some a => s.endLook id (fun s => match a.trap with | some t => .next (takeTrap s t s.here.bundle) | none => k a.start s)
    | none =>
      match l s with
      | .free => s.endLook id (k 0)
      | .ok n s' =>
        s'.endLook (fun a => { a with acts := true, done := true, start := n, doneAt := s.wall }) (k n)
      | .wait s' =>
        let s' := s'.noteAsk (fun a => { a with acts := true, missed := true })
        .next (if s.me.shadow then s'
          else s'.freezeAtCycle (s.groupNo s.here.core) s.here.cycle (.ask s.here.core s.here.cycle s.askSlot))
      | .trap t =>
        s.endLook (fun a => { a with acts := true, done := true, trap := some t }) (fun s => .next (takeTrap s t s.here.bundle))

/-- The look-ahead of a slot that needs a ring and tile-cache lines: the ring's entries are reserved at once, whether or not a line is
missing (06 R186, R193, R196). -/
def lookBoth (ring lines : State → Look) (s : State) : Look :=
  let r := match s.myAsk.filter (·.part) with
    | some a => Look.ok a.start s
    | none => ring s
  match r with
  | .ok n s1 =>
    (match lines s1 with
    | .free => .ok n s1
    | .ok _ s2 => .ok n s2
    | .wait s2 => .wait (s2.noteAsk (fun a => { a with part := true, start := n }))
    | .trap t => .trap t)
  | .wait s1 => (match lines s1 with | .ok _ s2 => .wait s2 | .wait s2 => .wait s2 | .trap t => .trap t | .free => .wait s1)
  | r => r

/-- The code of an engine (05 R153). -/
def engineCode : Engine → Nat
  | .decode => 1 | .stacks => 2 | .samp0 => 3 | .samp1 => 4 | .time => 5 | .link1 => 6 | .link2 => 7 | .link3 => 8
  | .front => 9

/-- The engine of a code. -/
def engineOf : Nat → Engine
  | 1 => .decode | 2 => .stacks | 3 => .samp0 | 4 => .samp1 | 5 => .time | 6 => .link1 | 7 => .link2 | 8 => .link3
  | _ => .front

/-- Where State keeps a queue: engine code, colonnade, queue number. -/
def queueKey (q : QueueRef) : Nat := engineCode q.engine * 256 + q.col * 16 + q.queue

/-- The key of a queue in a colonnade's credit counts (01 R30). -/
def creditKey (q : QueueRef) : Nat := engineCode q.engine * 16 + q.queue

/-- Credits a gateway holds for a queue (01 R30). -/
def creditLimit (q : QueueRef) : Nat := Config.creditsOf (match q.engine with | .decode => true | _ => false)

/-- Take one credit of a queue at look-ahead; none free freezes the group (01 R30). -/
def lookCredit (q : QueueRef) (s : State) : Look :=
  let col := colOf s.here.core
  let used := FMap.get 0 (s.col col).credits (creditKey q)
  if used < creditLimit q then
    .ok 0 (s.modCol col (fun c => { c with credits := FMap.set 0 c.credits (creditKey q) (used + 1) }))
  else .wait s

/-- Probe the tile cache for the lines an instruction needs (06 R186): all present, they are pinned; a missing one is
given a victim and a fill is started; a set with no victim raises SCHED KIND 5. -/
def lookLines (needs : List LineNeed) (s : State) : Look :=
  let col := colOf s.here.core
  let pinTo := s.here.cycle + 1
  let start (acc : State × Bool × Option Trap) (n : LineNeed) : State × Bool × Option Trap :=
    let s := acc.1
    match acc.2.2 with
    | some _ => acc
    | none =>
      match (s.col col).findLine n.tid n.tx n.ty n.j with
      | some (k, l) =>
        (s.modCol col (fun c => { c with
            lines := FMap.set none c.lines k
              (some { l with used := s.wall, pinned := if l.pinned < pinTo then pinTo else l.pinned }) }),
         acc.2.1 && !l.filling, none)
      | none =>
        let set := setOf n.tid n.tx n.ty n.j
        if (lineRows n.rows).any (s.core s.here.core).rowOutside then
          (s, false, some (s.trapHere .translationRange ((n.rows[0]?.getD 0) * 256) 9))
        else
          match s.victim col set s.here.cycle with
          | none => (s, false, some (s.trapHere .sched (schedTval 5 (n.tid * 2 ^ 32 + set)) 9))
          | some k =>
            let s := s.writeBack col k
            let sl := s.freshSlack
            let s := sl.2.modCol col (fun c => { c with
              lines := FMap.set none c.lines k
                (some ⟨n.tid, n.tx, n.ty, n.j, false, n.rows, [], s.wall, pinTo, true, s.here.core⟩) })
            (s.eventAt (s.wall + 1 + sl.1) .tileCacheFill
              { core := s.here.core, col := col, index := k, value := s.wall + 1 }, false, none)
  let r := needs.foldl start (s, true, none)
  match r.2.2 with
  | some t => .trap t
  | none => if r.2.1 then .ok 0 r.1 else .wait r.1

/-- Keep lines pinned until a cycle (06 R186). -/
def State.pinLines (s : State) (needs : List LineNeed) (until_ : Nat) : State :=
  let col := colOf s.here.core
  needs.foldl (fun s n =>
    match (s.col col).findLine n.tid n.tx n.ty n.j with
    | some (k, l) =>
      s.modCol col (fun c => { c with
        lines := FMap.set none c.lines k
          (some { l with pinned := if l.pinned < until_ then until_ else l.pinned }) })
    | none => s) s

end Sys2Proof.Machine
end

