-- ==== Sys2Proof/Machine/Port.lean ====
section
/-! DEFINITION. How untimed agents reach memory: the open port of the scratchpads and blocks, which waits for bank cycles that no timed
access uses (04 R109, R110), and the reserved slots of the channels (09 R280, R281). -/

namespace Sys2Proof.Machine

/-! ### The open port (04 R110) -/

/-- The bank of a row of the byte memory, by its place / 256: the memory that holds it and the bank. -/
def flatBank (n : Nat) : Nat := (if n < 2 ^ 20 then n / 2 ^ 12 else n / 2 ^ 13) * 16 + n % 16

/-- The colonnade of a scratchpad or block row, by its place / 256. -/
def flatCol (n : Nat) : Nat := if n < 2 ^ 20 then n / 2 ^ 15 else (n - 2 ^ 20) / 2 ^ 16

/-- Whether a timed access is one of a row of the byte memory, or of its bank. -/
def BankUse.ofBank (u : BankUse) (n : Nat) : Bool :=
  u.space ≤ 8 && decide (u.space = 0) = decide (n < 2 ^ 20) && u.owner * 16 + u.bank = flatBank n

/-- The number of a row within its space. -/
def flatRow (n : Nat) : Nat := if n < 2 ^ 20 then n % 2 ^ 12 else n % 2 ^ 13

/-- Whether the open port must not perform an access to a scratchpad or block row now: a timed access uses its bank in this cycle, but for
the modify cycle of a read-modify-write slot of another row; or the row is reserved. In a freeze only the reservations count (04 R109, R110). -/
def State.portBlocked (s : State) (n : Nat) : Bool :=
  let col := s.col (flatCol n)
  let g := s.group col.group
  let mine := col.uses.filter (fun u => u.ofBank n)
  if g.phase = .run && col.inst.isSome then
    mine.any (fun u => u.cycle = g.sched && !(u.rmw && u.cycle = u.issued + 3 && u.row ≠ flatRow n))
  else mine.any (fun u => u.rmw && u.row = flatRow n && u.issued + 2 < g.sched && g.sched ≤ u.issued + 4)

/-- The banks found free so far, with those of some rows in which none is blocked now. -/
def State.banksFree (s : State) (free rows : List Nat) : List Nat :=
  let blocked := (rows.filter s.portBlocked).map flatBank
  free ++ ((rows.map flatBank).eraseDups.filter (fun b => !free.contains b && !blocked.contains b))

/-! ### Reserved slots (09 R280, R281) -/

/-- Whether no running group holds a colonnade's channels: untimed traffic then needs no reserved slot (09 R281). -/
def State.unheld (s : State) (col : Nat) : Bool := (s.group (s.col col).group).phase ≠ .run || (s.col col).inst.isNone

/-- The name of a piece of untimed work that is no card's, by the wall cycle from which it reads; a card is named by its serial. -/
def eventKey (since : Nat) : Nat := 2 * since + 1
def JobCard.workKey (c : JobCard) : Nat := 2 * c.serial

/-- For how many wall cycles a request stands that its work does not repeat: the work is over (log entry 20). -/
def reqKept : Nat := 2 ^ 17

/-- The core whose locked table an untimed access of a colonnade's device memory goes through: the one whose slot has carried the access of
the work in hand; else the lowest whose table covers the address (09 R280, 10 R298; log entry 20). -/
def State.dvCore (s : State) (col x : Nat) : Nat :=
  match (if s.since = 0 then none else (s.col col).reqs.findSome? (fun r =>
      if r.key = s.work && r.unit.dv && r.unit.at_ = x / 128 * 128 then r.done.map (·.2) else none)) with
  | some k => k
  | none => ((List.range' (col * 8) 8).find? (fun k => (s.core k).translate x ≠ .range)).getD (col * 8)

/-- Whether the access units of a piece of work have been reached: each on a channel that no running group holds, or by the command of a
reserved slot (09 R280, R281). -/
def State.servedFor (s : State) (key : Nat) (units : List PortUnit) : Bool :=
  units.all (fun u => s.unheld u.col || (s.col u.col).reqs.any (fun r =>
    r.key = key && r.unit = u && (match r.done with | some d => d.1 ≤ s.wall | none => false)))

/-- The same for work that is no card's. -/
def State.served (s : State) (since : Nat) (units : List PortUnit) : Bool := s.servedFor (eventKey since) units

/-- A piece of work asks for access units: those not yet asked for join the queue of their colonnade's channels, in their order (09 R280). -/
def State.askUnits (s : State) (key : Nat) (first : Bool) (units : List PortUnit) : State :=
  units.eraseDups.foldl (fun s u =>
    if s.unheld u.col then s
    else if (s.col u.col).reqs.any (fun r => r.key = key && r.unit = u) then
      s.modCol u.col (fun c => { c with reqs := c.reqs.map (fun r => if r.key = key && r.unit = u then { r with asked := s.wall } else r) })
    else s.modCol u.col (fun c => { c with reqs := c.reqs ++ [⟨key, u, first, s.wall, none⟩] })) s

/-- The requests of a piece of work that is over are forgotten. -/
def State.dropReqs (s : State) (key : Nat) : State :=
  (List.range Config.nCols).foldl (fun s n =>
    if (s.col n).reqs.any (fun r => r.key = key) then s.modCol n (fun c => { c with reqs := c.reqs.filter (fun r => r.key ≠ key) }) else s) s

/-- The access units of a range of a colonnade's device memory that translate. -/
def State.portUnits (s : State) (col x n : Nat) : List PortUnit :=
  if n = 0 || 2 ^ 52 < x + n then []
  else (List.range' (x / 128) ((x + n - 1) / 128 - x / 128 + 1)).filterMap (fun u =>
    (s.unitOf (s.dvCore col (u * 128)) (u * 128)).map (fun a => s.portUnit col (u * 128) a false))

/-- Access units by their places in the channels' arrays. -/
def arrayUnits (write : Bool) (l : List Nat) : List PortUnit := l.map (fun a => ⟨(channelOf a).1, false, a, write⟩)

/-! ### Regions of device memory in the tile cache (04 R117, R118) -/

/-- Whether a line holds a row of a region of device memory. -/
def TcLine.inRegion (l : TcLine) (r : Nat × Nat × Nat) : Bool :=
  r.1 = 10 && l.rows.any (fun x => r.2.1 ≤ x && x < r.2.1 + r.2.2)

/-- Drop the clean lines of regions (04 R118). -/
def State.dropClean (s : State) (col : Nat) (regions : List (Nat × Nat × Nat)) : State :=
  s.modCol col (fun c => { c with lines := c.lines.filter (fun p =>
    match p.2 with
    | some l => l.dirty || l.filling || !regions.any l.inRegion
    | none => true) })

/-- Write back the dirty lines of regions (04 R117), and what is on its way back already. -/
def State.flushRegions (s : State) (col : Nat) (regions : List (Nat × Nat × Nat)) : State :=
  (((s.col col).lines.filter (fun p =>
    match p.2 with
    | some l => l.dirty && regions.any l.inRegion
    | none => false)).foldl (fun s p => s.writeBack col p.1) s).drainBacks col

/-! ### Untimed work -/

/-- Rows or device memory that a piece of untimed work reads: the colonnade, the place and the bytes. -/
structure Area where
  col : Nat
  place : EngineRow
  n : Nat

/-- The scratchpad and block rows of areas, by their places / 256. -/
def areaRows (l : List Area) : List Nat :=
  l.flatMap (fun a => match a.place with
    | .row r => List.range' (r.addr / 256) ((r.addr + a.n + 255) / 256 - r.addr / 256)
    | .dv _ => [])

/-- The access units of areas. -/
def State.areaUnits (s : State) (l : List Area) : List PortUnit :=
  l.flatMap (fun a => match a.place with
    | .row _ => []
    | .dv x => s.portUnits a.col x a.n)

/-- The scratchpad and block rows that the work in hand has written, in the order of their last writes. -/
def State.wroteRows (s : State) : List Nat := (s.port.filter (· < 2 ^ 21)).eraseDups.reverse

/-- The work in hand begins, under its name: what it reads may be as old as a wall cycle, and it has written nothing. -/
def State.beginWork (s : State) (key since : Nat) : State := { s with since := since, work := key, port := [], wrote := [] }

/-- The work in hand is over. -/
def State.endWork (s : State) : State := { s with since := 0, work := 0, port := [], wrote := [] }

/-- The device as a piece of work finds it that has begun to write its rows: each row that it reads as it read it. -/
def State.asRead (s : State) (run : Option PortRun) : State :=
  match run with
  | none => s
  | some r => { s with mem := r.sample.foldl (fun m p => m.writeBytes (p.1 * 256) p.2) s.mem, olds := [], ctr := r.ctr }

/-- Rows of the byte memory with their tags as another state has them. -/
def State.takeRows (s t : State) (rows : List Nat) : State :=
  { s with mem := rows.foldl (fun m n => m.writeBytes (n * 256) (t.mem.readBytes (n * 256) 256)) s.mem,
           tags := rows.foldl (fun m n => FMap.set (0 : Byte) m n (FMap.get 0 t.tags n)) s.tags,
           olds := if s.olds.isEmpty then [] else s.olds.filter (fun o => !rows.contains o.row) }

/-- The rows that a piece of work still writes, given what it comes to: those before the first whose bank is not free now, and the rest
(04 R110). -/
def State.openRows (s t : State) (run : Option PortRun) : List Nat × List Nat :=
  let todo := t.wroteRows.filter (fun n => !(match run with | some r => r.landed.contains n | none => false))
  (todo.takeWhile (fun n => !s.portBlocked n), todo.dropWhile (fun n => !s.portBlocked n))

/-- A piece of work writes some of its rows, and has read what it reads. -/
def State.landRows (s s0 t : State) (run : Option PortRun) (reads rows : List Nat) : State × PortRun :=
  let r := run.getD ⟨reads.map (fun n => (n, s0.portRow n)), [], s.ctr⟩
  ({ s.takeRows t rows with ctr := max s.ctr t.ctr }, { r with landed := r.landed ++ rows })

/-- A piece of work is done: its effect, with the rows as they stand that it had only read, or had written before. -/
def State.landLast (s t : State) (run : Option PortRun) : State :=
  match run with
  | none => t
  | some r =>
    let mine := t.wroteRows.filter (fun n => !r.landed.contains n)
    let keep := (r.landed ++ r.sample.map (·.1)).filter (fun n => !mine.contains n)
    { t.takeRows s keep with olds := if s.olds.isEmpty then [] else s.olds.filter (fun o => !mine.contains o.row), ctr := s.ctr }

/-- What a try of a piece of untimed work comes to: it is done; it waits some cycles, with the banks found free and its rows written so far; or
it stops. -/
inductive PortTry where
  | done (t : State)
  | wait (t : State) (d : Nat) (free : List Nat) (run : Option PortRun)
  | stop (r : Host.Outcome State Fault Refusal)

/-- Try a piece of untimed work that reads the rows and access units named: its reads are done once the bank of each row has been free and
each access unit has been reached; then it writes its access units in reserved slots too, and its rows one after the other, each in a cycle in
which its bank is free (04 R110, R122; 09 R280, R281; log entry 103). -/
def State.tryPort (s : State) (key since : Nat) (first : Bool) (free : List Nat) (run : Option PortRun) (rows : List Nat) (units : List PortUnit)
    (k : State → Host.Outcome State Fault Refusal) : PortTry :=
  let s0 := (s.asRead run).beginWork key since
  let free := if run.isSome then free else s.banksFree free rows
  if !s.servedFor key units then .wait (s.askUnits key first units) 11 free run
  else if !(run.isSome || rows.all (fun n => free.contains (flatBank n))) then .wait s 1 free run
  else
    match k s0 with
    | .next t =>
      if !s.servedFor key t.wrote then .wait (s.askUnits key first (units ++ t.wrote)) 11 free run
      else
        match s.openRows t run with
        | (_, []) => .done (s.landLast t run).endWork
        | (now, _ :: _) =>
          let p := s.landRows s0 t run rows now
          .wait p.1 1 free (some p.2)
    | r => .stop r

/-- Untimed work of an event, under a name of its own, which reads the rows and access units named: while it waits the event comes again, with
the banks found free in its `lines`. -/
def State.viaPort (s : State) (key since : Nat) (first : Bool) (rows : List Nat) (units : List PortUnit)
    (k : State → Host.Outcome State Fault Refusal) (again : Event) : Host.Outcome State Fault Refusal :=
  match s.tryPort key since first again.args.lines again.args.run rows units k with
  | .done t => .next (t.dropReqs key)
  | .wait t d free run => .next (t.eventAt (s.wall + d) again.op { again.args with lines := free, run := run })
  | .stop r => r

/-- The same for work named by the wall cycle from which it reads. -/
def State.throughPort (s : State) (since : Nat) (rows : List Nat) (units : List PortUnit) (k : State → Host.Outcome State Fault Refusal)
    (again : Event) : Host.Outcome State Fault Refusal :=
  s.viaPort (eventKey (max 1 since)) (max 1 since) false rows units k again

end Sys2Proof.Machine
end

