-- ==== Sys2Proof/Machine/Cards.lean ====
section
/-! DEFINITION. Job cards of the untimed engines: sending, arrival, the wait condition, start, signals, and the traps an engine
reports (01 R28 to R36, R462; 02 R61; 04 R122, R123; 11 R346; 14 R410). -/

namespace Sys2Proof.Machine

/-! ### Queues -/

/-- The queue that core `k` reaches on an engine: its colonnade's own set for decode attention and the Stacks (01 R9). -/
def queueFor (k : Nat) (e : Engine) (n : Nat) : QueueRef :=
  { engine := e, col := match e with | .decode | .stacks => colOf k | _ => 0, queue := n }

/-- A queue's cards. -/
def State.queue (s : State) (q : QueueRef) : CardQueue := FMap.get {} s.queues (queueKey q)

/-- Change a queue. -/
def State.modQueue (s : State) (q : QueueRef) (f : CardQueue → CardQueue) : State :=
  { s with queues := FMap.set {} s.queues (queueKey q) (f (s.queue q)) }

/-- The queue of a key. -/
def queueOfKey (k : Nat) : QueueRef := { engine := engineOf (k / 256), col := k / 16 % 16, queue := k % 16 }

/-- The set bits of a mask. -/
def maskBits (m : BitVec 16) : List Nat := (List.range 16).filter (fun i => bitOf m.toNat i)

/-! ### Sending (02 R61, 10 R297) -/

/-- Cycles from the issue of a slot to its card's arrival (02 R61). -/
def arrivalDelay (e : Engine) : Nat := match e with | .decode => 4 | _ => 16

/-- The fences in force for a queue: serial numbers to wait for, and the last cycle of the writes to wait for (04 R123). -/
def Core.fencesOn (c : Core) (key : Nat) : List Nat × Nat :=
  let l := c.fences.filter (fun f => f.queues.contains key)
  (l.flatMap (·.cards), (l.map (·.writes)).foldl max 0)

/-- Put a card on its way: s[a] is copied now (10 R297); it travels on wall cycles, through a freeze too (log entry 90), and cards that
arrive in one cycle enter by colonnade, core and slot (01 R29). -/
def State.postCard (s : State) (q : QueueRef) (c : Card) (op : Instr) : State :=
  let k := s.here.core
  let f := (s.core k).fencesOn (creditKey q)
  let card : JobCard := {
    serial := s.ctr, op := op, operand := s.rs c.a, col := colOf k, logical := (s.col (colOf k)).logical, core := k,
    inst := (s.col (colOf k)).inst.getD 0, wait := maskBits c.wait, signal := maskBits c.signal,
    fence := f.1, fenceWrites := f.2 }
  (({ s with ctr := s.ctr + 1 }).modQueue q (fun u => { u with transit := u.transit ++ [card] })).atWallBy
    (s.wall + arrivalDelay q.engine) (1 + 2 * k + s.here.slot % 2) (.arrive q s.ctr)

/-- Whether the issuing core's partition holds no queue on an engine (02 R61). -/
def State.noQueue (s : State) (e : Engine) : Bool := bitOf (s.part (s.instOf s.here.core).part).noQueues (engineCode e)

/-- What stops an external slot of an untimed engine: in shadow mode only the front end's may stand; decode attention in colonnade D is
UNREACHABLE, as is an engine on which the partition holds no queue (02 R61, 05 R157). -/
def State.cardTrap (s : State) (e : Engine) : Option Trap :=
  firstTrap [if e = .front then none else s.noShadow,
             trapIf ((e = .decode && colOf s.here.core = Config.draftCol) || s.noQueue e) s.unreachable]

/-- An external slot of an untimed engine: its card is sent on one credit, taken at look-ahead (01 R30, 02 R61). -/
def sendCard (e : Engine) (c : Card) (op : Instr) (s : State) : Host.Outcome State Fault Refusal :=
  let q := queueFor s.here.core e c.queue
  match s.cardTrap e with
  | some t => .next (takeTrap s t s.here.bundle)
  | none => s.look (lookCredit q) (fun _ s => .next (s.postCard q c op))

/-- A card enters its queue: its masks become lines of the queue's token window as it stands (05 R153). -/
def State.cardArrives (s : State) (q : QueueRef) (serial : Nat) : State :=
  match (s.queue q).transit.find? (fun c => c.serial = serial) with
  | none => s
  | some c =>
    let base := FMap.get 0 (s.col c.col).windows (creditKey q)
    let c := { c with wait := c.wait.map (base + ·), signal := c.signal.map (base + ·) }
    s.modQueue q (fun u => { u with
      transit := u.transit.filter (fun d => d.serial ≠ serial), cards := u.cards ++ [c] })

/-! ### Where an instance stands -/

/-- The colonnade on which a logical colonnade of an instance stands; none while it is not placed. -/
def State.placeOf (s : State) (i logical : Nat) : Option Nat :=
  if (s.inst i).placed then
    match FMap.get 0 (s.inst i).cols logical with
    | 0 => none
    | n + 1 => some n
  else none

/-- One count more on a line in a saved colonnade record; above 255 its sticky bit is set (15 R430, R431; 01 R35). -/
def bumpLine (d : List Byte) (line : Nat) : List Byte :=
  let v := leAt d (0xE40 + line) 1
  if v = 255 then patchBytes d (0xEC0 + line / 8) (leBytes 1 (setBit (leAt d (0xEC0 + line / 8) 1) (line % 8)))
  else patchBytes d (0xE40 + line) (leBytes 1 (v + 1))

/-- The saved record of a logical colonnade of an instance (15 R430), and a change of it. -/
def State.savedRecord (s : State) (i logical : Nat) : List Byte :=
  (((s.inst i).saved.find? (fun p => p.1 = logical * 16)).map (·.2)).getD []
def State.modRecord (s : State) (i logical : Nat) (f : List Byte → List Byte) : State :=
  s.setInst i { s.inst i with saved := (s.inst i).saved.map (fun p => if p.1 = logical * 16 then (p.1, f p.2) else p) }

/-- A card's signal: one count on each line it names in the issuing colonnade, or in its record while that is pre-empted;
dropped when the instance has ended (01 R33, 15 R431, R432). -/
def State.signalCard (s : State) (c : JobCard) : State :=
  if c.dropSignal || (s.inst c.inst).status.isSome then s
  else
    match s.placeOf c.inst c.logical with
    | some col => c.signal.foldl (fun s l => s.addLine col l 1) s
    | none =>
      let full := c.signal.filter (fun l => leAt (s.savedRecord c.inst c.logical) (0xE40 + l) 1 = 255)
      full.foldl (fun s l => s.tell (.overflow c.inst c.logical l)) (s.modRecord c.inst c.logical (fun d => c.signal.foldl bumpLine d))

/-! ### Starting (01 R28, R34, R462) -/

/-- Whether what a QFENCE put before a card is done (04 R123). -/
def State.fenceDone (s : State) (c : JobCard) : Bool :=
  c.fence.all (fun n => s.queues.all (fun p =>
      (p.2.cards ++ p.2.transit ++ p.2.running.toList).all (fun d => d.serial ≠ n)) &&
    (s.core c.core).rels.all (fun r => r.gen ≠ n)) &&
    ((s.inst c.inst).status.isSome || c.fenceWrites < (s.groupOf c.core).sched)

/-- The colonnade whose lines a card waits on. -/
def State.cardCol (s : State) (c : JobCard) : Option Nat := s.placeOf c.inst c.logical

/-- Whether every line that a card waits on has a count: those of its colonnade, or the recorded ones while that is pre-empted (01 R34;
15 R431). -/
def State.linesMet (s : State) (c : JobCard) : Bool :=
  match s.cardCol c with
  | some col => (s.col col).linesReady c.wait
  | none => c.wait.all (fun l => leAt (s.savedRecord c.inst c.logical) (0xE40 + l) 1 ≠ 0)

/-- Whether a queue's head card may start: no card of the queue runs, its fences are done, and every line it names has a count;
a pre-empted colonnade's decode attention engine starts none (15 R431). -/
def State.headReady (s : State) (q : QueueRef) : Option JobCard :=
  let u := s.queue q
  match u.running, u.cards with
  | none, c :: _ =>
    if c.claimed = 0 && s.fenceDone c && s.linesMet c && (q.engine ≠ .decode || (s.cardCol c).isSome) then some c else none
  | _, _ => none

/-- The wait condition of a head card is met: its lines are taken (01 R34). -/
def State.claimHead (s : State) (q : QueueRef) (c : JobCard) : State :=
  let s := match s.cardCol c with
    | some col => s.modCol col (fun co => co.takeLines c.wait)
    | none => s.modRecord c.inst c.logical (fun d =>
        c.wait.foldl (fun d l => patchBytes d (0xE40 + l) (leBytes 1 (leAt d (0xE40 + l) 1 - 1))) d)
  s.modQueue q (fun u => match u.cards with
    | d :: r => { u with cards := { d with claimed := s.wall + 1 } :: r }
    | [] => u)

/-- The key of the engine of a queue: its code and the colonnade it stands in. -/
def engineKey (q : QueueRef) : Nat := engineCode q.engine * 16 + q.col

/-- The heads of an engine's queues that are ready to start, in queue order. -/
def State.readyHeads (s : State) (q : QueueRef) : List (QueueRef × JobCard) :=
  (List.range 8).filterMap (fun n =>
    let r := { q with queue := n }
    match (s.queue r).running, (s.queue r).cards with
    | none, c :: _ => if c.claimed ≠ 0 then some (r, c) else none
    | _, _ => none)

/-- The weight of a queue for the card at its head: its partition's, 1 by default (01 R31). -/
def State.queueWeight (s : State) (q : QueueRef) (c : JobCard) : Nat :=
  max 1 (FMap.get 0 (s.part (s.inst c.inst).part).weights (creditKey q))

/-- Choose, by weighted round robin, the card that an engine starts next, unless it has chosen one: no earlier than 8 cycles after its wait
condition was met (01 R31, R462), and within a bound in the front end, whose reclaims are bounded (log entry 5). -/
def State.nextStart (s : State) (q : QueueRef) : State :=
  let e := engineKey q
  let heads := s.readyHeads q
  if heads.any (fun p => FMap.get 0 s.starting e = p.2.serial + 1) then s
  else
    match nextTurn (FMap.get 0 s.turns e) (heads.map (fun p => (p.1.queue, s.queueWeight p.1 p.2))) with
    | none => s
    | some (n, t) =>
      match heads.find? (fun p => p.1.queue = n) with
      | none => s
      | some p =>
        let w := s.freshSlack
        let d := if q.engine = .front then w.1 % 256 else w.1
        State.eventAt { w.2 with turns := FMap.set 0 s.turns e t, starting := FMap.set 0 s.starting e (p.2.serial + 1) }
          (max s.wall (p.2.claimed + 7) + d) .jobCardStart { q := p.1, opt := some p.2.serial }

/-- Serve the waiters of the engines' queues in the order of R34; then each engine chooses the card it starts next (R31). -/
def State.serveQueues (s : State) : State :=
  let qs := (s.queues.map (·.1)).map queueOfKey
  let s := qs.foldl (fun s q => match s.headReady q with | some c => s.claimHead q c | none => s) s
  qs.foldl (fun s q => s.nextStart q) s

/-- The event by which a card of an engine takes effect. -/
def completionOp : Engine → Instr
  | .decode => .decodeAttentionCardCompletion
  | .stacks => .stacksStep
  | .samp0 => .samplingCardCompletion
  | .samp1 => .samplingCardCompletion
  | .time => .timeIngestCardCompletion
  | .link1 => .linkCardCompletion
  | .link2 => .linkCardCompletion
  | .link3 => .linkCardCompletion
  | .front => .frontEndCardCompletion

/-! ### Completing -/

/-- The running card that a completion event names. -/
def State.runningCard (s : State) : Option JobCard :=
  (s.queue s.ev.q).running.bind (fun c =>
    if s.ev.opt.isSome && s.ev.opt ≠ some c.serial then none else some c)

/-- The physical colonnade of a logical colonnade of an instance, as last placed. -/
def State.physOf (s : State) (i logical : Nat) : Option Nat :=
  match FMap.get 0 (s.inst i).cols logical with
  | 0 => none
  | n + 1 => some n

/-- Added to the pool key of a page that has left a chain and still stands in another (11 R331). -/
def sharedKey : Nat := 4096

/-- A reader leaves; pages that waited for it alone return to their pools, but for those still shared (11 R331). -/
def State.readerLeaves (s : State) (serial : Nat) : State :=
  let rest := s.leaving.map (fun p => (p.1, p.2.1, p.2.2.filter (· ≠ serial)))
  let free := rest.filter (fun p => p.2.2.isEmpty)
  { s with readers := s.readers.filter (fun r => r.1 ≠ serial),
           leaving := rest.filter (fun p => !p.2.2.isEmpty),
           pools := (free.filter (fun p => p.1 < sharedKey)).foldl (fun m p => FMap.modify [] m p.1 (· ++ [p.2.1])) s.pools }

/-- Rows that no card can read as they were are forgotten. -/
def State.dropOlds (s : State) : State :=
  if s.olds.isEmpty then s
  else
    let times := s.queues.flatMap (fun p => ((p.2.running.toList ++ p.2.cards).map (·.claimed)).filter (· ≠ 0))
    { s with olds := s.olds.filter (fun o => times.any (· ≤ o.wall)) }

/-- A card of a queue is complete: the queue is free for its next card, and the card's signal is counted on its report cycle,
`d` wall cycles on. -/
def State.finishCard (s : State) (q : QueueRef) (c : JobCard) (d : Nat) : State :=
  let s := (s.modQueue q (fun u => { u with running := none })).readerLeaves c.serial |>.dropOlds
  if d = 0 then s.signalCard c else s.atWall (s.wall + d) (.signal c)

/-- The report cycle of a spine engine's card: within 24 cycles of its completion (01 R33, 11 R346). -/
def State.reportDelay (s : State) : Nat × State :=
  let r := s.freshSlack
  (1 + r.1 % 24, r.2)

/-- A completion that must wait is tried again later. -/
def State.tryLater (s : State) (q : QueueRef) (c : JobCard) : State :=
  s.eventAt (s.wall + 11) (completionOp q.engine) { s.ev with q := q, opt := some c.serial }

/-- The completion of a running card is tried again `d` cycles on; the banks that it has found free and the rows that it has written are kept. -/
def State.againCard (s : State) (c : JobCard) (free : List Nat) (run : Option PortRun) (d : Nat) : State :=
  (s.modQueue s.ev.q (fun u => { u with running := some { c with free := free, run := run } })).eventAt (s.wall + d)
    (completionOp s.ev.q.engine) s.ev

/-- What a card has done through the open port is behind it: one that no longer runs asks for nothing more. -/
def State.settleCard (s : State) (q : QueueRef) (c : JobCard) : State :=
  if !(s.queue q).running.any (fun d => d.serial = c.serial) then s.dropReqs c.workKey
  else if c.free.isEmpty && c.run.isNone then s
  else s.modQueue q (fun u => { u with running := u.running.map (fun d => { d with free := [], run := none }) })

/-- Go on with the running card of a completion event: it reads the areas named, as they stood at some time since its wait condition was met,
once every bank it reads or writes has been free, no row it writes is in use, and reserved slots have served its device memory (04 R110,
R111, R122; 09 R281; log entry 103); a card whose instance is pre-empted runs on against what was saved of it (15 R431; log entry 23). -/
def State.withCard (s : State) (reach : State → JobCard → List Area) (k : State → JobCard → Host.Outcome State Fault Refusal) :
    Host.Outcome State Fault Refusal :=
  match s.runningCard with
  | none => .next s
  | some c =>
    if (s.placeOf c.inst c.logical).isNone && !(s.inst c.inst).saved.isEmpty then
      .next (s.atWall (s.wall + 1) (.onRecord c.inst ⟨completionOp s.ev.q.engine, s.ev⟩))
    else
      let s0 := (s.asRead c.run).beginWork c.workKey c.claimed
      let areas := reach s0 c
      match s.tryPort c.workKey c.claimed false c.free c.run (areaRows areas) (s0.areaUnits areas) (fun s => k s c) with
      | .done t => .next (t.settleCard s.ev.q c)
      | .wait t d free run => .next (t.againCard c free run d)
      | .stop r => r

/-- The front end is told the first absent address among the areas of a card that failed with ABSENT (10 R306; 12 R356; 14 R409). -/
def State.tellAbsent (s : State) (inst : Nat) (l : List Area) : State :=
  match l.findSome? (fun a => match a.place with
    | .dv x => (List.range' (x / 128) ((x + a.n - 1) / 128 - x / 128 + 1)).findSome? (fun u =>
        match (s.core (s.dvCore a.col (u * 128))).translate (u * 128) with | .absent _ => some (u * 128) | _ => none)
    | .row _ => none) with
  | some x => s.tell (.absent inst x)
  | none => s

/-! ### Traps that an engine reports (11 R346, 14 R410) -/

/-- The TCAUSE of a trap that ends its instance in a halted core: no slot, ENDING (05 R134). -/
def endedCause (c : Cause) : Nat := c.code + 7 * 2 ^ 8 + 2 ^ 11

/-- A resumable trap in the core that issued a card, from its report cycle on; when the core has halted the instance ends; an
instance that has retired only tells the front end. -/
def State.reportTrap (s : State) (cause : Cause) (inst logical core tval : Nat) (lines : List Nat) : State :=
  if (s.inst inst).status.isSome then s.tell (.trap inst cause.code tval)
  else
    match s.placeOf inst logical with
    | none => s.eventAt (s.wall + 11) (if cause = .link then .link else .specFault)
        { inst := inst, col := logical, core := core, value := tval, lines := lines }
    | some col =>
      let k := col * 8 + core % 8
      let c := s.core k
      if c.mode = .halted then s.endInstance inst trapStatus (endedCause cause) tval
      else s.setCore k { c with dueTraps := c.dueTraps ++ [⟨cause, tval, (s.groupOf k).sched, s.wall, lines⟩] }

/-- SPEC_FAULT (11 R346): a KCOMMIT stopped by a deferred fault traps its core. -/
def execSpecFault (s : State) : Host.Outcome State Fault Refusal :=
  .next (s.reportTrap .specFault s.ev.inst s.ev.col s.ev.core s.ev.value s.ev.lines)

/-- LINK (14 R410): a link card that failed under TRAP policy 1 traps its core. -/
def execLink (s : State) : Host.Outcome State Fault Refusal :=
  .next (s.reportTrap .link s.ev.inst s.ev.col s.ev.core s.ev.value s.ev.lines)

end Sys2Proof.Machine
end

