-- ==== Sys2Proof/Machine/Pages.lean ====
section
/-! DEFINITION. Device memory as an untimed engine reaches it, and the pages of the Stacks: where a page stands, its header, its
slot words, and chains (09 R280, R281; 10 R306; 11 R319 to R323). -/

namespace Sys2Proof.Machine

/-! ### Device memory of a colonnade, for untimed engines -/

/-- Why device memory could not be read or written. -/
inductive DvErr where
  | range | absent | mcheck
deriving DecidableEq, Repr

/-- The code of an error counted from a chapter's RANGE code, ABSENT and MCHECK following it (10 R300, 11 R328). -/
def DvErr.code (range : Nat) : DvErr → Nat
  | .range => range | .absent => range + 1 | .mcheck => range + 2

/-- The deferred cause of an error (11 R345). -/
def DvErr.cause : DvErr → Nat
  | .range => 0x0A | .absent => 0x0B | .mcheck => 0x0E

/-- What an access of `n` bytes of a colonnade's device memory meets (10 R306). -/
def State.dvErr (s : State) (col x n : Nat) (write : Bool) : Option DvErr :=
  let c := s.core (s.dvCore col x)
  let place (u : Nat) : Xlat := c.translate (u * 128)
  if n = 0 then none
  else if 2 ^ 52 < x + n then some .range
  else
    match (List.range' (x / 128) ((x + n - 1) / 128 - x / 128 + 1)).find? (fun u =>
        match place u with | .ok _ _ _ _ => false | _ => true) with
    | some u => some (match place u with | .absent _ => .absent | _ => .range)
    | none => if !write && (s.badDv (s.dvCore col x) x n).isSome then some .mcheck else none

/-- Count the corrected bursts of a read (09 R292). -/
def State.countDv (s : State) (col x n : Nat) : State :=
  if s.errs.isEmpty || n = 0 then s
  else (List.range' (x / 32) ((x + n - 1) / 32 - x / 32 + 1)).foldl (fun s u =>
    match s.unitOf (s.dvCore col x) (u * 32 / 128 * 128) with
    | some a => s.countCorrected (a + u * 32 % 128) 32
    | none => s) s

/-- Read `n` bytes at a place of a card's colonnade. -/
def State.fetch (s : State) (col : Nat) (r : EngineRow) (off n : Nat) : Except DvErr (List Byte) :=
  match r with
  | .row r => .ok (s.portBytes (r.addr + off) n)
  | .dv x =>
    match s.dvErr col (x + off) n false with
    | some e => .error e
    | none => .ok ((s.readDv (s.dvCore col (x + off)) (x + off) n).getD [])

/-- Write bytes at a place of a card's colonnade: the accesses of one piece of untimed work take place in program order, at one instant
(04 R124; log entry 98). -/
def State.storeAt (s : State) (col : Nat) (r : EngineRow) (off : Nat) (d : List Byte) : State :=
  match r with
  | .row _ => s.writeEngine (col * 8) r off d
  | .dv x => s.writeEngine (s.dvCore col (x + off)) r off d

/-- `n` consecutive rows from a row pointer; none when any is out of range (10 R298). -/
def State.rowArea (s : State) (core p n : Nat) : Option EngineRow :=
  match s.rowPointer core p with
  | some (.row r) =>
    if (List.range n).all (fun i =>
        s.rowOk core { r with row := r.row + i, addr := r.addr + 256 * i } (s.groupOf core).sched)
    then some (.row r) else none
  | some (.dv x) => if x + 256 * n ≤ 2 ^ 52 then some (.dv x) else none
  | none => none

/-- The area of `n` bytes from a row pointer, for a card of a core; empty where the pointer is out of range. -/
def State.areaAt (s : State) (core p n : Nat) : List Area :=
  match s.rowPointer core p with
  | some r => [⟨colOf core, r, n⟩]
  | none => []

/-- Whether a row pointer is in sp or cb. -/
def inRows (p : Nat) : Bool := p / 2 ^ 60 ≤ 8

/-! ### Pages (11 R319 to R321) -/

/-- The pointer for no page (11 R320). -/
def noPage : Nat := 2 ^ 64 - 1

/-- Where peer memory stands in the flat byte memory, as this module left it (log entry 21). -/
def peerAddr (port a : Nat) : Nat := 2 ^ 56 + port * 2 ^ 52 + a

/-- Where a page stands, as NEXT names it (11 R320): a block row of its home, device memory, or off the device. -/
inductive PagePlace where
  | cb (a : Nat)
  | dv (x : Nat)
  | off (a : Nat)
deriving DecidableEq, Repr

/-- The place a pointer names, for a page whose home is a colonnade. -/
def pagePlace (col p : Nat) : Option PagePlace :=
  let sp := p / 2 ^ 60 % 16
  if p = noPage then none
  else if 1 ≤ sp && sp ≤ 8 then some (.cb (cbAddr col (sp - 1) (p % 2 ^ 13)))
  else if sp = 10 then some (.dv (p % 2 ^ 52))
  else if 11 ≤ sp && sp ≤ 13 then some (.off (peerAddr (sp - 10) (p % 2 ^ 52)))
  else if sp = 14 then some (.off (hostAddr (p % 2 ^ 52)))
  else none

/-- The tier of a page: 0 cb, 1 dv, 2 host or peer. -/
def tierOf (p : Nat) : Nat := let sp := p / 2 ^ 60 % 16; if sp ≤ 8 then 0 else if sp = 10 then 1 else 2

/-- Whether an access to host memory at a place of the byte memory completes with an error: what the host answers is a free value (16 R448;
log entry 109). -/
def State.hostFails (s : State) (a : Nat) : Bool := decide (hostAddr 0 ≤ a) && decide (a < peerAddr 0 0) && Config.hostFails s.wall (a - hostAddr 0)

/-- Whether a partition has been granted a range of host memory (16 R448). -/
def State.hostGranted (s : State) (part a n : Nat) : Bool := (s.part part).hostRanges.any (fun r => r.1 ≤ a && a + n ≤ r.1 + r.2)

/-- Whether a page may be reached for a partition: one in host memory lies in a range granted to it (16 R448). -/
def State.pageGranted (s : State) (part p : Nat) : Bool := p / 2 ^ 60 % 16 ≠ 14 || s.hostGranted part (p % 2 ^ 52) 65536

/-- The port over which a page in peer memory is reached (11 R339; 14 R419). -/
def pagePort (p : Nat) : Option Nat := let sp := p / 2 ^ 60 % 16; if p ≠ noPage && 11 ≤ sp && sp ≤ 13 then some (sp - 10) else none

/-- What an access of part of a page meets; a host access that fails counts as an uncorrectable burst (16 R448). -/
def State.pageErr (s : State) (col p off n : Nat) (write : Bool) : Option DvErr :=
  match pagePlace col p with
  | some (.dv x) => s.dvErr col (x + off) n write
  | some (.off a) => if s.hostFails a then some .mcheck else none
  | _ => none

/-- Bytes of a page. -/
def State.pageRead (s : State) (col p off n : Nat) : List Byte :=
  match pagePlace col p with
  | some (.cb a) => s.portBytes (a + off) n
  | some (.dv x) => (s.readDv (s.dvCore col (x + off)) (x + off) n).getD (List.replicate n 0)
  | some (.off a) => s.mem.readBytes (a + off) n
  | none => List.replicate n 0

/-- Write bytes of a page; block rows take tag 0x00 (04 R105). -/
def State.pageWrite (s : State) (col p off : Nat) (d : List Byte) : State :=
  match pagePlace col p with
  | some (.cb _) =>
    let sp := p / 2 ^ 60 % 16
    s.writeEngine (col * 8) (.row (rowAt (col * 8) sp (p % 2 ^ 13))) off d
  | some (.dv x) => s.writeDv (s.dvCore col (x + off)) (x + off) d
  | some (.off a) => { s with mem := s.mem.writeBytes (a + off) d }
  | none => s

/-- The area of part of a page: none off the device. -/
def pageArea (col p off n : Nat) : List Area :=
  match pagePlace col p with
  | some (.cb a) => [⟨col, .row ⟨1, 0, a + off⟩, n⟩]
  | some (.dv x) => [⟨col, .dv (x + off), n⟩]
  | _ => []

/-- A page's header and slot words, as read (11 R320, R321). -/
structure Page where
  ptr : Nat
  next : Nat
  d : Nat
  ptok : Nat
  fmt : Nat
  seq : Nat
  chain : Nat
  share : Nat
  slots : List Nat
deriving DecidableEq, Repr

/-- Read a page's header and slot words. -/
def State.loadPage (s : State) (col p : Nat) : Page :=
  let h := s.pageRead col p 0 768
  { ptr := p, next := leAt h 0 8, d := leAt h 8 2, ptok := leAt h 10 1, fmt := leAt h 11 1, seq := leAt h 12 1,
    chain := leAt h 14 2, share := leAt h 16 2,
    slots := (List.range (2 ^ (leAt h 10 1 % 8))).map (fun i => leAt h (256 + 8 * i) 8) }

/-- A page's header and slot table as bytes: rows 0 to 3. -/
def Page.bytes (p : Page) : List Byte :=
  padTo 256 (leBytes 8 p.next ++ leBytes 2 p.d ++ leBytes 1 p.ptok ++ leBytes 1 p.fmt ++ leBytes 2 p.seq ++
    leBytes 2 p.chain ++ leBytes 2 p.share) ++
  padTo 768 (p.slots.flatMap (leBytes 8))

/-- Fields of a slot word (11 R321). -/
def slotState (w : Nat) : Nat := w % 4
def slotNode (w : Nat) : Nat := w / 2 ^ 2 % 64
def slotGen (w : Nat) : Nat := w / 2 ^ 8 % 4
def slotFault (w : Nat) : Nat := w / 2 ^ 16 % 256
def slotPos (w : Nat) : Nat := w / 2 ^ 24 % 2 ^ 24

/-- A COMMITTED slot at a position. -/
def committedSlot (pos : Nat) : Nat := 1 + pos * 2 ^ 24
/-- A PROVISIONAL slot of a node. -/
def provisionalSlot (gen node fault : Nat) : Nat := 2 + node * 2 ^ 2 + gen * 2 ^ 8 + fault * 2 ^ 16

/-- Bytes of an element of a KV format. -/
def fmtBytes (fmt : Nat) : Nat := match elemFmt fmt with | some f => f.width / 8 | none => 1

/-- Whether a code is a key and value format (10 R301). -/
def isKvFmt (fmt : Nat) : Bool := 0x08 ≤ fmt && fmt ≤ 0x0C

/-- Where the key and the value of slot `i` start in a page of 2^ptok tokens of head dimension d (11 R319). -/
def keyOff (d fmt i : Nat) : Nat := 1024 + i * d * fmtBytes fmt
def valOff (d ptok fmt i : Nat) : Nat := 1024 + 2 ^ ptok * d * fmtBytes fmt + i * d * fmtBytes fmt

/-- The pages of a chain from its first, in order (11 R319, R320). -/
def State.chainPages (s : State) (col : Nat) : Nat → Nat → List Nat
  | 0, _ => []
  | fuel + 1, p =>
    match pagePlace col p with
    | none => []
    | some _ => p :: s.chainPages col fuel (leNat (s.pageRead col p 0 8))

/-- A bound on the pages of a chain. -/
def maxPages : Nat := 2 ^ 24

/-- The open generation of a sequence (11 R322). -/
def Sequence.openGen (q : Sequence) : Option Nat := q.live.head?

/-- A sequence record. -/
def State.seq (s : State) (n : Nat) : Sequence := FMap.get {} s.seqs n
def State.setSeq (s : State) (n : Nat) (q : Sequence) : State := { s with seqs := FMap.set {} s.seqs n q }
def State.modSeq (s : State) (n : Nat) (f : Sequence → Sequence) : State := s.setSeq n (f (s.seq n))

/-- Bytes as f32 patterns from an element format: exact (10 R303). -/
def f32Of (fmt : Nat) (d : List Byte) : List Nat :=
  let b := fmtBytes fmt
  (List.range (d.length / b)).map (fun i =>
    match elemFmt fmt with
    | some f => (f32F.finish .rne (f.value (leAt d (i * b) b), 0)).1
    | none => 0)

end Sys2Proof.Machine
end

