-- ==== Sys2Proof/Machine/Attention.lean ====
section
/-! DEFINITION. The decode attention engines (spec 10): state slots, context descriptors, where keys come from, scores and the
online softmax, tree masks, state images and merging. A card takes effect whole at its completion (R299). -/

namespace Sys2Proof.Machine

/-! ### Slots and their cards -/

/-- A state slot of the engine of a colonnade. -/
def State.slot (s : State) (col n : Nat) : DaSlot := FMap.get {} s.da (col * 16 + n)
def State.setSlot (s : State) (col n : Nat) (v : DaSlot) : State := { s with da := FMap.set {} s.da (col * 16 + n) v }

/-- Failure codes (10 R300). -/
def daOperand : Nat := 1
def daUnbound : Nat := 2
def daShape : Nat := 3
def daRange : Nat := 4
def daMcheck : Nat := 6

/-- The code of a slot's first failing card is kept (10 R300). -/
def DaSlot.fail (v : DaSlot) (code : Nat) : DaSlot :=
  if v.status % 256 = 0 then { v with status := v.status + code } else v

/-- Set flag bits of a status word. -/
def orStatus (status bits : Nat) : Nat := status ||| bits

/-- Add to TOKENS, mod 2^48 (10 R300). -/
def addTokens (status n : Nat) : Nat := (status / 2 ^ 16 + n) % 2 ^ 48 * 2 ^ 16 + status % 2 ^ 16

/-! ### The context descriptor (10 R301) -/

def dQptr (d : Row) : Nat := leAt d 0 8
def dOptr (d : Row) : Nat := leAt d 8 8
def dSrc (d : Row) : Nat := leAt d 16 8
def dPfx (d : Row) : Nat := leAt d 24 8
def dPbase (d : Row) : Nat := leAt d 32 8
def dScale (d : Row) : Nat := leAt d 40 4
def dTlen (d : Row) : Nat := leAt d 44 4
def dDim (d : Row) : Nat := leAt d 48 2
def dHeads (d : Row) : Nat := leAt d 50 2
def dNodes (d : Row) : Nat := leAt d 52 2
def dPtok (d : Row) : Nat := leAt d 54 1
def dMode (d : Row) : Nat := leAt d 55 1
def dFmt (d : Row) : Nat := leAt d 56 1
def dOut (d : Row) : Nat := leAt d 57 1

/-- Queries of a slot. -/
def dNq (d : Row) : Nat := dHeads d * dNodes d

/-- Bytes of a page in ROWS and TABLE modes (10 R303). -/
def dPage (d : Row) : Nat := 2 ^ (dPtok d + 1) * dDim d * fmtBytes (dFmt d)

/-- Rows of one buffer of the prefetch area; CHAIN pages are 64 KiB (10 R301, R305). -/
def dPageRows (d : Row) : Nat := if dMode d = 2 then 256 else ceilDiv (dPage d) 256

/-- Whether SRC is as its mode has it (10 R304). -/
def State.srcOk (s : State) (core : Nat) (d : Row) (src : Nat) : Bool :=
  if dMode d = 2 then
    (s.rowPointer core src).isSome && (tierOf src = 1 || (1 ≤ src / 2 ^ 60 && src / 2 ^ 60 ≤ 8))
  else inRows src && (s.rowPointer core src).isSome

/-- Whether a descriptor is in range (10 R301). -/
def State.descOk (s : State) (core : Nat) (d : Row) : Bool :=
  let mode := dMode d
  isKvFmt (dFmt d) && (dOut d = 0x08 || dOut d = 0x0A) && mode ≤ 2 && dPtok d ≤ 15 && dTlen d ≤ 2 ^ 24 &&
    16 ≤ dDim d && dDim d ≤ 256 && dDim d % 16 = 0 && 1 ≤ dHeads d && dHeads d ≤ 64 && 1 ≤ dNodes d && dNodes d ≤ 64 &&
    dNq d * dDim d ≤ 32768 && allZero (d.drop 58) &&
    inRows (dQptr d) && (s.rowArea core (dQptr d) (ceilDiv (dNq d * dDim d) 64)).isSome &&
    inRows (dOptr d) && (s.rowPointer core (dOptr d)).isSome && s.srcOk core d (dSrc d) &&
    (if mode = 1 then dPbase d % 2 ^ 16 = 0 && dPbase d < 2 ^ 52 else dPbase d = 0) &&
    (mode = 2 || (256 ≤ dPage d && dPage d ≤ 65536)) &&
    (if mode = 0 then dPfx d = 0
     else 1 ≤ dPfx d / 2 ^ 60 && dPfx d / 2 ^ 60 ≤ 8 && (s.rowArea core (dPfx d) (5 * dPageRows d)).isSome)

/-! ### Where keys come from (10 R302 to R306) -/

/-- Whether a page whose header row is given is well formed: its fields in range, the bytes and bits not named zero (10 R297; 11 R319 to
R321). -/
def Page.wellFormed (p : Page) (h : List Byte) : Bool :=
  p.ptok ≤ 6 && 2 * 2 ^ p.ptok * p.d * fmtBytes p.fmt ≤ 64512 && p.chain < 1024 && 1 ≤ p.share && p.share ≤ 256 &&
    leAt h 13 1 = 0 && allZero (h.drop 18) && p.slots.all (fun w => w < 2 ^ 48 && w / 2 ^ 10 % 64 = 0)

/-- A key token that a card reads: its position, key and value. -/
structure KvTok where
  pos : Nat
  key : List Byte
  val : List Byte
deriving DecidableEq, Repr

/-- A deferred fault that a card met (11 R345): the page and slot, and whose node it is. -/
structure FaultNote where
  page : Nat
  slot : Nat
  seq : Nat
  gen : Nat
  node : Nat
  chain : Nat
  cause : Nat
deriving DecidableEq, Repr

/-- What gathering tokens gives: the tokens, the fetched pages as (page number, address, bytes), and the deferred faults met. -/
structure Gathered where
  toks : List KvTok := []
  pages : List (Nat × Nat × List Byte) := []
  reports : List FaultNote := []
deriving DecidableEq, Repr

/-- Whether the rows of `n` bytes at an offset from a row pointer's place are in range (10 R298). -/
def State.rowsOk (s : State) (core : Nat) (r : EngineRow) (off n : Nat) : Bool :=
  match r with
  | .row r => (List.range' (off / 256) ((off + n + 255) / 256 - off / 256)).all (fun i =>
      s.rowOk core { r with row := r.row + i, addr := r.addr + 256 * i } (s.groupOf core).sched)
  | .dv x => x + off + n ≤ 2 ^ 52

/-- ROWS mode: tokens read where they stand. -/
def State.gatherRows (s : State) (core : Nat) (d : Row) (need : List Nat) : Except Nat Gathered :=
  let n := dDim d * fmtBytes (dFmt d)
  let at_ (g : Nat) : Nat := g / 2 ^ dPtok d * dPage d + g % 2 ^ dPtok d * n
  let v := 2 ^ dPtok d * n
  match s.rowPointer core (dSrc d) with
  | some r =>
    if need.all (fun g => s.rowsOk core r (at_ g) n && s.rowsOk core r (at_ g + v) n) then
      .ok { toks := need.map (fun g =>
        ⟨g, (s.readEngine core r (at_ g) n).getD [], (s.readEngine core r (at_ g + v) n).getD []⟩) }
    else .error daOperand
  | none => .error daOperand

/-- TABLE mode: the block table's entry of each page needed, then the page whole; a hole's tokens are not present. -/
def State.gatherTable (s : State) (col core : Nat) (d : Row) (need : List Nat) : Except Nat Gathered :=
  let n := dDim d * fmtBytes (dFmt d)
  let v := 2 ^ dPtok d * n
  ((need.map (· / 2 ^ dPtok d)).eraseDups).foldl (fun (acc : Except Nat Gathered) p =>
    match acc, (s.rowPointer core (dSrc d)).filter (fun r => s.rowsOk core r (4 * p) 4) with
    | .error e, _ => .error e
    | .ok _, none => .error daOperand
    | .ok g, some r =>
      let e := leNat ((s.readEngine core r (4 * p) 4).getD [])
      if e = 0xFFFFFFFF then .ok g
      else
        let x := dPbase d + 65536 * e
        if 2 ^ 52 < x + 65536 then .error daRange
        else
          match s.fetch col (.dv x) 0 (dPage d) with
          | .error er => .error (er.code daRange)
          | .ok bs =>
            let ts := (need.filter (fun t => t / 2 ^ dPtok d = p)).map (fun t =>
              let i := t % 2 ^ dPtok d
              ⟨t, (bs.drop (i * n)).take n, (bs.drop (v + i * n)).take n⟩)
            .ok { g with toks := g.toks ++ ts, pages := g.pages ++ [(p, x, bs)] }) (.ok {})

/-- The tokens of one page of a chain (10 R304, 11 R321): a COMMITTED slot at its position, a PROVISIONAL slot of the open
generation at LEN + NODE; faults met on provisional slots are deferred, of every one of them, since the page is read whole (10 R305). -/
def State.pageToks (s : State) (col : Nat) (d : Row) (pg : Page) (need : Nat → Bool) (g0 : Gathered) : Except Nat Gathered :=
  let q := s.seq pg.seq
  let n := dDim d * fmtBytes (dFmt d)
  (List.range pg.slots.length).foldl (fun (acc : Except Nat Gathered) i =>
    match acc with
    | .error e => .error e
    | .ok g =>
      let w := pg.slots[i]?.getD 0
      let ko := keyOff pg.d pg.fmt i; let vo := valOff pg.d pg.ptok pg.fmt i
      let err := match s.pageErr col pg.ptr ko n false with
        | some e => some e
        | none => s.pageErr col pg.ptr vo n false
      let tok (pos : Nat) : KvTok := ⟨pos, s.pageRead col pg.ptr ko n, s.pageRead col pg.ptr vo n⟩
      if slotState w = 1 && need (slotPos w) then
        if slotFault w ≠ 0 then .error daMcheck
        else match err with
          | some e => .error (e.code daRange)
          | none => .ok { g with toks := g.toks ++ [tok (slotPos w)] }
      else if slotState w = 2 && slotFault w = 0 then
        match err with
        | some e => .ok { g with reports := g.reports ++ [⟨pg.ptr, i, pg.seq, slotGen w, slotNode w, pg.chain, e.cause⟩] }
        | none =>
          if q.openGen = some (slotGen w) && need (q.len + slotNode w) then .ok { g with toks := g.toks ++ [tok (q.len + slotNode w)] } else .ok g
      else .ok g) (.ok g0)

/-- Where the page that a SRC or a NEXT names stands: none after the last; OPERAND where it names no page of the device, or a row in a cache
way (10 R297, R298; 11 R320). -/
def State.chainPlace (s : State) (col p : Nat) : Except Nat (Option PagePlace) :=
  if p = noPage then .ok none
  else
    match pagePlace col p with
    | none => .error daOperand
    | some (.off _) => .error daOperand
    | some pl => if (s.rowArea (col * 8) p 256).isSome then .ok (some pl) else .error daOperand

/-- The first error of a page outside the data of its provisional slots: the page is read whole (10 R305, R306; 11 R345). -/
def State.pageFault (s : State) (col : Nat) (pg : Page) : Option DvErr :=
  if (s.pageErr col pg.ptr 0 65536 false).isNone then none
  else
    let n := pg.d * fmtBytes pg.fmt
    let soft := (pg.slots.zipIdx.filter (fun p => slotState p.1 = 2)).flatMap (fun p =>
      [keyOff pg.d pg.fmt p.2, valOff pg.d pg.ptok pg.fmt p.2])
    (List.range 2048).findSome? (fun b =>
      if soft.any (fun o => o < 32 * b + 32 && 32 * b < o + n) then none else s.pageErr col pg.ptr (32 * b) 32 false)

/-- CHAIN mode: the pages of a Stacks chain from SRC on. -/
def State.gatherChain (s : State) (col : Nat) (d : Row) (need : Nat → Bool) : Nat → Nat → Nat → Gathered → Except Nat Gathered
  | 0, _, _, g => .ok g
  | fuel + 1, k, p, g =>
    match s.chainPlace col p with
    | .error e => .error e
    | .ok none => .ok g
    | .ok (some pl) =>
      match s.pageErr col p 0 768 false with
      | some e => .error (e.code daRange)
      | none =>
        let pg := s.loadPage col p
        if pg.d ≠ dDim d || pg.fmt ≠ dFmt d || !pg.wellFormed (s.pageRead col p 0 256) then .error daOperand
        else
          match s.pageFault col pg, s.pageToks col d pg need g with
          | some e, _ => .error (e.code daRange)
          | none, .error e => .error e
          | none, .ok g =>
            let g := match pl with
              | .dv x =>
                if (s.pageErr col p 0 65536 false).isSome then g
                else { g with pages := g.pages ++ [(k, x, s.pageRead col p 0 65536)] }
              | _ => g
            s.gatherChain col d need fuel (k + 1) pg.next g

/-- A page lands in its buffer: page k in buffer k mod 5 (10 R305). -/
def State.landPage (s : State) (core : Nat) (d : Row) (p : Nat × Nat × List Byte) : State :=
  match s.rowPointer core (dPfx d) with
  | some r =>
    (s.countDv (colOf core) p.2.1 p.2.2.length).writeEngine core r (p.1 % 5 * dPageRows d * 256)
      (padTo (dPageRows d * 256) p.2.2)
  | none => s

/-- Each deferred fault that a card met reaches the Stacks as a report (11 R345). -/
def State.sendReports (s : State) (l : List FaultNote) : State :=
  l.foldl (fun s p =>
    let w := s.freshSlack
    w.2.eventAt (s.wall + 1 + w.1) .faultReport
      { addr := p.page, index := p.slot, seq := p.seq, gen := p.gen, node := p.node, chain := p.chain, value := p.cause,
        count := s.wall + 1 }) s

/-! ### Scores and the online softmax (10 R307, R308) -/

/-- ⌈x⌉ of an exact value. -/
def Exact.ceil (x : Exact) : Int :=
  let p : Int := pow2 (-x.e)
  let m : Int := if x.neg then -(x.m : Int) else x.m
  if 0 ≤ x.e then m * (pow2 x.e : Int) else (m + (p - 1)) / p

/-- 2^u rounded to f32, for an exact u (10 R308). -/
def exp2r (u : Exact) : Nat :=
  if u.neg && 200 < -(u.ceil) then 0 else rneF32 u.exp2

/-- x·2^f rounded to f32 (10 R308). -/
def scale2 (x : Nat) (f : Int) : Nat :=
  match f32F.value x with
  | .fin e =>
    if e.m = 0 || e.e + Nat.log2 e.m + f < -200 then f32F.signBit e.neg
    else rneF32 { e with e := e.e + f, lam := none }
  | v => (f32F.finish .rne (v, 0)).1

/-- The scaled score: none for NaN, else the score and whether it was clamped (10 R307). -/
def scoreOf (scale : Nat) (q k : List Nat) : Option (Exact × Bool) :=
  let dot := (tree addF32 (List.zipWith mulF32 q k)).getD 0
  let lim : Exact := intExact (2 ^ 24) 0
  match f32F.value (mulF32 dot scale) with
  | .nan => none
  | .inf neg => some ({ lim with neg := neg }, true)
  | .fin e => if lim.lt { e with neg := false } then some ({ lim with neg := e.neg }, true) else some (e, false)

/-- The state of one query: M, l and acc. -/
structure QState where
  m : Int
  l : Nat
  acc : List Nat
deriving DecidableEq, Repr

/-- The empty state's M (10 R308). -/
def emptyM : Int := -(2 ^ 31)

/-- The running state of query `q` of a slot of head dimension `d`. -/
def DaSlot.query (v : DaSlot) (d q : Nat) : QState :=
  ⟨FMap.get emptyM v.m q, FMap.get 0 v.l q, FMap.slice 0 v.acc (q * d) d⟩

/-- Replace the running state of a query. -/
def DaSlot.setQuery (v : DaSlot) (d q : Nat) (x : QState) : DaSlot :=
  { v with m := FMap.set emptyM v.m q x.m, l := FMap.set 0 v.l q x.l, acc := FMap.splice 0 v.acc (q * d) x.acc }

/-- Bring a query's sums to a new reference. -/
def QState.scaled (x : QState) (mn : Int) : QState :=
  ⟨mn, scale2 x.l (x.m - mn), x.acc.map (fun a => scale2 a (x.m - mn))⟩

/-- One query's step over a card's leaves (10 R308): each leaf holds its score and value, none when not present. -/
def QState.step (x : QState) (leaves : List (Option (Exact × List Nat))) : QState :=
  match leaves.filterMap (fun o => o) with
  | [] => x
  | p :: rest =>
    let mc := rest.foldl (fun (m : Int) y => max m y.1.ceil) p.1.ceil
    let mn := max x.m mc
    let ws := leaves.map (fun o => o.map (fun y => (exp2r (y.1.add (intExact (-mn) 0)), y.2)))
    let lc := (treeFold addF32 64 (ws.map (fun o => o.map (fun y => y.1)))).getD 0
    let ac (j : Nat) : Nat :=
      (treeFold addF32 64 (ws.map (fun o => o.map (fun y => mulF32 y.1 (y.2[j]?.getD 0))))).getD 0
    let old := x.scaled mn
    ⟨mn, addF32 old.l lc, (List.range old.acc.length).map (fun j => addF32 (old.acc[j]?.getD 0) (ac j))⟩

/-- keep(n, g) of the tree mask (10 R311). -/
def DaSlot.keeps (v : DaSlot) (n g : Nat) : Bool :=
  g < v.plen || (g < v.plen + 64 && bitOf (leAt v.image (8 * n) 8) (g - v.plen))

/-- Whether a token is present for node `n` of a QSTEP, NaN scores apart (10 R302). -/
def DaSlot.present (v : DaSlot) (first count : Nat) (tree : Bool) (n g : Nat) : Bool :=
  first ≤ g && g < first + count && g < dTlen v.desc && (!tree || v.keeps n g)

/-- The outputs of a FINAL card (10 R309): acc / l rounded once to OUTFMT, zeros where l = 0. -/
def DaSlot.outputs (v : DaSlot) : List Byte × Bool :=
  let d := dDim v.desc
  let f := if dOut v.desc = 0x08 then f32F else bf16F
  let one (x : QState) (a : Nat) : Nat :=
    match f32F.value x.l, f32F.value a with
    | .fin l, .fin n =>
      if l.m = 0 then 0
      else if n.m = 0 then f.signBit (n.neg != l.neg)
      else
        let r := ratio (n.neg != l.neg) n.m l.m
        (convertFloat f false .rne (.fin { r with e := r.e + n.e - l.e })).1
    | .fin l, .inf neg => if l.m = 0 then 0 else (convertFloat f false .rne (.inf (neg != l.neg))).1
    | .fin l, .nan => if l.m = 0 then 0 else f.nanBits
    | .inf neg, .fin n => f.signBit (n.neg != neg)
    | _, _ => f.nanBits
  let qs := (List.range (dNq v.desc)).map (fun q => v.query d q)
  (qs.flatMap (fun x => x.acc.flatMap (fun a => leBytes (f.width / 8) (one x a))),
   qs.any (fun x => x.l % 2 ^ 31 = 0))

/-- The outcome of a card on its slot: the state and the slot, or a code. -/
abbrev DaResult := Except Nat (State × DaSlot)

/-- FIRST, COUNT and TREE of a QSTEP. -/
def qFirst (c : JobCard) : Nat := c.operand.toNat % 2 ^ 24
def qCount (c : JobCard) : Nat := c.operand.toNat / 2 ^ 24 % 2 ^ 24
def qTree (c : JobCard) : Bool := bitOf c.operand.toNat 49

/-- The tokens that a QSTEP may need, and whether some query needs one (10 R302). -/
def qRange (c : JobCard) (v : DaSlot) : List Nat := List.range' (qFirst c) (min (qCount c) (dTlen v.desc - qFirst c))
def qNeeds (c : JobCard) (v : DaSlot) (g : Nat) : Bool :=
  (List.range (dNodes v.desc)).any (fun n => v.present (qFirst c) (qCount c) (qTree c) n g)

/-- What a QSTEP gathers. -/
def State.qGather (s : State) (c : JobCard) (v : DaSlot) : Except Nat Gathered :=
  let d := v.desc
  match dMode d with
  | 0 => s.gatherRows c.core d ((qRange c v).filter (qNeeds c v))
  | 1 => s.gatherTable c.col c.core d ((qRange c v).filter (qNeeds c v))
  | _ => if qCount c = 0 then .ok {} else s.gatherChain c.col d (qNeeds c v) maxPages 0 (dSrc d) {}

/-- A QSTEP (10 R302 to R309). -/
def doQstep (s : State) (c : JobCard) (v : DaSlot) : DaResult :=
  let x := c.operand.toNat
  let first := qFirst c; let count := qCount c
  let final := bitOf x 48; let tree := qTree c
  let d := v.desc; let dim := dDim d
  if x / 2 ^ 50 ≠ 0 || 2 ^ 24 < first + count then .error daOperand
  else
    let range := qRange c v
    match s.qGather c v with
    | .error e => .error e
    | .ok g =>
      let kv := range.map (fun t => (t, (g.toks.find? (fun k => k.pos = t)).map (fun k =>
        (f32Of (dFmt d) k.key, f32Of (dFmt d) k.val))))
      let leaf (q : Nat) (p : Nat × Option (List Nat × List Nat)) : Option (Option (Exact × Bool) × List Nat) :=
        if v.present first count tree (q / dHeads d) p.1 then
          p.2.map (fun y => (scoreOf (dScale d) ((v.queries.drop (q * dim)).take dim) y.1, y.2))
        else none
      let leaves := (List.range (dNq d)).map (fun q => kv.map (leaf q))
      let seen := (List.range kv.length).filter (fun i =>
        leaves.any (fun l => match l[i]? with | some (some (some _, _)) => true | _ => false))
      let nan := leaves.any (fun l => l.any (fun o => match o with | some (none, _) => true | _ => false))
      let big := leaves.any (fun l => l.any (fun o => match o with | some (some (_, b), _) => b | _ => false))
      let v1 := (List.range (dNq d)).foldl (fun v q =>
        v.setQuery dim q ((v.query dim q).step
          ((leaves[q]?.getD []).map (fun o => o.bind (fun y => y.1.map (fun z => (z.1, y.2))))))) v
      let v1 := { v1 with
        status := orStatus (addTokens v1.status seen.length) ((if nan then 2 ^ 8 else 0) + (if big then 2 ^ 9 else 0)),
        pages := (g.pages.map (·.1)).drop (g.pages.length - 5),
        nextPage := match g.pages.getLast? with | some p => p.1 + 1 | none => v1.nextPage }
      let s := s.sendReports g.reports
      if !final then .ok (s, v1)
      else
        let out := v1.outputs
        let n := ceilDiv out.1.length 256
        match s.rowArea c.core (dOptr d) n with
        | none => .error daOperand
        | some r =>
          .ok (s.writeEngine c.core r 0 (padTo (n * 256) out.1),
               { v1 with status := orStatus v1.status (if out.2 then 2 ^ 10 else 0) })

/-- Bytes that a bound slot adds to a colonnade record: 8 per query element and 8 per query (15 R430). -/
def stateBytes (d : Row) : Nat := 8 * (dNq d * dDim d) + 8 * dNq d

/-- QBIND of slot `n0`: the descriptor and the queries are read, the slot's state is empty (10 R314); on a lent colonnade the bound
slots' states stay within 131,072 bytes (15 R434). -/
def doQbind (s : State) (c : JobCard) (n0 : Nat) : DaSlot :=
  let p := c.operand.toNat
  let d := if inRows p then
      (s.rowPointer c.core p).bind (fun r => s.readEngine c.core r 0 256)
    else none
  match d with
  | none => { status := daOperand }
  | some d =>
    let others := (List.range 16).foldl (fun n i =>
      let v := s.slot c.col i
      if v.bound && i ≠ n0 then n + stateBytes v.desc else n) 0
    if !s.descOk c.core d || ((s.col c.col).lentTo.isSome && 131072 < others + stateBytes d) then { status := daOperand }
    else
      match s.rowPointer c.core (dQptr d) with
      | none => { status := daOperand }
      | some r =>
        { bound := true, desc := d,
          queries := f32Of 0x08 ((s.readEngine c.core r 0 (4 * dNq d * dDim d)).getD []) }

/-- The rows written at a card's completion. -/
def DaSlot.outRows (v : DaSlot) : Nat := ceilDiv (dNq v.desc * dDim v.desc * (if dOut v.desc = 0x08 then 4 else 2)) 256

/-- QMASK: PLEN and the tree image (10 R310). -/
def doQmask (s : State) (c : JobCard) (v : DaSlot) : DaResult :=
  let x := c.operand.toNat
  let p := x / 2 ^ 60 * 2 ^ 60 + x % 2 ^ 13
  if x / 2 ^ 48 % 2 ^ 12 ≠ 0 || x / 2 ^ 13 % 2 ^ 11 ≠ 0 || !inRows p then .error daOperand
  else
    match s.rowArea c.core p 2 with
    | none => .error daOperand
    | some r => .ok (s, { v with plen := x / 2 ^ 24 % 2 ^ 24, image := (s.readEngine c.core r 0 512).getD [] })

/-- The rows of a state image (10 R312). -/
def imageRows (nq d : Nat) : Nat := 1 + ceilDiv nq 32 + ceilDiv (nq * d) 64

/-- A slot's state image (10 R312). -/
def DaSlot.stateImage (v : DaSlot) : List Byte :=
  let d := dDim v.desc; let nq := dNq v.desc
  let qs := (List.range nq).map (fun q => v.query d q)
  padTo 256 (leBytes 8 v.status ++ leBytes 2 d ++ leBytes 2 (dHeads v.desc) ++ leBytes 2 (dNodes v.desc)) ++
    padTo (ceilDiv nq 32 * 256) (qs.flatMap (fun x => leBytes 4 (wrapInt 32 x.m) ++ leBytes 4 x.l)) ++
    padTo (ceilDiv (nq * d) 64 * 256) (qs.flatMap (fun x => x.acc.flatMap (leBytes 4)))

/-- QSTATE: the image, its header row last, or for dv its first burst released last, after the colonnade's dirty lines of the image are
written back (10 R312; 04 R117). -/
def doQstate (s : State) (c : JobCard) (v : DaSlot) : DaResult :=
  let d := v.stateImage
  match s.rowArea c.core c.operand.toNat (d.length / 256) with
  | none => .error daOperand
  | some (.row r) =>
    let s := s.writeEngine c.core (.row r) 256 (d.drop 256)
    .ok (s.writeEngine c.core (.row r) 0 (d.take 256), v)
  | some (.dv x) =>
    match s.dvErr c.col x d.length true with
    | some e => .error (e.code daRange)
    | none =>
      let s := s.flushRegions c.col [(10, x / 256, d.length / 256)]
      let s := s.storeAt c.col (.dv x) 32 (d.drop 32)
      .ok (s.storeAt c.col (.dv x) 0 (d.take 32), v)

/-- The second state of a merge: shape, status word and queries. -/
structure MergeY where
  dim : Nat
  heads : Nat
  nodes : Nat
  status : Nat
  qs : List QState
deriving DecidableEq, Repr

/-- Read the second state of a merge (10 R313): a slot of the engine, or an image. -/
def State.mergeY (s : State) (c : JobCard) (v : DaSlot) : Except Nat MergeY :=
  let x := c.operand.toNat
  if x / 2 ^ 60 = 15 then
    if x % 2 ^ 60 / 16 ≠ 0 then .error daOperand
    else
      let y := s.slot c.col (x % 16)
      if !y.bound then .error daUnbound
      else .ok ⟨dDim y.desc, dHeads y.desc, dNodes y.desc, y.status,
        (List.range (dNq y.desc)).map (fun q => y.query (dDim y.desc) q)⟩
  else
    let d := dDim v.desc; let nq := dNq v.desc
    match s.rowPointer c.core x with
    | none => .error daOperand
    | some r =>
      match s.fetch c.col r 0 32 with
      | .error e => .error (e.code daRange)
      | .ok h =>
        if leAt h 8 2 ≠ d || leAt h 10 2 ≠ dHeads v.desc || leAt h 12 2 ≠ dNodes v.desc then
          .ok ⟨leAt h 8 2, leAt h 10 2, leAt h 12 2, leAt h 0 8, []⟩
        else if !allZero (((s.fetch c.col r 0 256).toOption.getD []).drop 14) then .error daOperand
        else
          match s.rowArea c.core x (imageRows nq d) with
          | none => .error daOperand
          | some r =>
            match s.fetch c.col r 0 (imageRows nq d * 256) with
            | .error e => .error (e.code daRange)
            | .ok bs =>
              let accAt := (1 + ceilDiv nq 32) * 256
              .ok ⟨d, dHeads v.desc, dNodes v.desc, leAt h 0 8, (List.range nq).map (fun q =>
                ⟨signedOf 32 (leAt bs (256 + 8 * q) 4), leAt bs (260 + 8 * q) 4,
                 (List.range d).map (fun j => leAt bs (accAt + 4 * (q * d + j)) 4)⟩)⟩

/-- Combine two states of a query (10 R313). -/
def QState.merge (x y : QState) : QState :=
  if y.l % 2 ^ 31 = 0 && y.m = emptyM then x
  else
    let mn := max x.m y.m
    let a := x.scaled mn; let b := y.scaled mn
    ⟨mn, addF32 a.l b.l, List.zipWith addF32 a.acc b.acc⟩

/-- QMERGE (10 R313): a dv image is acquired, so the colonnade's clean lines of it are dropped (04 R118). -/
def doQmerge (s : State) (c : JobCard) (v : DaSlot) : DaResult :=
  let d := dDim v.desc
  let x := c.operand.toNat
  let s := if x / 2 ^ 60 = 10 then s.dropClean c.col [(10, x % 2 ^ 52 / 256, imageRows (dNq v.desc) d)] else s
  match s.mergeY c v with
  | .error e => .error e
  | .ok y =>
    if y.dim ≠ d || y.heads ≠ dHeads v.desc || y.nodes ≠ dNodes v.desc then .error daShape
    else
      let v1 := (List.range (dNq v.desc)).foldl (fun v q =>
        match y.qs[q]? with
        | some z => v.setQuery d q ((v.query d q).merge z)
        | none => v) v
      .ok (s, { v1 with status := orStatus (addTokens v1.status (y.status / 2 ^ 16)) (y.status / 2 ^ 8 % 8 * 2 ^ 8) })

/-- QCHAIN: a new SRC, page numbering from 0; the prefetcher starts on pages 0 to 3 (10 R314). -/
def doQchain (s : State) (c : JobCard) (n : Nat) (v : DaSlot) : DaResult :=
  let src := c.operand.toNat
  if !s.srcOk c.core v.desc src then .error daOperand
  else
    let d := patchBytes v.desc 16 (leBytes 8 src)
    let v := { v with desc := d, pages := [], nextPage := 0 }
    let w := s.freshSlack
    .ok (if dMode d = 0 then s
         else w.2.eventAt (s.wall + 1 + w.1) .decodeAttentionCardCompletion
           { flag := true, core := c.core, col := c.col, index := n, addr := src, value := s.wall + 1 }, v)

/-- The page of a number that the prefetcher of a slot may fetch: it has a place in device memory and can be read (10 R304 to R306). -/
def State.prefetched (s : State) (col core : Nat) (d : Row) (k : Nat) : Option (Nat × Nat × List Byte) :=
  if dMode d = 1 then
    match s.gatherTable col core d [k * 2 ^ dPtok d] with
    | .ok g => g.pages.head?
    | .error _ => none
  else
    match (s.chainPages col (k + 1) (dSrc d))[k]? with
    | some p =>
      if tierOf p = 1 && (s.pageErr col p 0 65536 false).isNone then some (k, p % 2 ^ 52, s.pageRead col p 0 65536) else none
    | none => none

/-- The row of the block table that holds the entry of a page (10 R304). -/
def State.tableRow (s : State) (core : Nat) (d : Row) (k : Nat) : List Nat :=
  if dMode d = 1 then areaRows ((s.areaAt core (dSrc d) 1).map (fun a => match a.place with
    | .row r => { a with place := .row { r with addr := r.addr + 4 * k }, n := 4 }
    | .dv _ => a))
  else []

/-- A page lands no faster than two rows a cycle, which the engine does for one card or slot after the other (10 R295, R315). -/
def State.chargePage (s : State) (col : Nat) (d : Row) : State :=
  s.modCol col (fun c => { c with attnBusy := max s.wall c.attnBusy + ceilDiv (dPageRows d) 2 })

/-- The prefetcher's own step after a QCHAIN: the slot's next page of pages 0 to 3 lands once reserved slots have served it, unless a card has
gone on with the slot since; a hole, a page in the blocks or one that cannot be read is passed over (10 R304 to R306, R314). -/
def execPrefetch (s : State) : Host.Outcome State Fault Refusal :=
  let e := s.ev
  let v := s.slot e.col e.index
  let d := v.desc
  let key := eventKey (max 1 e.value)
  let again (s : State) (wall : Nat) (a : EvArgs) : State := s.eventAt wall .decodeAttentionCardCompletion a
  let s0 := (s.asRead e.run).beginWork key (max 1 e.value)
  let next (s : State) (pages : List Nat) : State :=
    let w := (s.setSlot e.col e.index { v with pages := pages, nextPage := e.count + 1 }).freshSlack
    again w.2 (s.wall + 1 + w.1) { e with count := e.count + 1, value := s.wall + 1, lines := [], run := none }
  if !v.bound || dSrc d ≠ e.addr || v.nextPage ≠ e.count || 4 ≤ e.count then .next s
  else if s.wall < (s.col e.col).attnBusy then .next (again s (s.col e.col).attnBusy e)
  else
    match s0.prefetched e.col e.core d e.count with
    | none =>
      let more : Bool := if dMode d = 2 then (s.chainPages e.col (e.count + 1) (dSrc d))[e.count]?.isSome else true
      .next (if more then next s v.pages else s)
    | some p =>
      s.viaPort key (max 1 e.value) true (s0.tableRow e.core d e.count) (s0.portUnits e.col p.2.1 p.2.2.length)
        (fun s => .next (next ((s.landPage e.core d p).chargePage e.col d) (v.pages ++ [e.count]))) ⟨.decodeAttentionCardCompletion, e⟩

/-! ### The cards and their completion -/

/-- The slot a card names. -/
def slotNo (c : JobCard) : Nat :=
  match c.op with
  | .qbind _ n => n.val | .qstep _ n => n.val | .qmask _ n => n.val
  | .qmerge _ n => n.val | .qstate _ n => n.val | .qchain _ n => n.val
  | _ => 0

/-- The rows and pages that a QSTEP reads (10 R304, R305). -/
def State.stepAreas (s : State) (c : JobCard) (v : DaSlot) : List Area :=
  let d := v.desc
  let n := dDim d * fmtBytes (dFmt d)
  let need := (qRange c v).filter (qNeeds c v)
  match need, dMode d with
  | [], 0 => []
  | [], 1 => []
  | g :: rest, 0 =>
    let at_ (g : Nat) : Nat := g / 2 ^ dPtok d * dPage d + g % 2 ^ dPtok d * n
    let last := (rest.getLast?).getD g
    (s.areaAt c.core (dSrc d) 1).map (fun a => match a.place with
      | .row r => { a with place := .row { r with addr := r.addr + at_ g }, n := at_ last + 2 ^ dPtok d * n + n - at_ g }
      | .dv _ => a)
  | g :: rest, 1 =>
    let pages := ((g :: rest).map (· / 2 ^ dPtok d)).eraseDups
    (s.areaAt c.core (dSrc d) 1).flatMap (fun a => match a.place with
      | .row r =>
        pages.flatMap (fun p =>
          let e := leNat (s.portBytes (r.addr + 4 * p) 4)
          let row : Area := { a with place := .row { r with addr := r.addr + 4 * p }, n := 4 }
          if e = 0xFFFFFFFF then [row] else [row, ⟨c.col, .dv (dPbase d + 65536 * e), dPage d⟩])
      | .dv _ => [])
  | _, _ => if qCount c = 0 then [] else (s.chainPages c.col maxPages (dSrc d)).flatMap (fun p => pageArea c.col p 0 65536)

/-- What a card reads of a Stacks page in the blocks, a block table or rows where they stand; the pages of device memory come before
(`fetchPages`). -/
def State.attnAreas (s : State) (c : JobCard) : List Area :=
  let v := s.slot c.col (slotNo c)
  let x := c.operand.toNat
  match c.op with
  | .qbind _ _ =>
    s.areaAt c.core x 256 ++ (match (s.rowPointer c.core x).bind (fun r => s.readEngine c.core r 0 256) with
      | some d => if s.descOk c.core d then s.areaAt c.core (dQptr d) (4 * dNq d * dDim d) else []
      | none => [])
  | .qmask _ _ => s.areaAt c.core (x / 2 ^ 60 * 2 ^ 60 + x % 2 ^ 13) 512
  | .qmerge _ _ => if v.bound then s.areaAt c.core x (imageRows (dNq v.desc) (dDim v.desc) * 256) else []
  | .qstep _ _ => if v.bound then (s.stepAreas c v).filter (fun a => match a.place with | .row _ => true | .dv _ => false) else []
  | _ => []

/-- The device memory of the pages that a QSTEP reads. -/
def State.pageAreas (s : State) (c : JobCard) : List Area :=
  let v := s.slot c.col (slotNo c)
  match c.op with
  | .qstep _ _ => if v.bound then s.stepAreas c v else []
  | _ => []

/-- What a card writes in device memory. -/
def State.attnDests (s : State) (c : JobCard) : List Area :=
  match c.op with
  | .qstate _ _ => s.areaAt c.core c.operand.toNat (s.slot c.col (slotNo c)).stateImage.length
  | _ => []

/-- The rows that a card writes at its completion. -/
def State.attnWrites (s : State) (c : JobCard) : Nat :=
  let v := s.slot c.col (slotNo c)
  match c.op with
  | .qstep _ _ => if v.bound && bitOf c.operand.toNat 48 then v.outRows else 0
  | .qstate _ _ => if v.bound then imageRows (dNq v.desc) (dDim v.desc) else 0
  | _ => 0

/-- The cycles that a card's work takes at least: two rows read and two written a cycle, and 4,096/D pairs of a query and a key scored (10
R295, R315). -/
def State.attnLeast (s : State) (c : JobCard) : Nat :=
  let v := s.slot c.col (slotNo c)
  let pairs : Nat := match c.op with
    | .qstep _ _ =>
      if !v.bound then 0
      else match s.qGather c v with
        | .ok g => ((List.range (dNodes v.desc)).map (fun n =>
            g.toks.countP (fun t => v.present (qFirst c) (qCount c) (qTree c) n t.pos))).foldl (· + ·) 0 * dHeads v.desc
        | .error _ => 0
    | _ => 0
  max (max (ceilDiv (areaRows (s.attnAreas c)).length 2) (ceilDiv (pairs * dDim v.desc) 4096)) (ceilDiv (s.attnWrites c) 2)

/-- The wall cycle before which a card's work is not done: the figures bound the engine as a whole, so the work of one card comes after that
of the cards reckoned before it (10 R295, R315; 01 R462). -/
def State.attnDue (s : State) (c : JobCard) : Nat :=
  if c.due ≠ 0 then c.due else max c.started (s.col c.col).attnBusy + s.attnLeast c

/-- A card's effect on its slot, whole (10 R299, R314): a failing card only records its code. -/
def State.attend (s : State) (c : JobCard) : State :=
  let n := slotNo c
  let v := s.slot c.col n
  let take (r : DaResult) : State :=
    if !v.bound then s.setSlot c.col n (v.fail daUnbound)
    else match r with
      | .ok p => p.1.setSlot c.col n p.2
      | .error e =>
        let s := s.setSlot c.col n (v.fail e)
        if e = daRange + 1 then s.tellAbsent c.inst (s.attnAreas c ++ s.pageAreas c ++ s.attnDests c) else s
  match c.op with
  | .qbind _ _ => s.setSlot c.col n (doQbind s c n)
  | .qstep _ _ => take (doQstep s c v)
  | .qmask _ _ => take (doQmask s c v)
  | .qmerge _ _ => take (doQmerge s c v)
  | .qstate _ _ => take (doQstate s c v)
  | .qchain _ _ => take (doQchain s c n v)
  | _ => s

def execQbind (c : Card) (slot : Fin 16) (s : State) : Host.Outcome State Fault Refusal :=
  sendCard .decode c (.qbind c slot) s
def execQstep (c : Card) (slot : Fin 16) (s : State) : Host.Outcome State Fault Refusal :=
  sendCard .decode c (.qstep c slot) s
def execQmask (c : Card) (slot : Fin 16) (s : State) : Host.Outcome State Fault Refusal :=
  sendCard .decode c (.qmask c slot) s
def execQmerge (c : Card) (slot : Fin 16) (s : State) : Host.Outcome State Fault Refusal :=
  sendCard .decode c (.qmerge c slot) s
def execQstate (c : Card) (slot : Fin 16) (s : State) : Host.Outcome State Fault Refusal :=
  sendCard .decode c (.qstate c slot) s
def execQchain (c : Card) (slot : Fin 16) (s : State) : Host.Outcome State Fault Refusal :=
  sendCard .decode c (.qchain c slot) s

/-- The pages of device memory that a QSTEP reads, in their order: number, address, bytes (10 R304). -/
def State.stepPages (s : State) (c : JobCard) : List (Nat × Nat × List Byte) :=
  let v := s.slot c.col (slotNo c)
  match c.op with
  | .qstep _ _ => if !v.bound || dMode v.desc = 0 then [] else match s.qGather c v with | .ok g => g.pages | .error _ => []
  | _ => []

/-- The next page of a running QSTEP, which is not yet in the prefetch area: the prefetcher fetches it and the four after it, and it lands in
its buffer once its access units have been reached (10 R305); none when every page has landed. A page that the prefetcher has fetched since a
QCHAIN is there already (10 R296). -/
def State.fetchPages (s : State) (c : JobCard) : Option (Host.Outcome State Fault Refusal) :=
  let q := s.ev.q
  let v := s.slot c.col (slotNo c); let d := v.desc
  let s0 := (s.asRead c.run).beginWork c.workKey c.claimed
  let pages := s0.stepPages c
  let ahead := (pages.drop c.pages).take 5
  let units (p : Nat × Nat × List Byte) : List PortUnit := s0.portUnits c.col p.2.1 p.2.2.length
  match ahead with
  | [] => none
  | p :: _ =>
    let landed (s : State) : State :=
      (s.modQueue q (fun u => { u with running := some { c with pages := c.pages + 1, free := [], run := none } })).eventAt (s.wall + 1)
        .decodeAttentionCardCompletion s.ev
    if v.pages.contains p.1 then some (.next (landed s))
    else if s.wall < (s.col c.col).attnBusy then some (.next (s.eventAt (s.col c.col).attnBusy .decodeAttentionCardCompletion s.ev))
    else
      some (match (s.askUnits c.workKey true (ahead.flatMap units)).tryPort c.workKey c.claimed true c.free c.run (s0.tableRow c.core d p.1)
          (units p) (fun s => .next (landed ((s.landPage c.core d p).chargePage c.col d))) with
        | .done t => .next t
        | .wait t n free run => .next (t.againCard c free run n)
        | .stop r => r)

/-- DECODE_ATTENTION_CARD_COMPLETION (10 R299): the card applies whole and signals on this cycle, once its pages have come and no earlier than
the engine's work allows; with `flag`, the prefetcher goes on by itself. -/
def execDecodeAttentionCardCompletion (s : State) : Host.Outcome State Fault Refusal :=
  let q := s.ev.q
  if s.ev.flag then execPrefetch s
  else
    match s.runningCard.bind (fun c => if (s.placeOf c.inst c.logical).isNone then none else s.fetchPages c) with
    | some r => r
    | none =>
      s.withCard State.attnAreas (fun s c =>
        let due := s.attnDue c
        if s.wall < due then
          .next (((s.modQueue q (fun u => { u with running := some { c with due := due } })).modCol c.col (fun x =>
            { x with attnBusy := max x.attnBusy due })).eventAt due .decodeAttentionCardCompletion s.ev)
        else .next ((s.attend c).finishCard q c 0))

end Sys2Proof.Machine
end

