-- ==== Sys2Proof/Decode.lean ====
section
/-! DEFINITION. The encodings of R50 to R63 and of the engine chapters, both ways. A decoder that is total on any words
and rejects by name, and after it the encoder written from the same tables. Slot words and literals are read as
numbers; a field [hi:lo] of x is (x / 2^lo) % 2^(hi-lo+1). -/

namespace Sys2Proof

/-- Why a word is rejected; each raises the trap that `Reject.unreachable?` tells, at its bundle (02 R63, R64). -/
inductive Reject where
  /-- the bundle's words run past word 65,535 or the input ends (02 R60) -/
  | truncated
  /-- header bits [23:20], or P without S (02 R51) -/
  | header
  /-- an opcode marked reserved or above its map (02 R63) -/
  | reservedOpcode
  /-- H = 1 where it is forbidden (02 R56) -/
  | hold
  /-- a required-zero bit of the slot word is set (02 R63) -/
  | reservedBits
  /-- a required-zero bit of the literal is set (02 R63) -/
  | reservedLiteralBits
  /-- a code that the field's table does not list (02 R59, 05 R133, R140, R141) -/
  | code
  /-- a SUB the instruction does not list (11 R333, 12 R354, 13 R394, 14 R406) -/
  | sub
  /-- an operand outside the range its instruction gives -/
  | operand
  /-- an inst value that names no engine: UNREACHABLE (02 R61) -/
  | inst
deriving DecidableEq, Repr

/-- Field [hi:lo] of a word. -/
def fld (x lo width : Nat) : Nat := x / 2 ^ lo % 2 ^ width

/-- A number as an index below a bound, by its remainder. -/
def idx (n : Nat) (x : Nat) : Fin (n + 1) := ⟨x % (n + 1), Nat.mod_lt _ (Nat.succ_pos n)⟩

/-- A flag bit. -/
def flag (x lo : Nat) : Bool := x / 2 ^ lo % 2 = 1

/-- A Bool as a bit. -/
def bit (b : Bool) : Nat := if b then 1 else 0

/-- The register form (02 R58). -/
def rArgs (x : Nat) : RArgs :=
  { d := idx 63 (fld x 14 6), a := idx 63 (fld x 8 6), b := idx 63 (fld x 2 6), sz := Sz.ofCode (fld x 0 2) }

/-- The vector form (02 R58). -/
def vArgs (x : Nat) : VArgs :=
  { vd := idx 31 (fld x 15 5), va := idx 31 (fld x 10 5), vb := idx 31 (fld x 5 5), ty := VType.ofCode (fld x 2 3),
    mode := idx 3 (fld x 0 2) }

/-- The operands of an atomic (06 R175). -/
def atArgs (x l : Nat) : AtArgs :=
  { handle := idx 31 (fld x 11 5), off := idx 2047 (fld x 0 11), byte := idx 255 (fld l 0 8),
    d := idx 63 (fld l 22 6), a := idx 63 (fld l 10 6), b := idx 63 (fld l 16 6), sz := Sz.ofCode (fld l 8 2) }

/-- The masks of a job card's literal, with its queue and operand register. -/
def cardOf (queue a l : Nat) : Card :=
  { queue := queue, a := idx 63 a, wait := BitVec.ofNat 16 (fld l 16 16), signal := BitVec.ofNat 16 (fld l 0 16) }

/-- A job card whose slot word has QUEUE [15:14] and a [13:8] (10 R297, 11, 13, 14, 15). -/
def cardK (x l : Nat) : Card := cardOf (fld x 14 2) (fld x 8 6) l

/-- A sampling card: QUEUE [15:13], a [5:0] (12 R352). -/
def cardG (x l : Nat) : Card := cardOf (fld x 13 3) (fld x 0 6) l

/-- Sequencer space (02 R63). -/
def decodeC (op x l : Nat) : Except Reject Instr :=
  match op with
  | 0x00 => .ok .nop
  | 0x01 => .ok (.rept (idx 4095 (fld x 8 12)) (idx 31 (fld l 10 5)) (idx 31 (fld l 5 5)) (idx 31 (fld l 0 5)))
  | 0x02 =>
    .ok (.repts (idx 63 (fld x 2 6)) (idx 4095 (fld x 8 12)) (idx 31 (fld l 10 5)) (idx 31 (fld l 5 5))
      (idx 31 (fld l 0 5)))
  | 0x03 => .ok .align
  | 0x04 => .ok .halt
  | 0x05 => .ok (.trap (BitVec.ofNat 20 (fld x 0 20)))
  | 0x06 => .ok .rett
  | 0x07 => .ok (.krd (idx 63 (fld x 14 6)) (BitVec.ofNat 12 (fld x 0 12)))
  | 0x08 => .ok (.kwr (idx 63 (fld x 14 6)) (BitVec.ofNat 12 (fld x 0 12)))
  | 0x09 => .ok (.icinv (idx 63 (fld x 8 6)) (idx 63 (fld x 2 6)))
  | 0x0A => .ok .fetchb
  | 0x10 => .ok (.add (rArgs x))
  | 0x11 => .ok (.sub (rArgs x))
  | 0x12 => .ok (.mul (rArgs x))
  | 0x13 => .ok (.mulh (rArgs x))
  | 0x14 => .ok (.div (rArgs x))
  | 0x15 => .ok (.divn (rArgs x))
  | 0x16 => .ok (.rem (rArgs x))
  | 0x17 => .ok (.remn (rArgs x))
  | 0x18 => .ok (.and (rArgs x))
  | 0x19 => .ok (.or (rArgs x))
  | 0x1A => .ok (.xor (rArgs x))
  | 0x1B => .ok (.shl (rArgs x))
  | 0x1C => .ok (.shr (rArgs x))
  | 0x1D => .ok (.sar (rArgs x))
  | 0x1E => .ok (.min (rArgs x))
  | 0x1F => .ok (.max (rArgs x))
  | 0x20 => .ok (.minn (rArgs x))
  | 0x21 => .ok (.maxn (rArgs x))
  | 0x22 => .ok (.clz (idx 63 (fld x 14 6)) (idx 63 (fld x 8 6)) (Sz.ofCode (fld x 0 2)))
  | 0x23 => .ok (.ffs (idx 63 (fld x 14 6)) (idx 63 (fld x 8 6)) (Sz.ofCode (fld x 0 2)))
  | 0x24 => .ok (.popc (idx 63 (fld x 14 6)) (idx 63 (fld x 8 6)) (Sz.ofCode (fld x 0 2)))
  | 0x25 => .ok (.sel (rArgs x))
  | 0x26 => .ok (.mov (idx 63 (fld x 14 6)) (idx 63 (fld x 8 6)) (Sz.ofCode (fld x 0 2)))
  | 0x28 => .ok (.addi (idx 63 (fld x 14 6)) (BitVec.ofNat 14 (fld x 0 14)))
  | 0x29 => .ok (.andi (idx 63 (fld x 14 6)) (BitVec.ofNat 14 (fld x 0 14)))
  | 0x2A => .ok (.ori (idx 63 (fld x 14 6)) (BitVec.ofNat 14 (fld x 0 14)))
  | 0x2B => .ok (.xori (idx 63 (fld x 14 6)) (BitVec.ofNat 14 (fld x 0 14)))
  | 0x2C => .ok (.shli (idx 63 (fld x 14 6)) (BitVec.ofNat 14 (fld x 0 14)))
  | 0x2D => .ok (.shri (idx 63 (fld x 14 6)) (BitVec.ofNat 14 (fld x 0 14)))
  | 0x2E => .ok (.sari (idx 63 (fld x 14 6)) (BitVec.ofNat 14 (fld x 0 14)))
  | 0x2F => .ok (.movi (idx 63 (fld x 14 6)) (BitVec.ofNat 14 (fld x 0 14)))
  | 0x30 => .ok (.lit (idx 63 (fld x 14 6)) (BitVec.ofNat 32 l))
  | 0x31 => .ok (.lith (idx 63 (fld x 14 6)) (BitVec.ofNat 32 l))
  | 0x34 =>
    match Cond.ofCode (fld x 14 3) with
    | some c => .ok (.cmp (idx 7 (fld x 17 3)) c (idx 63 (fld x 8 6)) (idx 63 (fld x 2 6)))
    | none => .error .code
  | 0x35 =>
    match Cond.ofCode (fld x 14 3) with
    | some c => .ok (.cmpi (idx 7 (fld x 17 3)) c (idx 63 (fld x 8 6)) (BitVec.ofNat 32 l))
    | none => .error .code
  | 0x36 =>
    match PlogOp.ofCode (fld x 14 3) with
    | some c => .ok (.plog (idx 7 (fld x 17 3)) c (idx 7 (fld x 8 3)) (idx 7 (fld x 2 3)))
    | none => .error .code
  | 0x38 => .ok (.hmake (idx 31 (fld x 15 5)) (idx 63 (fld x 4 6)))
  | 0x39 =>
    match HField.ofCode (fld x 0 4) with
    | some f => .ok (.hset (idx 31 (fld x 15 5)) (idx 63 (fld x 4 6)) f)
    | none => .error .code
  | 0x3A =>
    match HField.ofCode (fld x 0 4) with
    | some f => .ok (.hget (idx 31 (fld x 10 5)) (idx 63 (fld x 4 6)) f)
    | none => .error .code
  | 0x3B => .ok (.hadv (idx 31 (fld x 15 5)) (idx 31 (fld x 10 5)) (idx 63 (fld x 4 6)) (flag x 0))
  | 0x3C => .ok (.hmov (idx 31 (fld x 15 5)) (idx 31 (fld x 10 5)))
  | 0x3D => .ok (.htag (idx 31 (fld x 15 5)) (idx 31 (fld x 10 5)) (idx 63 (fld x 4 6)))
  | 0x40 => .ok (.sld (rArgs x))
  | 0x41 => .ok (.sst (idx 63 (fld x 14 6)) (idx 63 (fld x 8 6)) (idx 63 (fld x 2 6)))
  | 0x44 => .ok (.br (BitVec.ofNat 20 (fld x 0 20)))
  | 0x45 => .ok (.jmp (idx 63 (fld x 8 6)))
  | 0x46 => .ok (.call (BitVec.ofNat 20 (fld x 0 20)))
  | 0x47 => .ok .ret
  | 0x48 => .ok .frag
  | 0x49 => .ok (.loop (idx 63 (fld x 14 6)) (BitVec.ofNat 14 (fld x 0 14)))
  | 0x4C => .ok (.rwfil (idx 63 (fld x 14 6)) (BitVec.ofNat 14 (fld x 0 14)))
  | 0x4D => .ok (.rwfre (idx 63 (fld x 14 6)) (BitVec.ofNat 14 (fld x 0 14)))
  | 0x4E => .ok (.waitev (idx 63 (fld x 14 6)) (idx 127 (fld x 7 7)) (BitVec.ofNat 32 l))
  | 0x4F =>
    if flag x 13 then
      .ok (.sigevRemote (idx 15 (fld x 9 4)) (idx 31 (fld x 4 5)) (BitVec.ofNat 8 (fld l 0 8)))
    else .ok (.sigev (BitVec.ofNat 8 (fld l 0 8)))
  | 0x50 =>
    match fld x 12 2 with
    | 0 => .ok (.evarmRoute (idx 127 (fld l 0 7)) (idx 127 (fld l 8 7)) (flag l 16))
    | 1 => .ok (.evarmWindow (idx 15 (fld l 0 4)) (idx 15 (fld l 4 4)) (idx 127 (fld l 8 7)))
    | 2 => .ok (.evarmCount (idx 127 (fld l 0 7)) (BitVec.ofNat 8 (fld l 8 8)) (flag l 16))
    | _ => .error .code
  | _ => .error .reservedOpcode

/-- The queue field of the stream form. -/
def queueOf (x : Nat) (k : QueueId → Instr) : Except Reject Instr :=
  match QueueId.ofCode (fld x 16 4) with
  | some q => .ok (k q)
  | none => .error .code

/-- Stream space (02 R63, 06 R175). -/
def decodeT (op x l : Nat) : Except Reject Instr :=
  match op with
  | 0x00 => .ok .nop
  | 0x01 => queueOf x (fun q => .ldq q (idx 31 (fld x 11 5)) (idx 2047 (fld x 0 11)))
  | 0x02 => queueOf x (fun q => .ldqs q (idx 31 (fld x 11 5)) (idx 2047 (fld x 0 11)))
  | 0x03 => queueOf x (fun q => .stq q (idx 31 (fld x 11 5)) (idx 2047 (fld x 0 11)))
  | 0x04 => queueOf x (fun q => .stqs q (idx 31 (fld x 11 5)) (idx 2047 (fld x 0 11)))
  | 0x05 => .ok (.copy (idx 31 (fld x 11 5)) (idx 2047 (fld x 0 11)))
  | 0x06 => .ok (.tcopy (idx 31 (fld l 16 5)) (idx 31 (fld x 11 5)) (idx 4095 (fld l 0 12)))
  | 0x07 => queueOf x (fun q => .gather q (idx 31 (fld x 11 5)) (idx 2047 (fld x 0 11)) (BitVec.ofNat 32 l))
  | 0x08 => queueOf x (fun q => .scatter q (idx 31 (fld x 11 5)) (idx 2047 (fld x 0 11)) (BitVec.ofNat 32 l))
  | 0x09 =>
    queueOf x (fun q => .rmerge q (idx 31 (fld x 11 5)) (idx 2047 (fld x 0 11)) (BitVec.ofNat 8 (fld l 0 8)))
  | 0x0A => .ok (.planes (idx 31 (fld l 16 5)) (idx 31 (fld x 11 5)) (flag l 21))
  | 0x0B => .ok (.unplane (idx 31 (fld l 16 5)) (idx 31 (fld x 11 5)))
  | 0x10 =>
    if flag l 16 then queueOf x (fun q => .lputQ q (BitVec.ofNat 8 (fld l 8 8)) (idx 15 (fld l 0 4)))
    else .ok (.lput (idx 31 (fld x 11 5)) (idx 2047 (fld x 0 11)) (BitVec.ofNat 8 (fld l 8 8)) (idx 15 (fld l 0 4)))
  | 0x11 =>
    if flag l 16 then .ok (.ltapRow (idx 31 (fld x 11 5)) (idx 2047 (fld x 0 11)) (flag l 17) (idx 15 (fld l 0 4)))
    else queueOf x (fun q => .ltap q (flag l 17) (idx 15 (fld l 0 4)))
  | 0x14 => .ok (.tcpf (idx 31 (fld x 11 5)) (idx 2047 (fld x 0 11)))
  | 0x15 => .ok (.tcwb (idx 31 (fld x 11 5)) (idx 2047 (fld x 0 11)))
  | 0x16 => .ok (.tcinv (idx 31 (fld x 11 5)) (idx 2047 (fld x 0 11)))
  | 0x17 => .ok (.tcresize (BitVec.ofNat 16 (fld l 16 16)) (idx 7 (fld l 0 3)))
  | 0x18 =>
    .ok (.rinit (idx 63 (fld x 14 6)) (idx 31 (fld x 9 5)) (idx 8191 (fld l 0 13)) (idx 8191 (fld l 16 13)))
  | 0x19 => .ok (.rclaim (idx 63 (fld x 14 6)) (idx 31 (fld x 9 5)) (idx 511 (fld x 0 9)))
  | 0x1A => .ok (.rpush (idx 63 (fld x 14 6)) (idx 31 (fld x 9 5)) (idx 511 (fld x 0 9)))
  | 0x1B => .ok (.rpop (idx 63 (fld x 14 6)) (idx 31 (fld x 9 5)) (idx 511 (fld x 0 9)))
  | 0x1C => .ok (.rstat (idx 63 (fld x 14 6)) (idx 31 (fld x 9 5)))
  | 0x20 => .ok (.atadd (atArgs x l))
  | 0x21 => .ok (.atmin (atArgs x l))
  | 0x22 => .ok (.atmax (atArgs x l))
  | 0x23 => .ok (.atxch (atArgs x l))
  | 0x24 => .ok (.atcas (atArgs x l))
  | 0x25 => .ok (.ator (atArgs x l))
  | 0x26 => .ok (.atradd (atArgs x l))
  | 0x28 => .ok (.bind (idx 31 (fld x 11 5)) (idx 31 (fld x 6 5)))
  | 0x29 => .ok (.acq (idx 31 (fld x 11 5)) (idx 63 (fld x 5 6)) (Sz.ofCode (fld x 3 2)) (idx 7 (fld x 0 3)))
  | 0x2A => .ok (.rel (idx 31 (fld x 11 5)) (idx 63 (fld x 5 6)) (Sz.ofCode (fld x 3 2)) (idx 7 (fld x 0 3)))
  | 0x2B => .ok (.qfence (flag l 12) (BitVec.ofNat 8 (fld l 4 8)) (idx 15 (fld l 0 4)))
  | 0x2C => .ok (.seqtag (idx 31 (fld x 11 5)) (idx 2047 (fld x 0 11)))
  | _ => .error .reservedOpcode

/-- Matrix space (02 R63, 07 R208). -/
def decodeM (op x l : Nat) : Except Reject Instr :=
  match op with
  | 0x00 => .ok .nop
  | 0x01 => .ok (.mcfg (idx 7 (fld x 12 3)) (BitVec.ofNat 32 l))
  | 0x02 => .ok (.mcfgi (idx 7 (fld x 12 3)) (idx 4095 (fld x 0 12)))
  | 0x03 => .ok .mswap
  | 0x04 => .ok (.mgo (flag x 0))
  | 0x05 => .ok (.mrel (idx 31 (fld x 15 5)))
  | 0x06 => .ok (.mclr (idx 31 (fld x 15 5)))
  | 0x07 => .ok (.mdrain (idx 31 (fld x 15 5)) (idx 31 (fld x 10 5)) (idx 3 (fld x 8 2)) (idx 3 (fld x 6 2)))
  | 0x08 => .ok (.mepi (BitVec.ofNat 32 l))
  | 0x09 =>
    match fld x 13 2 with
    | 0 => .ok (.mheapReset (idx 63 (fld x 6 6)) (idx 63 (fld x 0 6)))
    | 1 => .ok .mheapDrain
    | 2 => .ok .mheapDrainr
    | _ => .error .code
  | 0x0A => if l = 0 then .ok .mconstOff else .ok (.mconst (BitVec.ofNat 32 l))
  | 0x0B =>
    match fld x 12 3 with
    | 0 => .ok (.mmaskCausal (BitVec.ofNat 16 (fld l 0 16)))
    | 1 => .ok (.mmaskWindow (BitVec.ofNat 16 (fld l 0 16)) (BitVec.ofNat 16 (fld l 16 16)))
    | 2 => .ok (.mmaskTree (idx 31 (fld x 7 5)) (BitVec.ofNat 32 l))
    | 3 => .ok .mmaskNone
    | _ => .error .code
  | 0x0C => .ok (.mscale (idx 31 (fld x 15 5)) (BitVec.ofNat 15 (fld x 0 15)))
  | 0x0D => if l = 0 then .ok .mcoopOff else .ok (.mcoop (BitVec.ofNat 32 l))
  | _ => .error .reservedOpcode

/-- Vector space (02 R63, 08 R235). -/
def decodeV (op x l : Nat) : Except Reject Instr :=
  match op with
  | 0x00 => .ok .nop
  | 0x01 => .ok (.vadd (vArgs x))
  | 0x02 => .ok (.vsub (vArgs x))
  | 0x03 => .ok (.vmul (vArgs x))
  | 0x04 => .ok (.vmac (vArgs x))
  | 0x05 => .ok (.vfma (vArgs x))
  | 0x06 => .ok (.vmin (vArgs x))
  | 0x07 => .ok (.vmax (vArgs x))
  | 0x08 => .ok (.vabs (vArgs x))
  | 0x09 => .ok (.vneg (vArgs x))
  | 0x0A => .ok (.vand (vArgs x))
  | 0x0B => .ok (.vor (vArgs x))
  | 0x0C => .ok (.vxor (vArgs x))
  | 0x0D => .ok (.vnot (vArgs x))
  | 0x0E => .ok (.vshl (vArgs x))
  | 0x0F => .ok (.vshr (vArgs x))
  | 0x10 => .ok (.vsar (vArgs x))
  | 0x11 => .ok (.vrshr (vArgs x))
  | 0x12 => .ok (.vsat (vArgs x))
  | 0x13 => .ok (.vclz (vArgs x))
  | 0x14 => .ok (.vffs (vArgs x))
  | 0x15 => .ok (.vpopc (vArgs x))
  | 0x16 => .ok (.vcmp (vArgs x))
  | 0x17 => .ok (.vsel (vArgs x))
  | 0x18 => .ok (.vcvt (vArgs x))
  | 0x19 => .ok (.vsrnd (vArgs x))
  | 0x1A => .ok (.vrand (vArgs x))
  | 0x1B => .ok (.viota (vArgs x))
  | 0x1C => .ok (.vmov (vArgs x))
  | 0x1D => .ok (.vimm (vArgs x) (BitVec.ofNat 32 l))
  | 0x1E => .ok (.vmulh (vArgs x))
  | 0x20 => .ok (.vrotr (vArgs x))
  | 0x21 => .ok (.vrotc (vArgs x))
  | 0x22 => .ok (.vbcr (vArgs x))
  | 0x23 => .ok (.vbcc (vArgs x))
  | 0x24 => .ok (.vredr (vArgs x))
  | 0x25 => .ok (.vredc (vArgs x))
  | 0x26 => .ok (.vscanr (vArgs x))
  | 0x27 => .ok (.vscanc (vArgs x))
  | 0x28 => .ok (.vshfr (vArgs x))
  | 0x29 => .ok (.vtrn (vArgs x))
  | 0x30 => .ok (.vpop (vArgs x))
  | 0x31 => .ok (.vpush (vArgs x))
  | 0x32 => .ok (.vrdacc (vArgs x))
  | 0x33 => .ok (.vwracc (vArgs x))
  | 0x38 => .ok (.vsfn (vArgs x))
  | 0x39 => .ok (.vcoef (vArgs x) (BitVec.ofNat 32 l))
  | _ => .error .reservedOpcode

/-- A row operand from its SPACE and ROW fields (09 R268). -/
def rowRef (space row : Nat) : RowRef := { space := idx 15 space, row := idx 8191 row }

/-- A card whose SUB field picks the instruction among those listed. -/
def pickSub (sub : Nat) (cases : List Instr) : Except Reject Instr :=
  match cases[sub]? with
  | some i => .ok i
  | none => .error .sub

/-- A sampling card on instance 0 or 1; any other inst is UNREACHABLE (12 R352), after the SUB check. -/
def pickInst (inst sub : Nat) (cases : Fin 2 → List Instr) : Except Reject Instr :=
  match pickSub sub (cases (idx 1 inst)) with
  | .error e => .error e
  | .ok i => if inst < 2 then .ok i else .error .inst

/-- A link card on port 1 to 3; any other port is UNREACHABLE (14 R406), after the SUB check. -/
def pickPort (port sub : Nat) (cases : Fin 4 → List Instr) : Except Reject Instr :=
  match pickSub sub (cases (idx 3 port)) with
  | .error e => .error e
  | .ok i => if 1 ≤ port ∧ port ≤ 3 then .ok i else .error .inst

/-- External space (02 R63; 09 R268; 10 R297; 11 R332; 12 R354; 13 R394; 14 R406; 15 R439). -/
def decodeX (op x l : Nat) : Except Reject Instr :=
  match op with
  | 0x00 => .ok (.nopX (BitVec.ofNat 32 l))
  | 0x01 => .ok (.dact (idx 15 (fld x 16 4)) (idx 63 (fld x 10 6)) (BitVec.ofNat 10 (fld l 13 10)))
  | 0x02 =>
    .ok (.drd (idx 15 (fld x 16 4)) (idx 63 (fld x 10 6)) (BitVec.ofNat 10 (fld l 13 10))
      (rowRef (fld x 6 4) (fld l 0 13)) (flag l 23) (BitVec.ofNat 8 (fld l 24 8)))
  | 0x03 =>
    .ok (.dwr (idx 15 (fld x 16 4)) (idx 63 (fld x 10 6)) (BitVec.ofNat 10 (fld l 13 10))
      (rowRef (fld x 6 4) (fld l 0 13)) (flag l 23) (BitVec.ofNat 8 (fld l 24 8)))
  | 0x04 => .ok (.dpre (idx 15 (fld x 16 4)) (idx 15 (fld x 0 4)))
  | 0x05 => .ok (.dprea (idx 15 (fld x 16 4)))
  | 0x06 => .ok (.dref (idx 15 (fld x 16 4)))
  | 0x07 => .ok (.drefb (idx 15 (fld x 16 4)) (idx 15 (fld x 0 4)))
  | 0x08 => .ok (.dmrw (idx 15 (fld x 16 4)) (BitVec.ofNat 8 (fld x 0 8)) (BitVec.ofNat 8 (fld l 0 8)))
  | 0x09 =>
    .ok (.dmrr (idx 15 (fld x 16 4)) (BitVec.ofNat 8 (fld x 8 8)) (rowRef (fld x 4 4) (fld l 0 13))
      (BitVec.ofNat 8 (fld l 24 8)))
  | 0x0A => if flag x 0 then .ok (.dzqLatch (idx 15 (fld x 16 4))) else .ok (.dzqStart (idx 15 (fld x 16 4)))
  | 0x0B => if flag x 0 then .ok (.dsrefExit (idx 15 (fld x 16 4))) else .ok (.dsrefEnter (idx 15 (fld x 16 4)))
  | 0x0C =>
    .ok (.dtlb (idx 15 (fld x 16 4)) (idx 1023 (fld x 6 10)) (idx 63 (fld x 0 6)) (idx 4095 (fld l 0 12)))
  | 0x0D =>
    .ok (.dtlbq (idx 15 (fld x 16 4)) (idx 1023 (fld x 6 10)) (rowRef (fld x 2 4) (fld l 0 13))
      (BitVec.ofNat 8 (fld l 24 8)))
  | 0x0E => .ok (.dpfs (idx 15 (fld x 16 4)) (BitVec.ofNat 16 (fld x 0 16)))
  | 0x10 => .ok (.qbind (cardK x l) (idx 15 (fld x 0 4)))
  | 0x11 => .ok (.qstep (cardK x l) (idx 15 (fld x 0 4)))
  | 0x12 => .ok (.qmask (cardK x l) (idx 15 (fld x 0 4)))
  | 0x13 => .ok (.qmerge (cardK x l) (idx 15 (fld x 0 4)))
  | 0x14 => .ok (.qstate (cardK x l) (idx 15 (fld x 0 4)))
  | 0x15 => .ok (.qchain (cardK x l) (idx 15 (fld x 0 4)))
  | 0x18 => pickSub (fld x 0 8) [.knew (cardK x l), .knewSeq (cardK x l)]
  | 0x19 => pickSub (fld x 0 8) [.kput (cardK x l)]
  | 0x1A => pickSub (fld x 0 8) [.ktree (cardK x l)]
  | 0x1B => pickSub (fld x 0 8) [.kcommit (cardK x l)]
  | 0x1C => pickSub (fld x 0 8) [.ksquash (cardK x l), .ksquashSeq (cardK x l)]
  | 0x1D => pickSub (fld x 0 8) [.kfork (cardK x l)]
  | 0x1E => pickSub (fld x 0 8) [.kpin (cardK x l)]
  | 0x1F => pickSub (fld x 0 8) [.kslide (cardK x l)]
  | 0x20 => pickSub (fld x 0 8) [.kdemote (cardK x l) .dv, .kdemote (cardK x l) .host, .kdemote (cardK x l) .pe1, .kdemote (cardK x l) .pe2, .kdemote (cardK x l) .pe3]
  | 0x21 => pickSub (fld x 0 8) [.kpromote (cardK x l) .cb, .kpromote (cardK x l) .dv]
  | 0x22 => pickSub (fld x 0 8) [.kfeat (cardK x l) false, .kfeat (cardK x l) true, .kfeatRd (cardK x l) false, .kfeatRd (cardK x l) true]
  | 0x23 => pickSub (fld x 0 8) [.kfroll (cardK x l)]
  | 0x24 => pickSub (fld x 0 8) [.kquery (cardK x l), .kqueryHeads (cardK x l)]
  | 0x25 => pickSub (fld x 0 8) [.kreq (cardK x l)]
  | 0x28 => pickInst (fld x 16 4) (fld x 10 3) (fun i => [.gseedSeq i (cardG x l), .gseedObj i (cardG x l)])
  | 0x29 => pickInst (fld x 16 4) (fld x 10 3) (fun i => [.gsoft i (cardG x l), .gsoftTopk i (cardG x l)])
  | 0x2A => pickInst (fld x 16 4) (fld x 10 3) (fun i => [.gcdf i (cardG x l)])
  | 0x2B => pickInst (fld x 16 4) (fld x 10 3) (fun i => [.gpick i (cardG x l), .gpickTopk i (cardG x l)])
  | 0x2C => pickInst (fld x 16 4) (fld x 10 3) (fun i => [.gaccept i (cardG x l), .gacceptGreedy i (cardG x l)])
  | 0x2D => pickInst (fld x 16 4) (fld x 10 3) (fun i => [.gresid i (cardG x l)])
  | 0x2E => pickInst (fld x 16 4) (fld x 10 3) (fun i => [.gnext i (cardG x l)])
  | 0x2F => pickInst (fld x 16 4) (fld x 10 3) (fun i => [.gparamAssume i (cardG x l), .gparamClear i (cardG x l)])
  | 0x30 => pickInst (fld x 16 4) (fld x 10 3) (fun i => [.gpub i (cardG x l)])
  | 0x31 => pickInst (fld x 16 4) (fld x 10 3) (fun i => [.gstat i (cardG x l), .gstatClr i (cardG x l)])
  | 0x38 => pickSub (fld x 0 8) [.wtime (cardK x l), .wtimePort (cardK x l)]
  | 0x39 => pickSub (fld x 0 8) [.wtick (cardK x l), .wtickOff (cardK x l)]
  | 0x3A => pickSub (fld x 0 8) [.wflow (cardK x l), .wflowOff (cardK x l)]
  | 0x3B => pickSub (fld x 0 8) [.wbind (cardK x l), .wbindOff (cardK x l)]
  | 0x3C => pickSub (fld x 0 8) [.wlate (cardK x l)]
  | 0x3D => pickSub (fld x 0 8) [.wdead (cardK x l), .wdeadOff (cardK x l)]
  | 0x3E => pickSub (fld x 0 8) [.wstat (cardK x l), .wstatClr (cardK x l)]
  | 0x40 => pickPort (fld x 16 4) (fld x 0 8) (fun p => [.nsend p (cardK x l)])
  | 0x41 =>
    pickPort (fld x 16 4) 0 (fun p => [.nrecv p (cardK x l) (idx 3 (fld x 6 2)) (idx 63 (fld x 0 6))])
  | 0x42 => pickPort (fld x 16 4) (fld x 0 8) (fun p => [.nred p (cardK x l), .nredArrival p (cardK x l)])
  | 0x43 => pickPort (fld x 16 4) (fld x 0 8) (fun p => [.nbar p (cardK x l)])
  | 0x44 => pickPort (fld x 16 4) (fld x 0 8) (fun p => [.nmode p (cardK x l)])
  | 0x45 => pickPort (fld x 16 4) (fld x 0 8) (fun p => [.nstat p (cardK x l), .nstatClr p (cardK x l)])
  | 0x48 => .ok (.ftrig (cardK x l))
  | 0x49 => .ok (.fckpt (cardK x l))
  | 0x4A => .ok (.flend (cardK x l))
  | 0x4B => .ok (.frecl (cardK x l))
  | 0x4C => .ok (.fpost (cardK x l))
  | _ => .error .reservedOpcode

/-- Whether an opcode takes a literal word (column L of the opcode maps, 02 R63). -/
def takesLiteral (sp : Space) (op : Nat) : Bool :=
  match sp with
  | .c => op = 0x01 || op = 0x02 || op = 0x30 || op = 0x31 || op = 0x35 || (0x4E ≤ op && op ≤ 0x50)
  | .t =>
    (0x06 ≤ op && op ≤ 0x0B) || op = 0x10 || op = 0x11 || op = 0x17 || op = 0x18 || (0x20 ≤ op && op ≤ 0x26) ||
      op = 0x2B
  | .m => op = 0x01 || op = 0x08 || op = 0x0A || op = 0x0B || op = 0x0D
  | .v => op = 0x1D || op = 0x39
  | .x => true

/-! ### The encoder -/

/-- The encoding of a slot instruction: its space, opcode, operand bits [19:0] and literal (0 where none). -/
structure Enc where
  space : Space
  op : Nat
  x : Nat
  lit : Nat
deriving DecidableEq, Repr

/-- Operand bits of the register form (02 R58). -/
def encR (r : RArgs) : Nat := r.d.val * 2 ^ 14 + r.a.val * 2 ^ 8 + r.b.val * 2 ^ 2 + r.sz.code

/-- Operand bits of the register form with one source. -/
def encU (d a : SReg) (sz : Sz) : Nat := d.val * 2 ^ 14 + a.val * 2 ^ 8 + sz.code

/-- Operand bits of the immediate form. -/
def encI (d : Fin 64) (imm : BitVec 14) : Nat := d.val * 2 ^ 14 + imm.toNat

/-- Operand bits of the predicate form. -/
def encP (pd cond a b : Nat) : Nat := pd * 2 ^ 17 + cond * 2 ^ 14 + a * 2 ^ 8 + b * 2 ^ 2

/-- Operand bits of the handle form. -/
def encH (hd ha s field : Nat) : Nat := hd * 2 ^ 15 + ha * 2 ^ 10 + s * 2 ^ 4 + field

/-- Operand bits of the stream form. -/
def encS (q h row : Nat) : Nat := q * 2 ^ 16 + h * 2 ^ 11 + row

/-- Operand bits of the ring form. -/
def encG (g h n : Nat) : Nat := g * 2 ^ 14 + h * 2 ^ 9 + n

/-- Operand bits of the vector form. -/
def encV (v : VArgs) : Nat :=
  v.vd.val * 2 ^ 15 + v.va.val * 2 ^ 10 + v.vb.val * 2 ^ 5 + v.ty.code * 2 ^ 2 + v.mode.val

/-- The literal of an atomic. -/
def encAtLit (a : AtArgs) : Nat :=
  a.d.val * 2 ^ 22 + a.b.val * 2 ^ 16 + a.a.val * 2 ^ 10 + a.sz.code * 2 ^ 8 + a.byte.val

/-- The literal of a job card. -/
def Card.lit (c : Card) : Nat := c.wait.toNat * 2 ^ 16 + c.signal.toNat

/-- Operand bits of a job card with QUEUE [15:14] and a [13:8]. -/
def Card.encK (c : Card) (inst low : Nat) : Nat := inst * 2 ^ 16 + c.queue * 2 ^ 14 + c.a.val * 2 ^ 8 + low

/-- Operand bits of a sampling card. -/
def Card.encG (c : Card) (inst : Fin 2) (sub : Nat) : Nat :=
  inst.val * 2 ^ 16 + c.queue * 2 ^ 13 + sub * 2 ^ 10 + c.a.val

/-- The code of a page-copy destination (11 R332). -/
def DemoteTo.code : DemoteTo → Nat
  | .dv => 0 | .host => 1 | .pe1 => 2 | .pe2 => 3 | .pe3 => 4

/-- The code of a promotion destination. -/
def PromoteTo.code : PromoteTo → Nat
  | .cb => 0 | .dv => 1

/-- The literal of a repeat (02 R65). -/
def encStrides (svd sva svb : Fin 32) : Nat := svd.val * 2 ^ 10 + sva.val * 2 ^ 5 + svb.val

/-- The encoding of a slot instruction; none for the spacer and the device's own events. -/
def encode : Instr → Option Enc
  | .nop => some ⟨.c, 0, 0, 0⟩
  | .nopX l => some ⟨.x, 0, 0, l.toNat⟩
  | .rept n svd sva svb => some ⟨.c, 0x01, n.val * 2 ^ 8, encStrides svd sva svb⟩
  | .repts a n svd sva svb => some ⟨.c, 0x02, n.val * 2 ^ 8 + a.val * 2 ^ 2, encStrides svd sva svb⟩
  | .align => some ⟨.c, 0x03, 0, 0⟩
  | .halt => some ⟨.c, 0x04, 0, 0⟩
  | .trap c => some ⟨.c, 0x05, c.toNat, 0⟩
  | .rett => some ⟨.c, 0x06, 0, 0⟩
  | .krd d k => some ⟨.c, 0x07, d.val * 2 ^ 14 + k.toNat, 0⟩
  | .kwr a k => some ⟨.c, 0x08, a.val * 2 ^ 14 + k.toNat, 0⟩
  | .icinv a b => some ⟨.c, 0x09, a.val * 2 ^ 8 + b.val * 2 ^ 2, 0⟩
  | .fetchb => some ⟨.c, 0x0A, 0, 0⟩
  | .add r => some ⟨.c, 0x10, encR r, 0⟩
  | .sub r => some ⟨.c, 0x11, encR r, 0⟩
  | .mul r => some ⟨.c, 0x12, encR r, 0⟩
  | .mulh r => some ⟨.c, 0x13, encR r, 0⟩
  | .div r => some ⟨.c, 0x14, encR r, 0⟩
  | .divn r => some ⟨.c, 0x15, encR r, 0⟩
  | .rem r => some ⟨.c, 0x16, encR r, 0⟩
  | .remn r => some ⟨.c, 0x17, encR r, 0⟩
  | .and r => some ⟨.c, 0x18, encR r, 0⟩
  | .or r => some ⟨.c, 0x19, encR r, 0⟩
  | .xor r => some ⟨.c, 0x1A, encR r, 0⟩
  | .shl r => some ⟨.c, 0x1B, encR r, 0⟩
  | .shr r => some ⟨.c, 0x1C, encR r, 0⟩
  | .sar r => some ⟨.c, 0x1D, encR r, 0⟩
  | .min r => some ⟨.c, 0x1E, encR r, 0⟩
  | .max r => some ⟨.c, 0x1F, encR r, 0⟩
  | .minn r => some ⟨.c, 0x20, encR r, 0⟩
  | .maxn r => some ⟨.c, 0x21, encR r, 0⟩
  | .clz d a sz => some ⟨.c, 0x22, encU d a sz, 0⟩
  | .ffs d a sz => some ⟨.c, 0x23, encU d a sz, 0⟩
  | .popc d a sz => some ⟨.c, 0x24, encU d a sz, 0⟩
  | .sel r => some ⟨.c, 0x25, encR r, 0⟩
  | .mov d a sz => some ⟨.c, 0x26, encU d a sz, 0⟩
  | .addi d imm => some ⟨.c, 0x28, encI d imm, 0⟩
  | .andi d imm => some ⟨.c, 0x29, encI d imm, 0⟩
  | .ori d imm => some ⟨.c, 0x2A, encI d imm, 0⟩
  | .xori d imm => some ⟨.c, 0x2B, encI d imm, 0⟩
  | .shli d imm => some ⟨.c, 0x2C, encI d imm, 0⟩
  | .shri d imm => some ⟨.c, 0x2D, encI d imm, 0⟩
  | .sari d imm => some ⟨.c, 0x2E, encI d imm, 0⟩
  | .movi d imm => some ⟨.c, 0x2F, encI d imm, 0⟩
  | .lit d l => some ⟨.c, 0x30, encI d 0, l.toNat⟩
  | .lith d l => some ⟨.c, 0x31, encI d 0, l.toNat⟩
  | .cmp pd c a b => some ⟨.c, 0x34, encP pd.val c.code a.val b.val, 0⟩
  | .cmpi pd c a l => some ⟨.c, 0x35, encP pd.val c.code a.val 0, l.toNat⟩
  | .plog pd c pa pb => some ⟨.c, 0x36, encP pd.val c.code pa.val pb.val, 0⟩
  | .hmake hd a => some ⟨.c, 0x38, encH hd.val 0 a.val 0, 0⟩
  | .hset hd a f => some ⟨.c, 0x39, encH hd.val 0 a.val f.code, 0⟩
  | .hget ha d f => some ⟨.c, 0x3A, encH 0 ha.val d.val f.code, 0⟩
  | .hadv hd ha a t => some ⟨.c, 0x3B, encH hd.val ha.val a.val (bit t), 0⟩
  | .hmov hd ha => some ⟨.c, 0x3C, encH hd.val ha.val 0 0, 0⟩
  | .htag hd ha a => some ⟨.c, 0x3D, encH hd.val ha.val a.val 0, 0⟩
  | .sld r => some ⟨.c, 0x40, encR r, 0⟩
  | .sst d a b => some ⟨.c, 0x41, encR { d := d, a := a, b := b, sz := .w64 }, 0⟩
  | .br off => some ⟨.c, 0x44, off.toNat, 0⟩
  | .jmp a => some ⟨.c, 0x45, a.val * 2 ^ 8, 0⟩
  | .call off => some ⟨.c, 0x46, off.toNat, 0⟩
  | .ret => some ⟨.c, 0x47, 0, 0⟩
  | .frag => some ⟨.c, 0x48, 0, 0⟩
  | .loop a off => some ⟨.c, 0x49, encI a off, 0⟩
  | .rwfil g n => some ⟨.c, 0x4C, encI g n, 0⟩
  | .rwfre g n => some ⟨.c, 0x4D, encI g n, 0⟩
  | .waitev d base mask => some ⟨.c, 0x4E, d.val * 2 ^ 14 + base.val * 2 ^ 7, mask.toNat⟩
  | .sigev n => some ⟨.c, 0x4F, 0, n.toNat⟩
  | .sigevRemote col r n => some ⟨.c, 0x4F, 2 ^ 13 + col.val * 2 ^ 9 + r.val * 2 ^ 4, n.toNat⟩
  | .evarmRoute s line v => some ⟨.c, 0x50, 0, bit v * 2 ^ 16 + line.val * 2 ^ 8 + s.val⟩
  | .evarmWindow e q base => some ⟨.c, 0x50, 2 ^ 12, base.val * 2 ^ 8 + q.val * 2 ^ 4 + e.val⟩
  | .evarmCount line v c => some ⟨.c, 0x50, 2 * 2 ^ 12, bit c * 2 ^ 16 + v.toNat * 2 ^ 8 + line.val⟩
  | .ldq q h n => some ⟨.t, 0x01, encS q.code h.val n.val, 0⟩
  | .ldqs q h off => some ⟨.t, 0x02, encS q.code h.val off.val, 0⟩
  | .stq q h n => some ⟨.t, 0x03, encS q.code h.val n.val, 0⟩
  | .stqs q h off => some ⟨.t, 0x04, encS q.code h.val off.val, 0⟩
  | .copy hd n => some ⟨.t, 0x05, encS 0 hd.val n.val, 0⟩
  | .tcopy hd hs desc => some ⟨.t, 0x06, encS 0 hs.val 0, hd.val * 2 ^ 16 + desc.val⟩
  | .gather q h n b => some ⟨.t, 0x07, encS q.code h.val n.val, b.toNat⟩
  | .scatter q h n b => some ⟨.t, 0x08, encS q.code h.val n.val, b.toNat⟩
  | .rmerge q h n sh => some ⟨.t, 0x09, encS q.code h.val n.val, sh.toNat⟩
  | .planes hd hs tr => some ⟨.t, 0x0A, encS 0 hs.val 0, bit tr * 2 ^ 21 + hd.val * 2 ^ 16⟩
  | .unplane hd hs => some ⟨.t, 0x0B, encS 0 hs.val 0, hd.val * 2 ^ 16⟩
  | .lput h off tag lane => some ⟨.t, 0x10, encS 0 h.val off.val, tag.toNat * 2 ^ 8 + lane.val⟩
  | .lputQ q tag lane => some ⟨.t, 0x10, encS q.code 0 0, 2 ^ 16 + tag.toNat * 2 ^ 8 + lane.val⟩
  | .ltap q keep lane => some ⟨.t, 0x11, encS q.code 0 0, bit keep * 2 ^ 17 + lane.val⟩
  | .ltapRow h off keep lane => some ⟨.t, 0x11, encS 0 h.val off.val, bit keep * 2 ^ 17 + 2 ^ 16 + lane.val⟩
  | .tcpf h n => some ⟨.t, 0x14, encS 0 h.val n.val, 0⟩
  | .tcwb h n => some ⟨.t, 0x15, encS 0 h.val n.val, 0⟩
  | .tcinv h n => some ⟨.t, 0x16, encS 0 h.val n.val, 0⟩
  | .tcresize m j => some ⟨.t, 0x17, 0, m.toNat * 2 ^ 16 + j.val⟩
  | .rinit g h e th => some ⟨.t, 0x18, encG g.val h.val 0, th.val * 2 ^ 16 + e.val⟩
  | .rclaim g h n => some ⟨.t, 0x19, encG g.val h.val n.val, 0⟩
  | .rpush g h n => some ⟨.t, 0x1A, encG g.val h.val n.val, 0⟩
  | .rpop g h n => some ⟨.t, 0x1B, encG g.val h.val n.val, 0⟩
  | .rstat g h => some ⟨.t, 0x1C, encG g.val h.val 0, 0⟩
  | .atadd a => some ⟨.t, 0x20, encS 0 a.handle.val a.off.val, encAtLit a⟩
  | .atmin a => some ⟨.t, 0x21, encS 0 a.handle.val a.off.val, encAtLit a⟩
  | .atmax a => some ⟨.t, 0x22, encS 0 a.handle.val a.off.val, encAtLit a⟩
  | .atxch a => some ⟨.t, 0x23, encS 0 a.handle.val a.off.val, encAtLit a⟩
  | .atcas a => some ⟨.t, 0x24, encS 0 a.handle.val a.off.val, encAtLit a⟩
  | .ator a => some ⟨.t, 0x25, encS 0 a.handle.val a.off.val, encAtLit a⟩
  | .atradd a => some ⟨.t, 0x26, encS 0 a.handle.val a.off.val, encAtLit a⟩
  | .bind hr ho => some ⟨.t, 0x28, encS 0 hr.val (ho.val * 2 ^ 6), 0⟩
  | .acq h d sz i => some ⟨.t, 0x29, encS 0 h.val (d.val * 2 ^ 5 + sz.code * 2 ^ 3 + i.val), 0⟩
  | .rel h d sz i => some ⟨.t, 0x2A, encS 0 h.val (d.val * 2 ^ 5 + sz.code * 2 ^ 3 + i.val), 0⟩
  | .qfence all m e => some ⟨.t, 0x2B, 0, bit all * 2 ^ 12 + m.toNat * 2 ^ 4 + e.val⟩
  | .seqtag h n => some ⟨.t, 0x2C, encS 0 h.val n.val, 0⟩
  | .mcfg f l => some ⟨.m, 0x01, f.val * 2 ^ 12, l.toNat⟩
  | .mcfgi f n => some ⟨.m, 0x02, f.val * 2 ^ 12 + n.val, 0⟩
  | .mswap => some ⟨.m, 0x03, 0, 0⟩
  | .mgo clr => some ⟨.m, 0x04, bit clr, 0⟩
  | .mrel a => some ⟨.m, 0x05, a.val * 2 ^ 15, 0⟩
  | .mclr a => some ⟨.m, 0x06, a.val * 2 ^ 15, 0⟩
  | .mdrain a h q0 nq =>
    some ⟨.m, 0x07, a.val * 2 ^ 15 + h.val * 2 ^ 10 + q0.val * 2 ^ 8 + nq.val * 2 ^ 6, 0⟩
  | .mepi l => some ⟨.m, 0x08, 0, l.toNat⟩
  | .mheapReset k rows => some ⟨.m, 0x09, k.val * 2 ^ 6 + rows.val, 0⟩
  | .mheapDrain => some ⟨.m, 0x09, 2 ^ 13, 0⟩
  | .mheapDrainr => some ⟨.m, 0x09, 2 * 2 ^ 13, 0⟩
  | .mconst l => some ⟨.m, 0x0A, 0, l.toNat⟩
  | .mconstOff => some ⟨.m, 0x0A, 0, 0⟩
  | .mmaskCausal d => some ⟨.m, 0x0B, 0, d.toNat⟩
  | .mmaskWindow d w => some ⟨.m, 0x0B, 2 ^ 12, w.toNat * 2 ^ 16 + d.toNat⟩
  | .mmaskTree h p => some ⟨.m, 0x0B, 2 * 2 ^ 12 + h.val * 2 ^ 7, p.toNat⟩
  | .mmaskNone => some ⟨.m, 0x0B, 3 * 2 ^ 12, 0⟩
  | .mscale a e => some ⟨.m, 0x0C, a.val * 2 ^ 15 + e.toNat, 0⟩
  | .mcoop l => some ⟨.m, 0x0D, 0, l.toNat⟩
  | .mcoopOff => some ⟨.m, 0x0D, 0, 0⟩
  | .vadd v => some ⟨.v, 0x01, encV v, 0⟩
  | .vsub v => some ⟨.v, 0x02, encV v, 0⟩
  | .vmul v => some ⟨.v, 0x03, encV v, 0⟩
  | .vmac v => some ⟨.v, 0x04, encV v, 0⟩
  | .vfma v => some ⟨.v, 0x05, encV v, 0⟩
  | .vmin v => some ⟨.v, 0x06, encV v, 0⟩
  | .vmax v => some ⟨.v, 0x07, encV v, 0⟩
  | .vabs v => some ⟨.v, 0x08, encV v, 0⟩
  | .vneg v => some ⟨.v, 0x09, encV v, 0⟩
  | .vand v => some ⟨.v, 0x0A, encV v, 0⟩
  | .vor v => some ⟨.v, 0x0B, encV v, 0⟩
  | .vxor v => some ⟨.v, 0x0C, encV v, 0⟩
  | .vnot v => some ⟨.v, 0x0D, encV v, 0⟩
  | .vshl v => some ⟨.v, 0x0E, encV v, 0⟩
  | .vshr v => some ⟨.v, 0x0F, encV v, 0⟩
  | .vsar v => some ⟨.v, 0x10, encV v, 0⟩
  | .vrshr v => some ⟨.v, 0x11, encV v, 0⟩
  | .vsat v => some ⟨.v, 0x12, encV v, 0⟩
  | .vclz v => some ⟨.v, 0x13, encV v, 0⟩
  | .vffs v => some ⟨.v, 0x14, encV v, 0⟩
  | .vpopc v => some ⟨.v, 0x15, encV v, 0⟩
  | .vcmp v => some ⟨.v, 0x16, encV v, 0⟩
  | .vsel v => some ⟨.v, 0x17, encV v, 0⟩
  | .vcvt v => some ⟨.v, 0x18, encV v, 0⟩
  | .vsrnd v => some ⟨.v, 0x19, encV v, 0⟩
  | .vrand v => some ⟨.v, 0x1A, encV v, 0⟩
  | .viota v => some ⟨.v, 0x1B, encV v, 0⟩
  | .vmov v => some ⟨.v, 0x1C, encV v, 0⟩
  | .vmulh v => some ⟨.v, 0x1E, encV v, 0⟩
  | .vrotr v => some ⟨.v, 0x20, encV v, 0⟩
  | .vrotc v => some ⟨.v, 0x21, encV v, 0⟩
  | .vbcr v => some ⟨.v, 0x22, encV v, 0⟩
  | .vbcc v => some ⟨.v, 0x23, encV v, 0⟩
  | .vredr v => some ⟨.v, 0x24, encV v, 0⟩
  | .vredc v => some ⟨.v, 0x25, encV v, 0⟩
  | .vscanr v => some ⟨.v, 0x26, encV v, 0⟩
  | .vscanc v => some ⟨.v, 0x27, encV v, 0⟩
  | .vshfr v => some ⟨.v, 0x28, encV v, 0⟩
  | .vtrn v => some ⟨.v, 0x29, encV v, 0⟩
  | .vpop v => some ⟨.v, 0x30, encV v, 0⟩
  | .vpush v => some ⟨.v, 0x31, encV v, 0⟩
  | .vrdacc v => some ⟨.v, 0x32, encV v, 0⟩
  | .vwracc v => some ⟨.v, 0x33, encV v, 0⟩
  | .vsfn v => some ⟨.v, 0x38, encV v, 0⟩
  | .vimm v l => some ⟨.v, 0x1D, encV v, l.toNat⟩
  | .vcoef v l => some ⟨.v, 0x39, encV v, l.toNat⟩
  | .dact ch a off => some ⟨.x, 0x01, ch.val * 2 ^ 16 + a.val * 2 ^ 10, off.toNat * 2 ^ 13⟩
  | .drd ch a off r half tag =>
    some ⟨.x, 0x02, ch.val * 2 ^ 16 + a.val * 2 ^ 10 + r.space.val * 2 ^ 6,
      tag.toNat * 2 ^ 24 + bit half * 2 ^ 23 + off.toNat * 2 ^ 13 + r.row.val⟩
  | .dwr ch a off r half tag =>
    some ⟨.x, 0x03, ch.val * 2 ^ 16 + a.val * 2 ^ 10 + r.space.val * 2 ^ 6,
      tag.toNat * 2 ^ 24 + bit half * 2 ^ 23 + off.toNat * 2 ^ 13 + r.row.val⟩
  | .dpre ch bank => some ⟨.x, 0x04, ch.val * 2 ^ 16 + bank.val, 0⟩
  | .dprea ch => some ⟨.x, 0x05, ch.val * 2 ^ 16, 0⟩
  | .dref ch => some ⟨.x, 0x06, ch.val * 2 ^ 16, 0⟩
  | .drefb ch bank => some ⟨.x, 0x07, ch.val * 2 ^ 16 + bank.val, 0⟩
  | .dmrw ch mr v => some ⟨.x, 0x08, ch.val * 2 ^ 16 + mr.toNat, v.toNat⟩
  | .dmrr ch mr r tag =>
    some ⟨.x, 0x09, ch.val * 2 ^ 16 + mr.toNat * 2 ^ 8 + r.space.val * 2 ^ 4, tag.toNat * 2 ^ 24 + r.row.val⟩
  | .dzqStart ch => some ⟨.x, 0x0A, ch.val * 2 ^ 16, 0⟩
  | .dzqLatch ch => some ⟨.x, 0x0A, ch.val * 2 ^ 16 + 1, 0⟩
  | .dsrefEnter ch => some ⟨.x, 0x0B, ch.val * 2 ^ 16, 0⟩
  | .dsrefExit ch => some ⟨.x, 0x0B, ch.val * 2 ^ 16 + 1, 0⟩
  | .dtlb ch first n row => some ⟨.x, 0x0C, ch.val * 2 ^ 16 + first.val * 2 ^ 6 + n.val, row.val⟩
  | .dtlbq ch i r tag =>
    some ⟨.x, 0x0D, ch.val * 2 ^ 16 + i.val * 2 ^ 6 + r.space.val * 2 ^ 2, tag.toNat * 2 ^ 24 + r.row.val⟩
  | .dpfs ch m => some ⟨.x, 0x0E, ch.val * 2 ^ 16 + m.toNat, 0⟩
  | .qbind c slot => some ⟨.x, 0x10, c.encK 0 slot.val, c.lit⟩
  | .qstep c slot => some ⟨.x, 0x11, c.encK 0 slot.val, c.lit⟩
  | .qmask c slot => some ⟨.x, 0x12, c.encK 0 slot.val, c.lit⟩
  | .qmerge c slot => some ⟨.x, 0x13, c.encK 0 slot.val, c.lit⟩
  | .qstate c slot => some ⟨.x, 0x14, c.encK 0 slot.val, c.lit⟩
  | .qchain c slot => some ⟨.x, 0x15, c.encK 0 slot.val, c.lit⟩
  | .knew c => some ⟨.x, 0x18, c.encK 0 0, c.lit⟩
  | .knewSeq c => some ⟨.x, 0x18, c.encK 0 1, c.lit⟩
  | .kput c => some ⟨.x, 0x19, c.encK 0 0, c.lit⟩
  | .ktree c => some ⟨.x, 0x1A, c.encK 0 0, c.lit⟩
  | .kcommit c => some ⟨.x, 0x1B, c.encK 0 0, c.lit⟩
  | .ksquash c => some ⟨.x, 0x1C, c.encK 0 0, c.lit⟩
  | .ksquashSeq c => some ⟨.x, 0x1C, c.encK 0 1, c.lit⟩
  | .kfork c => some ⟨.x, 0x1D, c.encK 0 0, c.lit⟩
  | .kpin c => some ⟨.x, 0x1E, c.encK 0 0, c.lit⟩
  | .kslide c => some ⟨.x, 0x1F, c.encK 0 0, c.lit⟩
  | .kfroll c => some ⟨.x, 0x23, c.encK 0 0, c.lit⟩
  | .kquery c => some ⟨.x, 0x24, c.encK 0 0, c.lit⟩
  | .kqueryHeads c => some ⟨.x, 0x24, c.encK 0 1, c.lit⟩
  | .kreq c => some ⟨.x, 0x25, c.encK 0 0, c.lit⟩
  | .kdemote c d => some ⟨.x, 0x20, c.encK 0 d.code, c.lit⟩
  | .kpromote c d => some ⟨.x, 0x21, c.encK 0 d.code, c.lit⟩
  | .kfeat c f => some ⟨.x, 0x22, c.encK 0 (bit f), c.lit⟩
  | .kfeatRd c f => some ⟨.x, 0x22, c.encK 0 (2 + bit f), c.lit⟩
  | .gseedSeq i c => some ⟨.x, 0x28, c.encG i 0, c.lit⟩
  | .gseedObj i c => some ⟨.x, 0x28, c.encG i 1, c.lit⟩
  | .gsoft i c => some ⟨.x, 0x29, c.encG i 0, c.lit⟩
  | .gsoftTopk i c => some ⟨.x, 0x29, c.encG i 1, c.lit⟩
  | .gcdf i c => some ⟨.x, 0x2A, c.encG i 0, c.lit⟩
  | .gpick i c => some ⟨.x, 0x2B, c.encG i 0, c.lit⟩
  | .gpickTopk i c => some ⟨.x, 0x2B, c.encG i 1, c.lit⟩
  | .gaccept i c => some ⟨.x, 0x2C, c.encG i 0, c.lit⟩
  | .gacceptGreedy i c => some ⟨.x, 0x2C, c.encG i 1, c.lit⟩
  | .gresid i c => some ⟨.x, 0x2D, c.encG i 0, c.lit⟩
  | .gnext i c => some ⟨.x, 0x2E, c.encG i 0, c.lit⟩
  | .gparamAssume i c => some ⟨.x, 0x2F, c.encG i 0, c.lit⟩
  | .gparamClear i c => some ⟨.x, 0x2F, c.encG i 1, c.lit⟩
  | .gpub i c => some ⟨.x, 0x30, c.encG i 0, c.lit⟩
  | .gstat i c => some ⟨.x, 0x31, c.encG i 0, c.lit⟩
  | .gstatClr i c => some ⟨.x, 0x31, c.encG i 1, c.lit⟩
  | .wtime c => some ⟨.x, 0x38, c.encK 0 0, c.lit⟩
  | .wtimePort c => some ⟨.x, 0x38, c.encK 0 1, c.lit⟩
  | .wtick c => some ⟨.x, 0x39, c.encK 0 0, c.lit⟩
  | .wtickOff c => some ⟨.x, 0x39, c.encK 0 1, c.lit⟩
  | .wflow c => some ⟨.x, 0x3A, c.encK 0 0, c.lit⟩
  | .wflowOff c => some ⟨.x, 0x3A, c.encK 0 1, c.lit⟩
  | .wbind c => some ⟨.x, 0x3B, c.encK 0 0, c.lit⟩
  | .wbindOff c => some ⟨.x, 0x3B, c.encK 0 1, c.lit⟩
  | .wlate c => some ⟨.x, 0x3C, c.encK 0 0, c.lit⟩
  | .wdead c => some ⟨.x, 0x3D, c.encK 0 0, c.lit⟩
  | .wdeadOff c => some ⟨.x, 0x3D, c.encK 0 1, c.lit⟩
  | .wstat c => some ⟨.x, 0x3E, c.encK 0 0, c.lit⟩
  | .wstatClr c => some ⟨.x, 0x3E, c.encK 0 1, c.lit⟩
  | .nsend p c => some ⟨.x, 0x40, c.encK p.val 0, c.lit⟩
  | .nred p c => some ⟨.x, 0x42, c.encK p.val 0, c.lit⟩
  | .nredArrival p c => some ⟨.x, 0x42, c.encK p.val 1, c.lit⟩
  | .nbar p c => some ⟨.x, 0x43, c.encK p.val 0, c.lit⟩
  | .nmode p c => some ⟨.x, 0x44, c.encK p.val 0, c.lit⟩
  | .nstat p c => some ⟨.x, 0x45, c.encK p.val 0, c.lit⟩
  | .nstatClr p c => some ⟨.x, 0x45, c.encK p.val 1, c.lit⟩
  | .nrecv p c nc g => some ⟨.x, 0x41, c.encK p.val (nc.val * 2 ^ 6 + g.val), c.lit⟩
  | .ftrig c => some ⟨.x, 0x48, c.encK 0 0, c.lit⟩
  | .fckpt c => some ⟨.x, 0x49, c.encK 0 0, c.lit⟩
  | .flend c => some ⟨.x, 0x4A, c.encK 0 0, c.lit⟩
  | .frecl c => some ⟨.x, 0x4B, c.encK 0 0, c.lit⟩
  | .fpost c => some ⟨.x, 0x4C, c.encK 0 0, c.lit⟩
  | _ => none

/-- The decoder of one space before the required-zero checks. -/
def decodeFields (sp : Space) (op x l : Nat) : Except Reject Instr :=
  match sp with
  | .c => decodeC op x l
  | .t => decodeT op x l
  | .m => decodeM op x l
  | .v => decodeV op x l
  | .x => decodeX op x l

/-- A NOP stands in every space but the external one, whose NOP carries a literal (02 R62). -/
def encodeIn (sp : Space) (i : Instr) : Option Enc :=
  match i, sp with
  | .nop, .x => none
  | .nop, sp => some ⟨sp, 0, 0, 0⟩
  | i, sp => match encode i with
    | some e => if e.space = sp then some e else none
    | none => none

/-- The instruction of a slot's opcode, operands and literal: fields, then every unnamed bit zero, then ranges. -/
def decodeOp (sp : Space) (op x l : Nat) : Except Reject Instr :=
  match decodeFields sp op x l with
  | .error e => .error e
  | .ok i =>
    match encodeIn sp i with
    | none => .error .reservedOpcode
    | some e =>
      if e.x ≠ x then .error .reservedBits
      else if e.lit ≠ l then .error .reservedLiteralBits
      else if i.wf then .ok i
      else .error .operand

/-- A slot whose inst field names no engine is refused with the first fault found. -/
def decodeAny (sp : Space) (w l : Nat) : Except Reject Slot :=
  let op := fld w 20 7
  match decodeOp sp op (fld w 0 20) (if takesLiteral sp op then l else 0) with
  | .error e => .error e
  | .ok i =>
    if flag w 31 && !holdAllowed sp i then .error .hold
    else .ok { hold := flag w 31, neg := flag w 30, guard := idx 7 (fld w 27 3), op := i }

/-- The decoded slot; an inst field that names no engine (R61) stands only after every other fault of the slot's encoding (R64), which
the same slot with inst 1 shows. -/
def decodeSlotNat (sp : Space) (w l : Nat) : Except Reject Slot :=
  match decodeAny sp w l with
  | .error .inst =>
    match decodeAny sp (w - fld w 16 4 * 2 ^ 16 + 2 ^ 16) l with
    | .error e => .error e
    | .ok _ => .error .inst
  | r => r

/-- A slot word and its literal (02 R54). -/
def decodeSlot (sp : Space) (w l : Word32) : Except Reject Slot := decodeSlotNat sp w.toNat l.toNat

/-- The words of a slot: the slot word, and the literal where its opcode takes one (02 R50). -/
def encodeSlot (sp : Space) (s : Slot) : Option (List Word32) :=
  match encodeIn sp s.op with
  | none => none
  | some e =>
    let w := BitVec.ofNat 32
      (bit s.hold * 2 ^ 31 + bit s.neg * 2 ^ 30 + s.guard.val * 2 ^ 27 + e.op * 2 ^ 20 + e.x)
    some (if takesLiteral sp e.op then [w, BitVec.ofNat 32 e.lit] else [w])

/-! ### Bundles -/

/-- The slots a header marks present, in the order C, T, M, V, X0, X1 (02 R51). -/
def presentSlots (h : Nat) : List (Nat × Space) :=
  [(0, Space.c), (1, .t), (2, .m), (3, .v), (4, .x), (5, .x)].filter (fun p => flag h (29 - p.1))

/-- A raw slot of a bundle: its number, space, word address, slot word, and literal where the opcode takes one. -/
structure RawSlot where
  slot : Nat
  space : Space
  addr : Nat
  word : Word32
  lit : Option Word32
deriving DecidableEq, Repr

/-- Split the words after a header into raw slots; none when the words run out. -/
def splitSlots : List (Nat × Space) → Nat → List Word32 → Option (List RawSlot)
  | [], _, _ => some []
  | _ :: _, _, [] => none
  | (n, sp) :: r, a, w :: ws =>
    if takesLiteral sp (fld w.toNat 20 7) then
      match ws with
      | [] => none
      | l :: ws' => (splitSlots r (a + 2) ws').map (⟨n, sp, a, w, some l⟩ :: ·)
    else (splitSlots r (a + 1) ws).map (⟨n, sp, a, w, none⟩ :: ·)

/-- A bundle's header and raw slots, before any check. -/
structure RawBundle where
  header : Word32
  slots : List RawSlot
deriving DecidableEq, Repr

/-- S, P and IDLE of a header (02 R51). -/
def RawBundle.stop (b : RawBundle) : Bool := flag b.header.toNat 31
def RawBundle.safe (b : RawBundle) : Bool := flag b.header.toNat 30
def RawBundle.idle (b : RawBundle) : Nat := fld b.header.toNat 0 20

/-- Whether the header is one R51 allows. -/
def RawBundle.headerOk (b : RawBundle) : Bool :=
  fld b.header.toNat 20 4 = 0 && (!b.safe || b.stop)

/-- Words of the bundle. -/
def RawBundle.len (b : RawBundle) : Nat :=
  1 + b.slots.foldl (fun n s => n + (match s.lit with | some _ => 2 | none => 1)) 0

/-- Split a bundle's words at its address; none when they run out. -/
def splitBundle (a : Nat) : List Word32 → Option RawBundle
  | [] => none
  | h :: ws => (splitSlots (presentSlots h.toNat) (a + 1) ws).map (fun s => ⟨h, s⟩)

/-- The raw slot of a slot number. -/
def RawBundle.slot? (b : RawBundle) (n : Nat) : Option RawSlot := b.slots.find? (fun s => s.slot = n)

/-- Decode a raw slot. -/
def RawSlot.decode (r : RawSlot) : Except Reject Slot := decodeSlot r.space r.word (r.lit.getD 0)

/-- Decode the slot of a number, absent slots giving none. -/
def RawBundle.get (b : RawBundle) (n : Nat) : Except Reject (Option Slot) :=
  match b.slot? n with
  | none => .ok none
  | some r => match r.decode with
    | .ok s => .ok (some s)
    | .error e => .error e

/-- Decode a whole bundle at a word address: total on any words, the first fault in the order of R64 by name. -/
def decodeBundle (a : Nat) (ws : List Word32) : Except Reject Bundle :=
  match splitBundle a ws with
  | none => .error .truncated
  | some b =>
    if !b.headerOk then .error .header
    else do
      let c ← b.get 0
      let t ← b.get 1
      let m ← b.get 2
      let v ← b.get 3
      let x0 ← b.get 4
      let x1 ← b.get 5
      pure { stop := b.stop, safe := b.safe, idle := b.idle, c := c, t := t, m := m, v := v, x0 := x0, x1 := x1,
             len := b.len }

/-- The words of an optional slot. -/
def encodeOpt (sp : Space) : Option Slot → Option (List Word32)
  | none => some []
  | some s => encodeSlot sp s

/-- The words of a bundle (02 R50, R51). -/
def encodeBundle (b : Bundle) : Option (List Word32) := do
  let c ← encodeOpt .c b.c
  let t ← encodeOpt .t b.t
  let m ← encodeOpt .m b.m
  let v ← encodeOpt .v b.v
  let x0 ← encodeOpt .x b.x0
  let x1 ← encodeOpt .x b.x1
  let h := bit b.stop * 2 ^ 31 + bit b.safe * 2 ^ 30 + bit b.c.isSome * 2 ^ 29 + bit b.t.isSome * 2 ^ 28 +
    bit b.m.isSome * 2 ^ 27 + bit b.v.isSome * 2 ^ 26 + bit b.x0.isSome * 2 ^ 25 + bit b.x1.isSome * 2 ^ 24 + b.idle
  pure (BitVec.ofNat 32 h :: (c ++ t ++ m ++ v ++ x0 ++ x1))

/-- The slot a bare slot word stands for, where only its own bits are given and the space is not (log entry 13):
sequencer space, then vector, stream and matrix space, each only for opcodes without a literal, then the opcodes
with a literal, in the order of the spaces. The literal is zero. -/
def slotOfWord (w : Nat) : Option (Space × Slot) :=
  let op := fld w 20 7
  let try_ (lit : Bool) (sp : Space) : Option (Space × Slot) :=
    if takesLiteral sp op = lit then
      match decodeSlotNat sp w 0 with
      | .ok s => some (sp, s)
      | .error _ => none
    else none
  (try_ false .c <|> try_ false .v <|> try_ false .t <|> try_ false .m <|>
    try_ true .c <|> try_ true .t <|> try_ true .m <|> try_ true .v <|> try_ true .x)

/-- The instruction the decoder reads from a bare slot word (log entry 13). -/
def decodeTableWord (nbits w : Nat) : Option Instr :=
  if nbits ≤ 32 then (slotOfWord w).map (fun p => p.2.op) else none

end Sys2Proof
end

