-- ==== Sys2Proof/Machine/Fetch.lean ====
section
/-! DEFINITION. Fetching a bundle's words, and the checks of a bundle that stand before its slots act: vector allotment
and the bundle that a repeat repeats (02 R52, R60 to R67, 05 R149, 08 R234). -/

namespace Sys2Proof.Machine

/-- The instruction-memory word that fetch sees: the copy the fetch buffer still holds of a row that was written since the
last fence, else instruction memory (05 R149). -/
def State.fetchWord (s : State) (k a : Nat) : Word32 :=
  match FMap.get [] (s.core k).fetchOld (a / 64) with
  | [] => BitVec.ofNat 32 (leNat (s.mem.readBytes (imAddr k 0 + 4 * a) 4))
  | row => BitVec.ofNat 32 (leAt row (4 * (a % 64)) 4)

/-- The words from a bundle's address on: the longest bundle is 13 words, and instruction memory ends at 65,535. -/
def State.fetchWords (s : State) (k a : Nat) : List Word32 :=
  ((List.range' a 13).filter (· < Config.imWords)).map (s.fetchWord k)

/-- ILLEGAL for a word of instruction memory that is not the acting slot's own (05 R155). -/
def State.illegalWord (s : State) (addr : Nat) (w : Word32) : Trap :=
  s.trapHere .illegal (wordTval addr w.toNat) 2

/-- The vector fields of an instruction. -/
def vectorArgs : Instr → Option VArgs
  | .vadd v => some v
  | .vsub v => some v
  | .vmul v => some v
  | .vmac v => some v
  | .vfma v => some v
  | .vmin v => some v
  | .vmax v => some v
  | .vabs v => some v
  | .vneg v => some v
  | .vand v => some v
  | .vor v => some v
  | .vxor v => some v
  | .vnot v => some v
  | .vshl v => some v
  | .vshr v => some v
  | .vsar v => some v
  | .vrshr v => some v
  | .vsat v => some v
  | .vclz v => some v
  | .vffs v => some v
  | .vpopc v => some v
  | .vcmp v => some v
  | .vsel v => some v
  | .vcvt v => some v
  | .vsrnd v => some v
  | .vrand v => some v
  | .viota v => some v
  | .vmov v => some v
  | .vmulh v => some v
  | .vrotr v => some v
  | .vrotc v => some v
  | .vbcr v => some v
  | .vbcc v => some v
  | .vredr v => some v
  | .vredc v => some v
  | .vscanr v => some v
  | .vscanc v => some v
  | .vshfr v => some v
  | .vtrn v => some v
  | .vpop v => some v
  | .vpush v => some v
  | .vrdacc v => some v
  | .vwracc v => some v
  | .vsfn v => some v
  | .vimm v _ => some v
  | .vcoef v _ => some v
  | _ => none

/-- Change the vector fields of an instruction. -/
def mapVector (f : VArgs → VArgs) : Instr → Instr
  | .vadd v => .vadd (f v)
  | .vsub v => .vsub (f v)
  | .vmul v => .vmul (f v)
  | .vmac v => .vmac (f v)
  | .vfma v => .vfma (f v)
  | .vmin v => .vmin (f v)
  | .vmax v => .vmax (f v)
  | .vabs v => .vabs (f v)
  | .vneg v => .vneg (f v)
  | .vand v => .vand (f v)
  | .vor v => .vor (f v)
  | .vxor v => .vxor (f v)
  | .vnot v => .vnot (f v)
  | .vshl v => .vshl (f v)
  | .vshr v => .vshr (f v)
  | .vsar v => .vsar (f v)
  | .vrshr v => .vrshr (f v)
  | .vsat v => .vsat (f v)
  | .vclz v => .vclz (f v)
  | .vffs v => .vffs (f v)
  | .vpopc v => .vpopc (f v)
  | .vcmp v => .vcmp (f v)
  | .vsel v => .vsel (f v)
  | .vcvt v => .vcvt (f v)
  | .vsrnd v => .vsrnd (f v)
  | .vrand v => .vrand (f v)
  | .viota v => .viota (f v)
  | .vmov v => .vmov (f v)
  | .vmulh v => .vmulh (f v)
  | .vrotr v => .vrotr (f v)
  | .vrotc v => .vrotc (f v)
  | .vbcr v => .vbcr (f v)
  | .vbcc v => .vbcc (f v)
  | .vredr v => .vredr (f v)
  | .vredc v => .vredc (f v)
  | .vscanr v => .vscanr (f v)
  | .vscanc v => .vscanc (f v)
  | .vshfr v => .vshfr (f v)
  | .vtrn v => .vtrn (f v)
  | .vpop v => .vpop (f v)
  | .vpush v => .vpush (f v)
  | .vrdacc v => .vrdacc (f v)
  | .vwracc v => .vwracc (f v)
  | .vsfn v => .vsfn (f v)
  | .vimm v l => .vimm (f v) l
  | .vcoef v l => .vcoef (f v) l
  | i => i

/-- The vector register fields an instruction uses: field 0 vd, 1 va, 2 vb, with the register (08 R235). -/
def vectorRegs (i : Instr) : List (Nat × Nat) :=
  match vectorArgs i with
  | none => []
  | some v =>
    let d := (0, v.vd.val); let a := (1, v.va.val); let b := (2, v.vb.val)
    match i with
    | .vadd _ | .vsub _ | .vmul _ | .vmac _ | .vfma _ | .vmin _ | .vmax _ | .vmulh _ | .vshfr _ | .vsrnd _
    | .vsel _ => [d, a, b]
    | .vand _ | .vor _ | .vxor _ => if v.mode.val = 0 then [d, a, b] else []
    | .vnot _ => if v.mode.val = 0 then [d, a] else []
    | .vshl _ | .vshr _ | .vsar _ | .vrshr _ => if v.mode.val = 0 then [d, a, b] else [d, a]
    | .vcmp _ => [a, b]
    | .viota _ | .vimm _ _ | .vpop _ | .vrdacc _ => [d]
    | .vpush _ | .vwracc _ => [a]
    | .vcoef _ _ => []
    | .vmov _ => match v.mode.val with | 0 => [d, a] | 1 => [d] | 2 => [a] | _ => []
    | _ => [d, a]

/-- Registers beyond vd that an instruction writes: a widening VMAC writes vd to vd+k−1 (08 R234, R238). -/
def vectorExtra (i : Instr) : Nat :=
  match i with
  | .vmac v => if 2 ≤ v.mode.val then v.ty.k - 1 else 0
  | _ => 0

/-- The ALLOTMENT check of a V slot over `span` iterations with strides (02 R66, R67; 08 R234). -/
def State.allotment (s : State) (slot : Nat) (i : Instr) (span : Nat) (st : Nat → Nat) : Option Trap :=
  let va := s.me.valloc.toNat
  let lo := va % 32
  let hi := va / 256 % 32
  let bad (f reg : Nat) : Trap :=
    { core := s.here.core, cause := .allotment, tval := f * 256 + reg % 256, slot := slot, rank := 4 }
  firstTrap ((vectorRegs i).map (fun p =>
    let top := p.2 + (span - 1) * st p.1 + (if p.1 = 0 then vectorExtra i else 0)
    if p.2 < lo then some (bad p.1 p.2) else if hi < top then some (bad p.1 top) else none))

/-- Iteration `n` of a repeated V slot: each field stepped by its stride; none when a field leaves its five bits. -/
def stepVector (i : Instr) (n svd sva svb : Nat) : Option Instr :=
  match vectorArgs i with
  | none => some i
  | some v =>
    let d := v.vd.val + n * svd; let a := v.va.val + n * sva; let b := v.vb.val + n * svb
    if d < 32 ∧ a < 32 ∧ b < 32 then
      some (mapVector (fun v => { v with vd := idx 31 d, va := idx 31 a, vb := idx 31 b }) i)
    else none

/-- C-slot opcodes that a repeated bundle must not carry (02 R65). -/
def noRepeat : Instr → Bool
  | .rept .. | .repts .. | .align | .halt | .trap _ | .rett | .br _ | .jmp _ | .call _ | .ret | .frag | .loop .. => true
  | _ => false

/-- Opcodes of a C slot word by number, for a slot that does not decode. -/
def noRepeatOp (op : Nat) : Bool :=
  (1 ≤ op && op ≤ 6) || (0x44 ≤ op && op ≤ 0x49)

/-- Whether a bundle's header is faulty: reserved bits, P without S, which shadow mode ignores, or words past the last of instruction memory
(02 R51, R60; 05 R156). -/
def headerBad (addr : Nat) (shadow : Bool) (ws : List Word32) : Bool :=
  match splitBundle addr ws with
  | none => true
  | some b => !(b.headerOk || (shadow && fld b.header.toNat 20 4 = 0)) || Config.imWords < addr + b.len

/-- The checks of the repeated bundle at the REPEAT bundle (02 R65 to R67): its header and length, its C slot's opcode, the
fields its strides carry, and the allotment over the span. -/
def State.repeatChecks (s : State) (addr span svd sva svb : Nat) : Option Trap :=
  let ws := s.fetchWords s.here.core addr
  let head := ws.headD 0
  match splitBundle addr ws with
  | none => some (s.illegalWord addr head)
  | some b =>
    if headerBad addr false ws then some (s.illegalWord addr head)
    else
      let cBad := match b.slot? 0 with
        | some r => if noRepeatOp (fld r.word.toNat 20 7) then some (s.illegalWord r.addr r.word) else none
        | none => none
      let vBad := match b.slot? 3 with
        | none => none
        | some r =>
          match r.decode with
          | .error _ => none
          | .ok sl =>
            let regs := (vectorRegs sl.op).map (·.1)
            let st (f : Nat) : Nat := match f with | 0 => svd | 1 => sva | _ => svb
            let other (f : Nat) : Nat := if regs.contains f then 0 else st f
            let carried := (List.range span).any (fun n =>
              match stepVector sl.op n (other 0) (other 1) (other 2) with
              | some i => !i.wf
              | none => true)
            firstTrap [trapIf carried (s.illegalWord r.addr r.word), s.allotment s.here.slot sl.op span st]
      firstTrap [cBad, vBad]

end Sys2Proof.Machine
end

