-- ==== Sys2Proof/Machine/Flags.lean ====
section
/-! DEFINITION. AFLAGS and the results of the scalar arithmetic with the flags each raises (03 R97 to R101, 05 R136). -/

namespace Sys2Proof.Machine

/-- OR flags into AFLAGS (03 R101). -/
def Core.mergeFlags (c : Core) (f : Nat) : Core := { c with aflags := c.aflags ||| BitVec.ofNat 64 (f % 32) }

/-- KWR of AFLAGS writes the five flags (03 R99). -/
def Core.setFlags (c : Core) (v : Word) : Core := { c with aflags := v &&& 0x1F }

/-- The low w bits of a register as a number. -/
def lowBits (w : Nat) (v : Word) : Nat := v.toNat % 2 ^ w

/-- Sign extension of a w-bit result to 64 bits. -/
def sextW (w x : Nat) : Word := BitVec.ofInt 64 (signedOf w x)

/-- Zero extension of a w-bit result. -/
def zextW (w x : Nat) : Word := BitVec.ofNat 64 (x % 2 ^ w)

/-- Logical left shift at width w, 0 for a count of w or more. -/
def shlW (w x k : Nat) : Nat := if w ≤ k then 0 else x * 2 ^ k % 2 ^ w

/-- Logical right shift. -/
def shrW (w x k : Nat) : Nat := if w ≤ k then 0 else x % 2 ^ w / 2 ^ k

/-- Arithmetic right shift: all sign bits for a count of w or more. -/
def sarW (w x k : Nat) : Nat := wrapInt w (signedOf w x / (2 ^ (if w ≤ k then w - 1 else k) : Int))

/-- Bits [2w−1:w] of the signed product. -/
def mulhW (w x y : Nat) : Nat := wrapInt w (signedOf w x * signedOf w y / (2 ^ w : Int))

/-- Signed minimum and maximum of w-bit patterns. -/
def minS (w x y : Nat) : Nat := if signedOf w x ≤ signedOf w y then x % 2 ^ w else y % 2 ^ w
def maxS (w x y : Nat) : Nat := if signedOf w x ≤ signedOf w y then y % 2 ^ w else x % 2 ^ w

/-- Bitwise combinations of w-bit patterns. -/
def andW (w x y : Nat) : Nat := (x &&& y) % 2 ^ w
def orW (w x y : Nat) : Nat := (x ||| y) % 2 ^ w
def xorW (w x y : Nat) : Nat := (x ^^^ y) % 2 ^ w

/-- A comparison over all 64 bits (05 R139). -/
def condTest (c : Cond) (x y : Word) : Bool :=
  match c with
  | .eq => x == y
  | .ne => x != y
  | .lt => decide (x.toInt < y.toInt)
  | .le => decide (x.toInt ≤ y.toInt)
  | .ltn => decide (x.toNat < y.toNat)
  | .len => decide (x.toNat ≤ y.toNat)

/-- A predicate operation (05 R140). -/
def plogTest (op : PlogOp) (x y : Bool) : Bool :=
  match op with
  | .and => x && y
  | .or => x || y
  | .xor => x != y
  | .andn => x && !y
  | .orn => x || !y
  | .xnor => x == y

end Sys2Proof.Machine
end

