-- ==== Sys2Proof/Machine/Control.lean ====
section
/-! DEFINITION. Control of the sequencer: spacers and NOPs, repeats, barriers, HALT, TRAP and RETT, the k-space, the fetch
fence, and transfers of control (02 R53, R62, R65 to R69; 05 R133 to R135, R146 to R149, R157, R158). -/

namespace Sys2Proof.Machine

/-! ### Spacers and NOPs -/

/-- A bundle with no slot occupies its issue cycle and does nothing (02 R53). -/
def execSpacer (s : State) : Host.Outcome State Fault Refusal := .next s

/-- A NOP does nothing, takes no credit and sends nothing (02 R62). -/
def execNop (s : State) : Host.Outcome State Fault Refusal := .next s

/-- An X slot's NOP, its literal ignored (02 R62). -/
def execNopX (_lit : Word32) (s : State) : Host.Outcome State Fault Refusal := .next s

/-! ### Repeats (02 R65 to R69) -/

/-- A repeat of `k` executing and `span − k` padding iterations of the bundle that follows. -/
def startRepeat (k span : Nat) (svd sva svb : Fin 32) (s : State) : State :=
  s.modMe (fun c => { c with rep :=
    { active := true, iter := 0, pad := span - k, left := k, svd := svd.val, sva := sva.val, svb := svb.val,
      addr := s.here.next, first := 0 } })

def execRept (count : Fin 4096) (svd sva svb : Fin 32) (s : State) : Host.Outcome State Fault Refusal :=
  let span := max count.val 1
  s.orTrap (firstTrap [s.noShadow, s.repeatChecks s.here.next span svd.val sva.val svb.val])
    (startRepeat count.val span svd sva svb s)

def execRepts (a : SReg) (count : Fin 4096) (svd sva svb : Fin 32) (s : State) : Host.Outcome State Fault Refusal :=
  let span := max count.val 1
  let k := (s.rs a).toNat
  s.orTrap (firstTrap [s.noShadow, s.repeatChecks s.here.next span svd.val sva.val svb.val,
      trapIf (count.val < k) (s.trapHere .repeatRange k 5)])
    (startRepeat k span svd sva svb s)

/-! ### Barriers and HALT (01 R20, R39; 05 R147, R148) -/

/-- Arrive at a barrier: the core stops, and its SPACING keeps its value from here on (01 R41). -/
def arrive (m : Mode) (s : State) : State := s.modMe (fun c => { c with mode := m, arrivedAt := s.here.cycle, barrierAt := s.here.bundle })

def execAlign (s : State) : Host.Outcome State Fault Refusal := s.orTrap s.noShadow (arrive .atAlign s)

def execFrag (s : State) : Host.Outcome State Fault Refusal := s.orTrap s.noShadow (arrive .atFrag s)

/-- HALT stops the core after its bundle and clears its holds and bindings; in shadow mode it ends the instance with the
cause in TCAUSE (05 R148, R157; 06 R200). -/
def execHalt (s : State) : Host.Outcome State Fault Refusal :=
  if s.me.shadow then
    .next (s.endInstance ((s.col (colOf s.here.core)).inst.getD 0) trapStatus s.me.tcause.toNat s.me.tval.toNat)
  else .next (s.modMe (fun c => { c with mode := .halted, hold := [], binds := [], ireq := none }))

/-! ### TRAP and RETT (05 R158) -/

/-- TRAP raises SW_TRAP with its code in TVAL. -/
def execTrap (code : BitVec 20) (s : State) : Host.Outcome State Fault Refusal :=
  .next (takeTrap s (s.trapHere .swTrap code.toNat 9) s.here.bundle)

/-- Whether RETT may resume the group: a group of one colonnade, an interrupt, or an unguarded TRAP (01 R27). -/
def mayResume (s : State) : Bool :=
  (s.groupOf s.here.core).cols.length ≤ 1 || s.me.tcause.toNat % 256 = 0x20 || s.me.swWhole

/-- RETT: ILLEGAL outside shadow mode; ends the instance when TCAUSE.ENDING is set or a larger group cannot resume; else
leaves shadow mode. -/
def execRett (s : State) : Host.Outcome State Fault Refusal :=
  if !s.me.shadow then .next (takeTrap s s.illegal s.here.bundle)
  else if s.me.tcause.toNat / 2 ^ 11 % 2 = 1 || !mayResume s then
    .next (s.endInstance ((s.col (colOf s.here.core)).inst.getD 0) trapStatus s.me.tcause.toNat s.me.tval.toNat)
  else .next (returnFromHandler s s.here.core)

/-! ### The k-space (05 R133 to R135) -/

/-- REPLEFT's fields (02 R69). -/
def Repeat.word (r : Repeat) : Nat :=
  (if r.active then 2 ^ 36 else 0) + r.iter % 4096 * 2 ^ 24 + r.pad % 4096 * 2 ^ 12 + r.left % 4096

/-- SHAPE (01 R15). -/
def State.shapeWord (s : State) (k : Nat) : Nat :=
  let g := s.groupOf k
  let o := (s.instOf k).object
  g.cols.length * 2 ^ 12 + g.index * 2 ^ 8 + o.draft * 2 ^ 4 + o.mains

/-- COREID (01 R15). -/
def State.coreIdWord (s : State) (k : Nat) : Nat :=
  let i := s.instOf k
  i.part * 2 ^ 24 + i.number * 2 ^ 8 + (s.col (colOf k)).logical * 2 ^ 3 + coreNo k

/-- FRAGSEL (05 R134). -/
def Group.fragWord (g : Group) : Nat := (if g.fragValid then 2 ^ 8 else 0) + g.fragIndex

/-- SPACING.COUNT of a core at a schedule cycle; it stands still while the core waits at an ALIGN or a FRAG (01 R41). -/
def Core.spacingAt (c : Core) (cycle : Nat) : Nat :=
  (if c.mode = .atAlign || c.mode = .atFrag then min cycle c.arrivedAt else cycle) - c.stopAt

/-- The value of a k-space register at the reading bundle (05 R134); the shadow-only ones give the main bank. -/
def kread (s : State) (knum : Nat) : Word :=
  let c := s.me
  let g := s.groupOf s.here.core
  match knum with
  | 0x000 => BitVec.ofNat 64 s.here.cycle
  | 0x001 => BitVec.ofNat 64 g.stalls
  | 0x002 => BitVec.ofNat 64 (c.spacingAt s.here.cycle % 4096)
  | 0x003 => BitVec.ofNat 64 c.rep.word
  | 0x004 => BitVec.ofNat 64 (s.shapeWord s.here.core)
  | 0x005 => BitVec.ofNat 64 (s.coreIdWord s.here.core)
  | 0x006 => c.stage.setWidth 64
  | 0x007 => c.valloc
  | 0x008 => c.aflags
  | 0x009 => BitVec.ofNat 64 g.fragWord
  | 0x00A => c.livemap
  | 0x00B => BitVec.ofNat 64 (predBits (if c.shadow then c.ph else c.p))
  | 0x010 => c.tvec
  | 0x011 => c.epc
  | 0x012 => c.tcause
  | 0x013 => c.tval
  | 0x014 => c.imask
  | 0x015 => c.ipend
  | 0x140 => BitVec.ofNat 64 (predBits c.p)
  | n => if n = 0x100 then 0 else FMap.get 0 c.s (n - 0x100)

/-- A write of a k-space register taking effect: bits marked RO are ignored (05 R134, R135). -/
def kwrite (s : State) (k knum : Nat) (v : Word) : State :=
  match knum with
  | 0x008 => s.modCore k (fun c => c.setFlags v)
  | 0x009 => s.modGroup (s.groupNo k) (fun g =>
    if g.gnextAt = s.wall + 1 then g else { g with fragValid := true, fragIndex := v.toNat % 256 })
  | 0x00B =>
    s.modCore k (fun c =>
      if c.shadow then { c with ph := predOf v.toNat }
      else { c with p := predOf v.toNat })
  | 0x010 => s.modCore k (fun c => { c with tvec := v &&& 0x8000FFFF })
  | 0x011 => s.modCore k (fun c => { c with epc := v &&& 0x1FFFF })
  | 0x014 => (s.modCore k (fun c => { c with imask := v &&& 0xF })).raiseIrq k 0
  | 0x015 =>
    (s.modCore k (fun c => { c with ipend := c.ipend &&& ~~~ (v &&& 0xF) })).raiseIrq k 0
  | 0x140 => s.modCore k (fun c => { c with p := predOf v.toNat })
  | n => if 0x101 ≤ n ∧ n ≤ 0x13F then s.modCore k (fun c => { c with s := FMap.set 0 c.s (n - 0x100) v }) else s

/-- Shadow-only registers (05 R133). -/
def shadowOnly (k : Nat) : Bool := 0x100 ≤ k

def execKrd (d : SReg) (knum : BitVec 12) (s : State) : Host.Outcome State Fault Refusal :=
  s.orTrap
    (firstTrap [trapIf (!knumReadable knum.toNat) (s.illegal 2),
      trapIf (shadowOnly knum.toNat && !s.me.shadow) s.illegal])
    (s.ws d (kread s knum.toNat))

def execKwr (a : SReg) (knum : BitVec 12) (s : State) : Host.Outcome State Fault Refusal :=
  s.orTrap
    (firstTrap [trapIf (!knumWritable knum.toNat) (s.illegal 2),
      trapIf ((shadowOnly knum.toNat || knum.toNat = 0x011) && !s.me.shadow) s.illegal])
    (s.effectAfter 1 (.kwr knum.toNat (s.rs a)))

/-! ### The fetch buffer (05 R149) -/

def execIcinv (a b : SReg) (s : State) : Host.Outcome State Fault Refusal :=
  s.orTrap s.noShadow (s.effectAfter 1 (.icinv (s.rs a).toNat (s.rs b).toNat))

/-- FETCHB fences the ICINVs issued before it: the rows' contents as of the end of this cycle reach fetch 24 cycles on. -/
def execFetchb (s : State) : Host.Outcome State Fault Refusal :=
  s.orTrap s.noShadow (s.after 0 phReg 1 (.eff s.here.core (.fenceSnap [])))

/-! ### Transfers of control (02 R60, 05 R146) -/

/-- Go to a word address. -/
def State.goto (s : State) (target : Nat) : State := s.modMe (fun c => { c with pc := target })

/-- The target of a relative transfer: the bundle's address plus a signed word offset. -/
def relTarget (s : State) (off : Int) : Int := (s.here.bundle : Int) + off

/-- Whether a target lies outside instruction memory. -/
def targetBad (t : Int) : Bool := t < 0 || 65535 < t

/-- ILLEGAL of JMP and RET: TVAL holds the target (05 R155). -/
def badTarget (s : State) (v : Word) : Option Trap :=
  trapIf (65535 < v.toNat) (s.trapHere .illegal v.toNat 9)

def execBr (off : BitVec 20) (s : State) : Host.Outcome State Fault Refusal :=
  let t := relTarget s off.toInt
  s.orTrap (trapIf (targetBad t) (s.illegal 2)) (s.goto t.toNat)

def execJmp (a : SReg) (s : State) : Host.Outcome State Fault Refusal :=
  s.orTrap (badTarget s (s.rs a)) (s.goto (s.rs a).toNat)

def execCall (off : BitVec 20) (s : State) : Host.Outcome State Fault Refusal :=
  let t := relTarget s off.toInt
  s.orTrap (trapIf (targetBad t) (s.illegal 2)) ((s.ws 63 (BitVec.ofNat 64 s.here.next)).goto t.toNat)

def execRet (s : State) : Host.Outcome State Fault Refusal :=
  s.orTrap (badTarget s (s.rs 63)) (s.goto (s.rs 63).toNat)

def execLoop (a : SReg) (off : BitVec 14) (s : State) : Host.Outcome State Fault Refusal :=
  let t := relTarget s off.toInt
  let v := if s.rs a = 0 then 0 else s.rs a - 1
  s.orTrap (trapIf (targetBad t) (s.illegal 2))
    (let s' := s.ws a v; if v = 0 then s' else s'.goto t.toNat)

end Sys2Proof.Machine
end

