-- ==== Sys2Proof/Machine/Random.lean ====
section
/-! DEFINITION. Random words (12 R350, R351): the keyed function, and the words that vector and matrix instructions draw. -/

namespace Sys2Proof.Machine

/-- A 32-bit rotation to the left. -/
def rotl32 (x n : Nat) : Nat := (x * 2 ^ n % 2 ^ 32) + x % 2 ^ 32 / 2 ^ (32 - n)

/-- The rotation amounts of a round. -/
def rotA (i : Nat) : Nat := match i % 4 with | 0 => 13 | 1 => 7 | 2 => 26 | _ => 19
def rotB (i : Nat) : Nat := match i % 4 with | 0 => 11 | 1 => 23 | 2 => 5 | _ => 29

/-- One round of the random word on (x0, x1, x2, x3). -/
def randRound (k0 k1 i : Nat) (x : Nat × Nat × Nat × Nat) : Nat × Nat × Nat × Nat :=
  let m := 2 ^ 32
  let a := (x.1 + x.2.1) % m
  let b := rotl32 x.2.1 (rotA i) ^^^ a
  let c := (x.2.2.1 + x.2.2.2) % m
  let d := rotl32 x.2.2.2 (rotB i) ^^^ c
  let n := (i + 1) / 4
  if i % 4 = 3 then ((a + k1 + n) % m, d, (c + k0 + 2 * n) % m, b) else (a, d, c, b)

/-- The random word of a key, a stream and a counter (12 R350). -/
def randomWord (key stream ctr : Nat) : Nat :=
  let k0 := key % 2 ^ 32
  let k1 := key / 2 ^ 32 % 2 ^ 32
  let x := (List.range 12).foldl (fun x i => randRound k0 k1 i x)
    ((ctr % 2 ^ 32) ^^^ k0, ctr / 2 ^ 32 % 2 ^ 32, (stream % 2 ^ 32) ^^^ k1, 0xB5AD4ECE)
  (x.1 ^^^ x.2.2.2) * 2 ^ 32 + (x.2.1 ^^^ x.2.2.1)

/-- The word of purposes 0 to 2 at an index (12 R351). -/
def elementWord (objSeed seedspace purpose index : Nat) : Nat :=
  randomWord objSeed (purpose * 2 ^ 28 + index % 4096 * 2 ^ 16 + seedspace) (index / 4096)

/-- The word that an instruction of a core draws: keyed by the partition's object seed and the object's seed space. -/
def State.drawWord (s : State) (core purpose index : Nat) : Nat :=
  let i := s.instOf core
  elementWord (s.part i.part).objSeed.toNat i.object.seedspace purpose index

end Sys2Proof.Machine
end

