-- ==== Sys2Proof/Machine/Flit.lean ====
section
/-! DEFINITION. The ports of the link engine: flits, their window and acknowledgements, and the messages packed into them
(14 R400 to R403, R419). -/

namespace Sys2Proof.Machine

/-- A counter goes up by `n`; 64-bit counters wrap (13 R397; 14 R421). -/
def n64 (x n : Nat) : Nat := (x + n) % 2 ^ 64

def State.link (s : State) (p : Nat) : LinkPort := FMap.get {} s.links p
def State.modLink (s : State) (p : Nat) (f : LinkPort → LinkPort) : State := { s with links := FMap.modify {} s.links p f }

/-! ### Flits (R401, R402) -/

/-- One bit of the CRC of ECMA-182, most significant bit first. -/
def crcBit (c : Nat) : Nat :=
  if 2 ^ 63 ≤ c then (c * 2 % 2 ^ 64) ^^^ 0x42F0E1EBA9EA3693 else c * 2

/-- The CRC of ECMA-182 over bytes. -/
def crc64 (d : List Byte) : Nat :=
  d.foldl (fun c b =>
    let c := c ^^^ (b.toNat * 2 ^ 56)
    crcBit (crcBit (crcBit (crcBit (crcBit (crcBit (crcBit (crcBit c)))))))) 0

/-- A flit (R401). No rule counts credits, and the model returns none (log entry 24). -/
def flitOf (ty seq ack : Nat) (nak : Bool) (payload : List Byte) : List Byte :=
  let d := leBytes 2 (ty * 2 ^ 12 + seq) ++ leBytes 2 (ack + (if nak then 2 ^ 15 else 0)) ++ padTo 240 payload ++ leBytes 4 0
  d ++ leBytes 8 (crc64 d)

/-- Flits that may be outstanding (R402). -/
def flitWindow : Nat := 256

/-- Take up waiting messages until a payload is full: those outside the queues first (R401, R419). -/
def LinkPort.take : Nat → LinkPort → LinkPort
  | 0, l => l
  | fuel + 1, l =>
    if 240 ≤ l.rest.length then l
    else
      match l.urgent, l.out with
      | m :: r, _ => LinkPort.take fuel { l with rest := l.rest ++ m, urgent := r }
      | [], m :: r => LinkPort.take fuel { l with rest := l.rest ++ m, out := r }
      | [], [] => l

/-- Move waiting messages, back to back, into the window as flits. -/
def State.pumpFlits (s : State) (p : Nat) : Nat → State
  | 0 => s
  | fuel + 1 =>
    let l := (s.link p).take 16
    if l.rest.isEmpty || flitWindow ≤ l.window.length then s
    else
      let s1 := s.modLink p (fun _ => { l with
        rest := l.rest.drop 240, window := l.window ++ [flitOf 1 l.sendSeq l.goodSeq false (l.rest.take 240)],
        sendSeq := (l.sendSeq + 1) % 4096, sent := n64 l.sent 1, ackAt := if l.window.isEmpty then s.wall else l.ackAt })
      let s2 := if l.window.isEmpty then s1.eventAt (s.wall + 22001) .ackTimeout { port := p } else s1
      s2.pumpFlits p fuel

/-- Send rows over a port as messages of up to 16 rows each; of a message's header the spec gives the length, and its bytes are a free function
of what the message says and of its place in the transfer (R401; log entry 24). `urgent`: traffic outside the queues, which goes first (R419). -/
def State.sendMessages (s : State) (p : Nat) (urgent : Bool) (what : List Nat) (rows : List (List Byte)) : State :=
  let ms := (List.range (max 1 (ceilDiv rows.length 16))).map (fun i =>
    leBytes 16 (Config.linkHeader (i :: rows.length :: what)).toNat ++ ((rows.drop (16 * i)).take 16).flatten)
  (s.modLink p (fun l => if urgent then { l with urgent := l.urgent ++ ms } else { l with out := l.out ++ ms })).pumpFlits p flitWindow

/-- An acknowledging flit goes out: an idle flit with the last good SEQ (R402). -/
def State.sendAck (s : State) (p : Nat) (nak : Bool) : State :=
  s.modLink p (fun l => { l with reply := flitOf 0 l.sendSeq l.goodSeq nak [], sent := n64 l.sent 1 })

/-- How many flits of the window an acknowledgement covers. -/
def LinkPort.ackedBy (l : LinkPort) (ack : Nat) : Nat :=
  let n := (ack + 4096 - l.acked) % 4096
  if l.window.length < n then 0 else n

/-- Take an acknowledgement: the flits up to it leave the window. -/
def State.takeAck (s : State) (p ack : Nat) : State :=
  let n := (s.link p).ackedBy ack
  if n = 0 then s
  else
    (s.modLink p (fun l => { l with window := l.window.drop n, acked := ack, replays := 0, ackAt := s.wall })).pumpFlits
      p flitWindow

/-! ### Pairing (R403) -/

/-- The partition with which a partition is paired over a port, which may send to no other. -/
def LinkPort.peerOf (l : LinkPort) (part : Nat) : Option Nat := (l.paired.find? (fun q => q.1 = part)).map (·.2)

/-- Whether traffic of a partition outside the queues may use a port: it is UP and paired (R403, R419). -/
def State.portReady (s : State) (p part : Nat) : Bool := (s.link p).up = 2 && ((s.link p).peerOf part).isSome

end Sys2Proof.Machine
end

