-- ==== Sys2Proof/Machine/Moves.lean ====
section
/-! DEFINITION. How rows move: the plan of a stream instruction's groups (06 R170), and what its scheduled reads, pops,
pushes, writes, lane beats and patch-buffer writes do when their cycle comes (06 R171 to R188; 04 R112). -/

namespace Sys2Proof.Machine

/-! ### One end of a move -/

/-- An operand queue, or rows reached through a handle with their places and the cycle offset judged. -/
inductive End where
  | queue (q : QueueId)
  | rows (h : Handle) (fs : List Ref)
  | ring (space : Nat) (rs : List RowAt)
  | buffer (id : Nat)

def End.cap : End → Nat
  | .rows h _ => capOf (hget h .space)
  | _ => 4
def End.alpha : End → Nat
  | .rows h _ => alphaOf (hget h .space)
  | .ring space _ => alphaOf space
  | _ => 1
def End.beta : End → Nat
  | .rows h _ => betaOf (hget h .space)
  | .ring space _ => betaOf space
  | _ => 0
def End.banks : End → Nat → List (Option (Nat × Nat))
  | .rows h fs, _ => fs.map (fun f => groupBank (hget h .space) f.row)
  | .ring space rs, _ => rs.map (fun r => groupBank space r.row)
  | _, n => List.replicate n none
def End.needs : End → List LineNeed
  | .rows h fs => if hget h .space = 10 then (fs.map (·.need)).eraseDups else []
  | _ => []

/-- The place of row `i` of an end at a cycle; none for a queue. -/
def State.place (s : State) (e : End) (i cycle : Nat) : Except Trap (Option RowAt) :=
  match e with
  | .rows h fs =>
    match fs[i]? with
    | none => .error s.illegal
    | some f => (s.resolve h f cycle).map some
  | .ring _ rs =>
    match rs[i]? with
    | none => .error s.illegal
    | some r => if s.rowOk s.here.core r cycle then .ok (some r) else .error s.illegal
  | _ => .ok none

/-- One group of a move: when it is read, the rows on both sides, and those of its source that an earlier group has read. -/
structure Step where
  time : Nat
  src : List RowAt
  dst : List RowAt
  count : Nat
  again : List RowAt := []
deriving DecidableEq, Repr

/-- Collect per-row entries (group, source, destination) into steps. -/
def collect (t0 : Nat) : List (Nat × Option RowAt × Option RowAt) → List Step
  | [] => []
  | (g, a, b) :: r =>
    match collect t0 r with
    | st :: more =>
      if st.time = t0 + g then { st with src := a.toList ++ st.src, dst := b.toList ++ st.dst, count := st.count + 1 } :: more
      else { time := t0 + g, src := a.toList, dst := b.toList, count := 1 } :: st :: more
    | [] => [{ time := t0 + g, src := a.toList, dst := b.toList, count := 1 }]

/-- Note in each group the rows that the instruction has read before it: their tags are compared at their first read alone (04 R106). -/
def noteAgain : List RowAt → List Step → List Step
  | _, [] => []
  | old, st :: r => { st with again := st.src.filter old.contains } :: noteAgain (st.src ++ old) r

/-- A row whose tag is not compared: the one its instruction first read is the same (04 R106). -/
def RowAt.untagged (r : RowAt) : RowAt := { r with space := 14 }

/-- The plan of a move of `n` rows, groups beginning at cycle t0 (06 R170): rows judged at their own cycles. -/
def State.plan (s : State) (src dst : End) (n t0 : Nat) (single : Bool) : Except Trap (List Step) :=
  let cap := if single then 1 else min src.cap dst.cap
  let gs := assignGroups cap ((src.banks n).zip (dst.banks n)) 0 0 [] []
  let d := src.alpha + dst.beta
  (gs.zipIdx.mapM (fun p : Nat × Nat => do
    let a ← s.place src p.2 (t0 + p.1)
    let b ← s.place dst p.2 (t0 + p.1 + d)
    pure (p.1, a, b))).map (fun l => noteAgain [] (collect t0 l))

/-- The bank cycles of a plan. -/
def planUses (d : Nat) (steps : List Step) : List (RowAt × Nat × Bool) :=
  steps.flatMap (fun st => st.src.map (fun r => (r, st.time, false)) ++ st.dst.map (fun r => (r, st.time + d, false)))

/-- Where a step's rows go. -/
def End.dest (e : End) (st : Step) : Dest :=
  match e with
  | .queue q => .queue q
  | .rows h _ => if hget h .space = 9 then .patch (st.dst.map (·.row)) else .rows st.dst (hget h .tag) true
  | .ring _ _ => .rows st.dst 0 true
  | .buffer id => .buffer id

/-- Where a step's rows come from. -/
def End.source (e : End) (st : Step) : Source :=
  match e with
  | .queue q => .pop q st.count
  | .rows h _ => .rows (st.src.map (fun r => if st.again.contains r then r.untagged else r)) (hget h .tag)
  | _ => .rows st.src 0

/-- Put a plan's moves on the agenda. -/
def State.schedulePlan (s : State) (src dst : End) (steps : List Step) : State :=
  let d := src.alpha + dst.beta
  let ph := match src with | .queue _ => phPop | _ => phRead
  steps.foldl (fun s st =>
    s.atCycle s.here.core st.time ph s.here.core (.move s.src (src.source st) (dst.dest st) d)) s

/-- The last cycle a plan uses. -/
def planEnd (d : Nat) (steps : List Step) (t0 : Nat) : Nat := steps.foldl (fun m st => max m (st.time + d)) t0

/-- Whether a handle's rows are usable by a stream instruction and lie in an accepted space (05 R131, 06 R169, R176). -/
def State.handleCheck (s : State) (h : Handle) (cb dv im : Bool) : Option Trap :=
  trapIf (!handleUsable h || !spaceIn h cb dv im) s.illegal

/-- The look-ahead of both ends: the tile-cache lines of device rows (06 R186), and on a lent colonnade fewer than 32 rows in
flight before a store (15 R434). -/
def lookEnds (src dst : End) (s : State) : Look :=
  let needs := src.needs ++ dst.needs
  if needs.isEmpty then .free
  else
    let col := colOf s.here.core
    match lookLines needs.eraseDups s with
    | .ok _ t =>
      if !dst.needs.isEmpty && (t.col col).lentTo.isSome && 32 ≤ (t.col col).inFlight then .wait t else .ok 0 t
    | r => r

/-- MACHINE_CHECK for a poisoned row of a source (09 R293). -/
def State.poisonOf (s : State) (e : End) : Option Trap :=
  match e with
  | .rows h fs => s.poisonCheck h fs
  | _ => none

/-- A move whose look-ahead is satisfied: its banks claimed, its lines pinned, its groups put on the agenda, and then the
caller's own effects, which see the plan. -/
def goMove (src dst : End) (n k : Nat) (single : Bool) (post : List Step → State → State) (s : State) :
    Host.Outcome State Fault Refusal :=
  match s.plan src dst n (s.here.cycle + 2 + k) single with
  | .error t => .next (takeTrap s t s.here.bundle)
  | .ok steps =>
    let d := src.alpha + dst.beta
    match s.poisonOf src, s.claimBanks (planUses d steps) with
    | some t, _ => .next (takeTrap s t s.here.bundle)
    | none, (s1, some t) => .next (takeTrap s1 t s.here.bundle)
    | none, (s1, none) =>
      let s2 := s1.pinLines (src.needs ++ dst.needs) (planEnd d steps s.here.cycle + 1)
      .next (post steps (s2.schedulePlan src dst steps))

/-- A move of `n` rows between two ends, its groups beginning `k` cycles after the usual c+2 (06 R170): checked, looked
ahead, and put on the agenda. -/
def moveRows (src dst : End) (n k : Nat) (single : Bool) (post : List Step → State → State) (s : State) :
    Host.Outcome State Fault Refusal :=
  match s.plan src dst n (s.here.cycle + 2 + k) single with
  | .error t => .next (takeTrap s t s.here.bundle)
  | .ok _ => s.look (lookEnds src dst) (fun _ => goMove src dst n k single post)

/-- The rows T(h)[0] to T(h)[n−1] as an end; ILLEGAL when T(h) holds fewer. -/
def seqEnd (h : Handle) (n : Nat) : Option End := (seqRefs h n).map (.rows h)

/-- The row BASE + off as an end (06 R185; log entry 100). -/
def rowEnd (h : Handle) (off : Nat) : Option End := (idxRef h off).map (fun f => .rows h [f])

/-! ### What scheduled work does -/

/-- The rows pending in the patch buffer after a write (06 R188): a row already pending is replaced; a ninth distinct row
performs the oldest. -/
def State.performIm (s : State) (k row : Nat) (d : Row) : State :=
  let a := imAddr k row
  let old := s.mem.readBytes a 256
  let s := s.modCore k (fun c =>
    match FMap.get [] c.fetchOld row with
    | [] => if old = d then c else { c with fetchOld := FMap.set [] c.fetchOld row old }
    | _ => c)
  { s with mem := s.mem.writeBytes a d }

/-- A stream write to an instruction-memory row: a row already pending takes the new data in its old place in the order of ages (log entry 118). -/
def State.patchWrite (s : State) (k row : Nat) (d : Row) : State :=
  let c := s.core k
  if c.patch.any (fun p => p.1 = row) then
    s.setCore k { c with patch := c.patch.map (fun p => if p.1 = row then (row, d) else p) }
  else if c.patch.length < 8 then s.setCore k { c with patch := c.patch ++ [(row, d)] }
  else
    match c.patch with
    | (r, old) :: rest => (s.setCore k { c with patch := rest ++ [(row, d)] }).performIm k r old
    | [] => s.setCore k { c with patch := [(row, d)] }

/-- A beat put on a lane at a station (01 R7): a collision raises SCHED KIND 1. -/
def stationAt (lane station hops : Nat) : Nat := if lane < 8 then (station + hops) % 16 else (station + 160 - hops % 16) % 16

/-- Where a beat stands at a cycle; none once it has been taken or has come round. -/
def Beat.stationOf (b : Beat) (cycle : Nat) : Option Nat :=
  if b.cycle ≤ cycle && cycle < b.cycle + 16 && (b.gone = 0 || cycle < b.gone) then
    some (stationAt b.lane b.station (cycle - b.cycle))
  else none

/-- The beat on a lane at a station and cycle. -/
def Col.beatAt (c : Col) (lane station cycle : Nat) : Option Beat :=
  c.beats.find? (fun b => b.lane = lane && b.stationOf cycle = some station)

/-- TVAL of SCHED KIND 1 and 2 (05 R155). -/
def laneTval (kind lane station : Nat) : Nat := schedTval kind (lane * 2 ^ 48 + station * 2 ^ 32)

/-- Put a beat. -/
def State.putBeat (s : State) (src : Src) (lane station tag : Nat) (d : List Byte) : State :=
  let col := colOf src.core
  let now := (s.groupOf src.core).sched
  match (s.col col).beatAt lane station now with
  | some _ => lateTrap s src .sched (laneTval 1 lane station)
  | none =>
    s.modCol col (fun c => { c with
      beats := ⟨lane, station, now, 0, tag, d⟩ :: c.beats.filter (fun b => now < b.cycle + 96) })

/-- Take a beat off a lane, or leave it with KEEP. -/
def State.takeBeat (s : State) (src : Src) (lane station cycle : Nat) (keep : Bool) : State × Option Beat :=
  let col := colOf src.core
  match (s.col col).beatAt lane station cycle with
  | none => (lateTrap s src .sched (laneTval 2 lane station), none)
  | some b =>
    if keep then (s, some b)
    else
      (s.modCol col (fun c => { c with
        beats := c.beats.map (fun x => if x = b then { x with gone := cycle + 1 } else x) }), some b)

/-- A row of a lent colonnade's tile cache that is still on its way to its home goes there with what a later store has left in it. -/
def Item.renew (col addr : Nat) (d : Row) (it : Item) : Item :=
  match it.work with
  | .event ⟨.writeThrough, a⟩ => if a.col = col && a.addr = addr then { it with work := .event ⟨.writeThrough, { a with bytes := d }⟩ } else it
  | _ => it

/-- A store to a tile-cache line sets its dirty bit (06 R186); on a lent colonnade it also sends the row to its home, and the line
stays clean (15 R434). -/
def State.markDirty (s : State) (r : RowAt) : State :=
  if r.space ≠ 10 then s
  else
    let a := r.addr - 2 ^ 28
    let row := a % 2 ^ 21 / 256
    let key := lineKey (a / 2 ^ 21 % 8) (row / 512) (row % 512 / 16)
    let col := a / 2 ^ 24
    match FMap.get none (s.col col).lines key with
    | none => s
    | some l =>
      if (s.col col).lentTo.isSome then
        let s : State := { s with agenda := s.agenda.map (Item.renew col (r.row * 256) (s.readRow r)) }
        let w := (s.modCol col (fun c => { c with inFlight := c.inFlight + 1 })).freshSlack
        w.2.eventAt (s.wall + 1 + w.1) .writeThrough
          { core := l.core, col := col, addr := r.row * 256, bytes := s.readRow r, value := s.wall + 1 }
      else s.modCol col (fun c => { c with lines := FMap.set none c.lines key (some { l with dirty := true }) })

/-- A row of a lent colonnade's tile cache reaches its home (15 R434); where its page is absent it waits for it with the rows of dirty lines. -/
def State.throughRow (s : State) (e : EvArgs) : State :=
  let there := (s.unitOf e.core e.addr).isSome && (s.unitOf e.core (e.addr + 128)).isSome
  (s.writeDv e.core e.addr e.bytes).modCol e.col (fun c => { c with
    inFlight := c.inFlight - 1, backs := if there then c.backs else c.backs ++ [(e.core, e.addr / 256, e.bytes)] })

/-- WRITE_THROUGH: a row of a lent colonnade's tile cache reaches its home (15 R434). -/
def execWriteThrough (s : State) : Host.Outcome State Fault Refusal :=
  let e := s.ev
  s.throughPort e.value [] [] (fun s => .next (s.throughRow e)) ⟨.writeThrough, e⟩

/-- Hand rows on to their destination in the current cycle of the source's core. -/
def State.deliver (s : State) (src : Src) (dest : Dest) (rows : List Row) : State :=
  match dest with
  | .queue q => s.push src q rows
  | .rows rs tag setTag =>
    (rs.zip rows).foldl (fun s p =>
      let s := ((s.keepOld p.1).writeRow p.1 p.2).markDirty p.1
      if setTag then s.setTag p.1 tag else s) s
  | .patch ns => (ns.zip rows).foldl (fun s p => s.patchWrite src.core p.1 p.2) s
  | .lane lane station tag =>
    rows.foldl (fun s r =>
      let now := (s.groupOf src.core).sched
      let s := s.atCycle src.core now phPop 0 (.beat src lane station tag (r.take 128))
      s.atCycle src.core (now + 1) phPop 0 (.beat src lane station tag (r.drop 128))) s
  | .buffer id =>
    s.modCore src.core (fun c => { c with buffers := FMap.set [] c.buffers id (FMap.get [] c.buffers id ++ rows) })
  | .none => s

/-- The phase and rank in which a destination takes its rows (04 R112). -/
def Dest.phase (d : Dest) (core : Nat) : Nat × Nat :=
  match d with
  | .queue _ => (phPush, core)
  | .rows _ _ _ => (phWrite, rkStore core)
  | .patch _ => (phWrite, rkStore core)
  | .lane _ _ _ => (phPop, 0)
  | .buffer _ => (phPush, core)
  | .none => (phPush, core)

/-- The first row whose tag differs from the expected one; an expected tag of 0 compares nothing (04 R106). -/
def State.tagMismatch (s : State) (rs : List RowAt) (tag : Nat) : Option RowAt :=
  if tag = 0 then none else rs.find? (fun r => r.space ≤ 8 && s.rowTag r ≠ tag)

/-- Read rows through a handle's expected tag; a mismatch raises SCHED KIND 0 at the reading bundle (06 R171). -/
def State.readTagged (s : State) (src : Src) (rs : List RowAt) (tag : Nat) : Except State (List Row) :=
  match s.tagMismatch rs tag with
  | some r => .error (lateTrap s src .sched (tagTval r tag (s.rowTag r)))
  | none => .ok (rs.map s.readRow)

/-- Read or pop the rows of a group and schedule their delivery. -/
def doMove (s : State) (src : Src) (from_ : Source) (dest : Dest) (delay : Nat) : State :=
  let now := (s.groupOf src.core).sched
  let ph := dest.phase src.core
  match from_ with
  | .rows rs tag =>
    match s.readTagged src rs tag with
    | .error s => s
    | .ok rows => s.atCycle src.core (now + delay) ph.1 ph.2 (.put src dest rows)
  | .pop q n =>
    let r := s.pop src q n
    if r.2.length < n then r.1 else r.1.atCycle src.core (now + delay) ph.1 ph.2 (.put src dest r.2)

/-- Take the two beats of a tap, half by half; the row is handed on in the cycle after the second (06 R184). -/
def doTap (s : State) (src : Src) (lane station : Nat) (keep : Bool) (half : Nat) (dest : Dest) (buffer : Nat) : State :=
  let now := (s.groupOf src.core).sched
  match s.takeBeat src lane station now keep with
  | (s, none) => s
  | (s, some b) =>
    if half = 0 then
      s.modCore src.core (fun c => { c with buffers := FMap.set [] c.buffers buffer [b.data] })
    else
      let row := ((FMap.get [] (s.core src.core).buffers buffer).headD []) ++ b.data
      let s := s.modCore src.core (fun c => { c with buffers := FMap.set [] c.buffers buffer [] })
      let dest := match dest with
        | .rows rs _ t => .rows rs b.tag t
        | d => d
      let ph := match dest with | .rows _ _ _ => (phWrite, rkLane) | d => d.phase src.core
      s.atCycle src.core (now + 1) ph.1 ph.2 (.put src dest [row])

/-- Bytes shift to shift + 255 of two rows joined (06 R180). -/
def mergeRow (a b : Row) (shift : Nat) : Row := ((a ++ b).drop shift).take 256

/-- The rows of a list, those that stand in it before or in `old` not compared again (04 R106). -/
def onceTagged (old : List RowAt) : List RowAt → List RowAt
  | [] => []
  | r :: l => (if old.contains r then r.untagged else r) :: onceTagged (r :: old) l

/-- One cycle of an RMERGE: read row k+1, with row 0 on the first, push result row k α cycles later. -/
def doRmerge (s : State) (src : Src) (prev : Option Row) (rest : List RowAt) (tag shift : Nat) (q : QueueId)
    (delay : Nat) : State :=
  let now := (s.groupOf src.core).sched
  let step (s : State) (a b : Row) (more : List RowAt) : State :=
    let s := s.atCycle src.core (now + delay) phPush src.core (.put src (.queue q) [mergeRow a b shift])
    if more.isEmpty then s
    else s.atCycle src.core (now + 1) phRead src.core (.rmerge src (some b) more tag shift q delay)
  match prev, rest with
  | none, a :: b :: more =>
    match s.readTagged src [a, b] tag with
    | .ok [x, y] => step s x y (onceTagged [a, b] more)
    | .ok _ => s
    | .error s => s
  | some x, b :: more =>
    match s.readTagged src [b] tag with
    | .ok [y] => step s x y more
    | .ok _ => s
    | .error s => s
  | _, _ => s

/-- Write `width` bits of a row from bit `first` on, leaving its other bits (06 R182). -/
def doMasked (s : State) (r : RowAt) (tag : Nat) (setTag : Bool) (first width bits : Nat) : State :=
  let old := leNat (s.readRow r)
  let cleared := old - old / 2 ^ first % 2 ^ width * 2 ^ first
  let s := ((s.keepOld r).writeRow r (leBytes 256 (cleared + bits % 2 ^ width * 2 ^ first))).markDirty r
  if setTag then s.setTag r tag else s

end Sys2Proof.Machine
end

