-- ==== Sys2Proof/Machine/Trellis.lean ====
section
/-! DEFINITION. Waiting and signalling of the sequencer: RWFIL, RWFRE, WAITEV, SIGEV, EVARM (05 R150 to R154). -/

namespace Sys2Proof.Machine

/-- RING_OVERRUN of a ring and a count (05 R155). -/
def State.overrun (s : State) (g n : Nat) : Trap := s.trapHere .ringOverrun (g * 2 ^ 16 + n % 2 ^ 16) 9

/-- The look-ahead of RWFIL: enough filled entries, else a freeze; n above the capacity overruns (05 R150). -/
def lookFilled (g n : Nat) (s : State) : Look :=
  let col := colOf s.here.core
  let r := (s.col col).ring g
  if n = 0 then .free
  else if r.e < n then .trap (s.overrun g n)
  else if n ≤ r.filled then .ok 0 s
  else .wait s

/-- The look-ahead of RWFRE: enough room. -/
def lookRoom (g n : Nat) (s : State) : Look :=
  let col := colOf s.here.core
  let r := (s.col col).ring g
  if n = 0 then .free
  else if r.e < n then .trap (s.overrun g n)
  else if n ≤ r.room then .ok 0 s
  else .wait s

def execRwfil (g : GReg) (n : BitVec 14) (s : State) : Host.Outcome State Fault Refusal :=
  match s.noShadow with
  | some t => .next (takeTrap s t s.here.bundle)
  | none => s.look (lookFilled g.val n.toNat) (fun _ s => .next s)

def execRwfre (g : GReg) (n : BitVec 14) (s : State) : Host.Outcome State Fault Refusal :=
  match s.noShadow with
  | some t => .next (takeTrap s t s.here.bundle)
  | none => s.look (lookRoom g.val n.toNat) (fun _ s => .next s)

/-- The lines a WAITEV names (05 R151). -/
def waitLines (base : Fin 128) (mask : Word32) : List Nat :=
  ((List.range 32).filter (fun i => bitOf mask.toNat i)).map (base.val + ·)

/-- The look-ahead of WAITEV: every named line at least 1, claimed at once; else the group freezes and the waiter stays
registered (05 R151, 01 R34). -/
def lookWait (lines : List Nat) (s : State) : Look :=
  let col := colOf s.here.core
  if (s.col col).linesReady lines then .ok 0 (s.modCol col (fun c => c.takeLines lines)) else .wait s

/-- The cycles that the acting slot's freeze added to STALLS, 0 without one (05 R151). -/
def State.waitedFor (s : State) : Nat :=
  match s.myAsk with
  | some a => if a.missed then (s.groupOf s.here.core).freezeStalls else 0
  | none => 0

/-- WAITEV: s[d] receives the cycles that its freeze added to STALLS, 0 without one. -/
def execWaitev (d : SReg) (base : Fin 128) (mask : Word32) (s : State) : Host.Outcome State Fault Refusal :=
  let lines := waitLines base mask
  match firstTrap [trapIf (mask = 0 || lines.any (127 < ·)) (s.illegal 2), s.noShadow] with
  | some t => .next (takeTrap s t s.here.bundle)
  | none =>
    s.look (lookWait lines) (fun _ s => .next (s.ws d (BitVec.ofNat 64 s.waitedFor)))

/-- SIGEV to the own colonnade: COUNT pulses of the core's own source at c+2 (05 R152). -/
def execSigev (count : Byte) (s : State) : Host.Outcome State Fault Refusal :=
  s.orTrap (firstTrap [trapIf (count = 0) (s.illegal 2), s.noShadow])
    (s.after 2 phPulse s.here.core (.pulse (colOf s.here.core) (coreNo s.here.core) count.toNat))

/-- The physical colonnade of a logical one of the core's shape (01 R14). -/
def State.physical (s : State) (logical : Nat) : Option Nat :=
  match FMap.get 0 (s.instOf s.here.core).cols logical with
  | 0 => none
  | n => some (n - 1)

/-- SIGEV to another colonnade: source 88 + RIDX at c+28; a colonnade outside the shape is UNREACHABLE. -/
def execSigevRemote (col : Fin 16) (ridx : Fin 32) (count : Byte) (s : State) : Host.Outcome State Fault Refusal :=
  match firstTrap [trapIf (count = 0) (s.illegal 2), s.noShadow], s.physical col.val with
  | some t, _ => .next (takeTrap s t s.here.bundle)
  | none, none => .next (takeTrap s s.unreachable s.here.bundle)
  | none, some c => .next (s.after 28 phPulse s.here.core (.pulse c (88 + ridx.val) count.toNat))

def execEvarmRoute (source line : Fin 128) (v : Bool) (s : State) : Host.Outcome State Fault Refusal :=
  s.orTrap s.noShadow (s.after 1 phEvarm s.here.core (.evRoute (colOf s.here.core) source.val line.val v))

def execEvarmWindow (engine queue : Fin 16) (base : Fin 128) (s : State) : Host.Outcome State Fault Refusal :=
  s.orTrap (firstTrap [trapIf (engineQueues engine.val ≤ queue.val || 112 < base.val) (s.illegal 2), s.noShadow])
    (s.after 1 phEvarm s.here.core (.evWindow (colOf s.here.core) (engine.val * 16 + queue.val) base.val))

def execEvarmCount (line : Fin 128) (value : Byte) (clear : Bool) (s : State) : Host.Outcome State Fault Refusal :=
  s.orTrap s.noShadow (s.after 1 phEvarm s.here.core (.evCount (colOf s.here.core) line.val value.toNat clear))

end Sys2Proof.Machine
end

