-- ==== Sys2Proof/Machine/Stream.lean ====
section
/-! DEFINITION. The stream engine (06 R175 to R204) and the scratchpad accesses of the sequencer (05 R144): loads, stores,
copies, gathers, planes, lanes, the tile cache, the patch buffer, rings, atomics, and entry consistency. -/

namespace Sys2Proof.Machine

/-- Go on unless a check finds a trap. -/
def State.checkThen (s : State) (t : Option Trap) (k : State → Host.Outcome State Fault Refusal) :
    Host.Outcome State Fault Refusal :=
  match t with
  | some t => .next (takeTrap s t s.here.bundle)
  | none => k s

/-- Go on with an operand that exists; ILLEGAL without one. -/
def State.withSome {α : Type} (s : State) (o : Option α) (k : α → Host.Outcome State Fault Refusal) :
    Host.Outcome State Fault Refusal :=
  match o with
  | some e => k e
  | none => .next (takeTrap s s.illegal s.here.bundle)

/-- Claim banks, then go on. -/
def State.claimThen (s : State) (uses : List (RowAt × Nat × Bool)) (k : State → State) :
    Host.Outcome State Fault Refusal :=
  match s.claimBanks uses with
  | (s1, some t) => .next (takeTrap s1 t s.here.bundle)
  | (s1, none) => .next (k s1)

/-- A write of s[d] of the issuing core still to come (05 R145). -/
def State.pendS (s : State) (d last : Nat) : State :=
  if d = 0 then s
  else s.modMe (fun c => { c with
    pending := ⟨false, d, last⟩ :: c.pending.filter (fun p => s.here.cycle ≤ p.last) })

/-- No effect of one's own after a move's plan. -/
def noPost : List Step → State → State := fun _ s => s

/-! ### SLD and SST (05 R144) -/

/-- The scratchpad row and word that s[a] + s[b] names. -/
def sldPlace (core : Nat) (x : Word) : RowAt × Nat := (rowAt core 0 (x.toNat / 256 % 4096), x.toNat / 8 % 32)

/-- The field of width w at a byte of a row. -/
def fieldAt (row : Row) (byte w : Nat) : Nat := leAt row byte (w / 8)

/-- Whether a read-modify-write slot of a row straddles the freeze point at which a handler runs: its reservation stands until the group
resumes (04 R109, R110). -/
def State.slotHeld (s : State) (r : RowAt) : Bool :=
  let n := s.me.trapAt
  (s.col (colOf s.here.core)).uses.any (fun u => u.ofBank (r.addr / 256) && u.rmw && u.row = r.row && u.issued + 2 < n && n ≤ u.issued + 4)

/-- A handler's access through the open port, after which its next bundle comes; an access to a reserved row is deferred, and with it the
handler, until the reservation ends, which the handler itself holds off (04 R110, 05 R144; log entry 108). -/
def State.handlerAccess (s : State) (r : RowAt) (k : State → State) : Host.Outcome State Fault Refusal :=
  let s' := if s.slotHeld r then s else k s
  .next (s'.modMe (fun c => { c with shadowAt := s.wall + (if s.slotHeld r then 2 ^ 64 else 5) }))

def execSld (r : RArgs) (s : State) : Host.Outcome State Fault Refusal :=
  let p := sldPlace s.here.core (s.rs r.a + s.rs r.b)
  let w := r.sz.bits
  if s.me.shadow then
    s.handlerAccess p.1 (fun s => s.modMe (fun c => c.setS r.d.val (sextW w (fieldAt (s.readRow p.1) (8 * p.2) 64))))
  else
    s.claimThen [(p.1, s.here.cycle + 2, false)] (fun s =>
      (s.pendS r.d.val (s.here.cycle + 4)).after 2 phRead s.here.core (.sld s.src p.1 p.2 w r.d.val))

def execSst (d a b : SReg) (s : State) : Host.Outcome State Fault Refusal :=
  let p := sldPlace s.here.core (s.rs a + s.rs b)
  let v := (s.rs d).toNat
  if s.me.shadow then
    s.handlerAccess p.1 (fun s => doMasked s p.1 0 false (64 * p.2) 64 v)
  else
    s.claimThen (rmwUses p.1 (s.here.cycle + 2)) (fun s =>
      s.after 4 phWrite rkRmw (.masked s.src p.1 0 false (64 * p.2) 64 v))

/-- SLD at its bank cycle: the word's low w bits, sign-extended, reach s[d] two cycles later. -/
def doSld (s : State) (src : Src) (r : RowAt) (word w d : Nat) : State :=
  let now := (s.groupOf src.core).sched
  s.atCycle src.core (now + 2) phReg 0
    (.eff src.core (.setS d (sextW w (fieldAt (s.readRow r) (8 * word) 64))))

/-! ### Loads, stores and copies (06 R176, R177) -/

def execLdq (q : QueueId) (h : HReg) (n : Fin 2048) (s : State) : Host.Outcome State Fault Refusal :=
  let hv := s.rh h
  s.checkThen (firstTrap [trapIf (!(q.loadable || q = .iq) || n.val = 0) (s.illegal 2), s.handleCheck hv true true false])
    (fun s => s.withSome (seqEnd hv n.val) (fun e => moveRows e (.queue q) n.val 0 false noPost s))

def execLdqs (q : QueueId) (h : HReg) (off : Fin 2048) (s : State) : Host.Outcome State Fault Refusal :=
  let hv := s.rh h
  s.checkThen (firstTrap [trapIf (!(q.loadable || q = .iq)) (s.illegal 2), s.handleCheck hv true true false])
    (fun s => s.withSome (rowEnd hv off.val) (fun e => moveRows e (.queue q) 1 0 false noPost s))

def execStq (q : QueueId) (h : HReg) (n : Fin 2048) (s : State) : Host.Outcome State Fault Refusal :=
  let hv := s.rh h
  s.checkThen (firstTrap [trapIf (!q.storable || n.val = 0) (s.illegal 2), s.handleCheck hv true true true])
    (fun s => s.withSome (seqEnd hv n.val) (fun e => moveRows (.queue q) e n.val 0 false noPost s))

def execStqs (q : QueueId) (h : HReg) (off : Fin 2048) (s : State) : Host.Outcome State Fault Refusal :=
  let hv := s.rh h
  s.checkThen (firstTrap [trapIf (!q.storable) (s.illegal 2), s.handleCheck hv true true true])
    (fun s => s.withSome (rowEnd hv off.val) (fun e => moveRows (.queue q) e 1 0 false noPost s))

/-- COPY from the handle numbered one above its destination. -/
def execCopy (hd : HReg) (n : Fin 2048) (s : State) : Host.Outcome State Fault Refusal :=
  let dv := s.rh hd
  let sv := s.me.hreg (hd.val + 1)
  s.checkThen (firstTrap [trapIf (30 < hd.val || n.val = 0) (s.illegal 2), s.handleCheck sv true true false,
      s.handleCheck dv true true true])
    (fun s => s.withSome (seqEnd sv n.val) (fun a => s.withSome (seqEnd dv n.val) (fun b =>
      moveRows a b n.val 0 false noPost s)))

/-! ### TCOPY (06 R178) -/

/-- The dimensions of a descriptor row: count, source stride, destination stride. -/
def tcopyDims (row : Row) : List (Nat × Int × Int) :=
  (List.range 12).map (fun d =>
    (leAt row (16 * d) 4, signedOf 32 (leAt row (16 * d + 4) 4), signedOf 32 (leAt row (16 * d + 8) 4)))

/-- Whether a reserved byte of a descriptor row is nonzero. -/
def tcopyReserved (row : Row) : Bool :=
  (List.range 12).any (fun d => leAt row (16 * d + 12) 4 ≠ 0) || !allZero (row.drop 192)

/-- Row offsets of a copy, dimension 0 fastest. -/
def tcopyOffsets : List (Nat × Int × Int) → List (Int × Int)
  | [] => [(0, 0)]
  | (n, a, b) :: r =>
    let rest := tcopyOffsets r
    rest.flatMap (fun p => (List.range n).map (fun (i : Nat) => (p.1 + (i : Int) * a, p.2 + (i : Int) * b)))

/-- The two ends of a copy as a descriptor row gives them, through a shaped dv handle an indexed access (log entry 100); none where the
descriptor is bad or a row lies below 0. -/
def tcopyEnds (hs hd : Handle) (row : Row) : Option (End × End × Nat) :=
  let dims := tcopyDims row
  let total := dims.foldl (fun n d => n * d.1) 1
  if tcopyReserved row || 2 ^ 24 < total then none
  else
    let origin (h : Handle) : Int := ((rowSeq h 0).getD 0 : Int) - (hget h .base : Int)
    let offs := if total = 0 then [] else tcopyOffsets dims
    match offs.mapM (fun p => idxRef hs (origin hs + p.1)), offs.mapM (fun p => idxRef hd (origin hd + p.2)) with
    | some a, some b => some (.rows hs a, .rows hd b, total)
    | _, _ => none

/-- A descriptor row as the work already scheduled leaves it for its read (log entry 17); without such a forecast, as it stands. -/
def State.foreseenRow (s : State) (r : RowAt) : Row :=
  match s.me.foreseen.find? (fun p => p.1 = r.addr) with
  | some p => p.2
  | none => s.readRow r

/-- The tile-cache lines that the descriptor row names as the look-ahead foresees it; none for a bad descriptor, which
traps when it is read. -/
def lookTcopy (hs hd : Handle) (desc : RowAt) (s : State) : Look :=
  match tcopyEnds hs hd (s.foreseenRow desc) with
  | some (a, b, _) => lookEnds a b s
  | none => .free

/-- The planned copy of a descriptor row as it is foreseen at the bundle: its banks claimed and its lines pinned, when every line is present and
no bank is taken; otherwise the copy is planned when its descriptor is read (log entry 17). Whether it is planned. -/
def State.planTcopy (s : State) (hs hd : Handle) (row : Row) : State × Bool :=
  match tcopyEnds hs hd row with
  | none => (s, false)
  | some (a, b, n) =>
    let needs := a.needs ++ b.needs
    let col := s.col (colOf s.here.core)
    if !needs.all (fun l => (col.findLine l.tid l.tx l.ty l.j).isSome) then (s, false)
    else
      match s.plan a b n (s.here.cycle + 3) false with
      | .error _ => (s, false)
      | .ok steps =>
        let d := a.alpha + b.beta
        match s.claimBanks (planUses d steps) with
        | (_, some _) => (s, false)
        | (s1, none) => (s1.pinLines needs (planEnd d steps s.here.cycle + 1), true)

def execTcopy (hd hs : HReg) (desc : Fin 4096) (s : State) : Host.Outcome State Fault Refusal :=
  let sv := s.rh hs
  let dv := s.rh hd
  let r := rowAt s.here.core 0 desc.val
  s.checkThen (firstTrap [s.handleCheck sv true true false, s.handleCheck dv true true true])
    (fun s => s.look (lookTcopy sv dv r) (fun _ s =>
      s.claimThen [(r, s.here.cycle + 2, false)] (fun s =>
        let row := s.foreseenRow r
        let p := s.planTcopy sv dv row
        p.1.after 2 phRead s.here.core (.tcopy s.src sv dv r (if p.2 then row else [])))))

/-- The context of the bundle that scheduled a piece of work. -/
def State.atSrc (s : State) (src : Src) : State :=
  { s with here := { core := src.core, slot := src.slot, bundle := src.bundle, addr := src.addr, word := src.word,
                     cycle := src.cycle } }

/-- The bank claims of a copy whose descriptor has changed are given up. -/
def State.dropClaims (s : State) (src : Src) (now : Nat) : State :=
  s.modCol (colOf src.core) (fun c => { c with
    uses := c.uses.filter (fun u => !(u.core = src.core && u.slot = src.slot && u.issued = src.cycle && now < u.cycle)) })

/-- Lines that a copy needs and its look-ahead did not know: a missing one freezes the group at the next cycle, before the first row moves,
until it is present (log entry 17). -/
def State.lateLines (s : State) (needs : List LineNeed) (now : Nat) : Except Trap State :=
  match lookLines needs.eraseDups s with
  | .trap t => .error t
  | .wait s' =>
    let col := s'.col (colOf s'.here.core)
    let keys := needs.filterMap (fun l => (col.findLine l.tid l.tx l.ty l.j).map (·.1))
    .ok (s'.freezeAtCycle (s'.groupNo s'.here.core) (now + 1) (.tileCache (colOf s'.here.core) keys))
  | .ok _ s' => .ok s'
  | .free => .ok s

/-- Claim banks for a piece of work that learns its rows after its issue: a conflict traps at the later of the two bundles, whichever it is
(04 R113); none where all are free. -/
def State.claimLate (s : State) : List (RowAt × Nat × Bool) → Except State State
  | [] => .ok s
  | (r, cycle, rmw) :: rest =>
    match s.claimBank r cycle rmw with
    | (s1, none) => s1.claimLate rest
    | (s1, some t) =>
      let k := bankKey r
      let n : BankUse := ⟨cycle, r.space, k.1, k.2, r.row, rmw, s.here.core, s.here.slot, s.here.cycle, s.src⟩
      match (s.col (colOf s.here.core)).uses.find? (fun u => u.conflict n) with
      | none => .error (lateTrap s1 s.src t.cause t.tval)
      | some u =>
        let src := if s.here.cycle < u.issued || (u.issued = s.here.cycle && s.here.core < u.core) then u.src
          else if t.core = s.here.core && t.slot = s.here.slot then s.src else u.src
        let v := if src = u.src then (({ s with here := { s.here with core := u.core, slot := u.slot, cycle := u.issued } }).bankTrap n u).tval else t.tval
        .error (lateTrap s1 src .bank v)

/-- TCOPY at its descriptor read: a bad descriptor or a row outside its space raises ILLEGAL; else the rows are grouped
from the next cycle, as planned at the bundle, or anew when the descriptor has changed since. -/
def doTcopy (s : State) (src : Src) (hs hd : Handle) (desc : RowAt) (seen : Row) : State :=
  let now := (s.groupOf src.core).sched
  let old := s.here
  let s := s.atSrc src
  let row := s.readRow desc
  let late (s : State) (t : Trap) : State := lateTrap s src t.cause t.tval
  let r :=
    match tcopyEnds hs hd row with
    | none => lateTrap s src .illegal (wordTval src.addr src.word)
    | some (a, b, n) =>
      match s.poisonOf a with
      | some t => late s t
      | none =>
        if row = seen then
          match s.plan a b n (now + 1) false with
          | .error t => late s t
          | .ok steps => s.schedulePlan a b steps
        else
          match (s.dropClaims src now).lateLines (a.needs ++ b.needs) now with
          | .error t => late s t
          | .ok s =>
            match s.plan a b n (now + 1) false with
            | .error t => late s t
            | .ok steps =>
              let d := a.alpha + b.beta
              match s.claimLate (planUses d steps) with
              | .error s1 => s1
              | .ok s1 => (s1.pinLines (a.needs ++ b.needs) (planEnd d steps now + 1)).schedulePlan a b steps
  { r with here := old }

/-! ### GATHER and SCATTER (06 R179) -/

/-- The next `n` indices that IQ offers after those already reserved; none when the rows that held them before the look-ahead's cycle
are fewer. -/
def State.indices (s : State) (n : Nat) : Option (List Nat) :=
  let c := s.me
  let first := c.ip + c.ipAhead
  let dist := s.lookDist s.here.core
  let rows := (c.queue .iq).zip c.iqAt
  (List.range' first n).mapM (fun p => (rows[p / 64]?).bind (fun r =>
    if r.2 + dist < s.here.cycle then some (leAt r.1 (4 * (p % 64)) 4) else none))

/-- SCHED KIND 4, an underrun of IQ. -/
def State.iqUnderrun (s : State) : Trap :=
  s.trapHere .sched (queueTval .iq true (s.me.queue .iq).length) 9

/-- The indexed rows as an end; none below row 0. -/
def idxEnd (h : Handle) (bias : Int) (l : List Nat) : Option End :=
  (l.mapM (fun (i : Nat) => idxRef h ((i : Int) + bias))).map (.rows h)

/-- Reserve the indices, and advance IP by one at each group's read cycle. -/
def iqPost (steps : List Step) (s : State) : State :=
  let s := s.modMe (fun c => { c with ipAhead := c.ipAhead + steps.length })
  steps.foldl (fun s st => s.atCycle s.here.core st.time phPop s.here.core (.eff s.here.core .iqAdvance)) s

def execGather (q : QueueId) (h : HReg) (n : Fin 2048) (bias : Word32) (s : State) : Host.Outcome State Fault Refusal :=
  let hv := s.rh h
  s.checkThen (firstTrap [trapIf (!q.loadable || n.val = 0) (s.illegal 2), s.handleCheck hv true true false])
    (fun s =>
      match s.indices n.val with
      | none => .next (takeTrap s s.iqUnderrun s.here.bundle)
      | some l => s.withSome (idxEnd hv bias.toInt l) (fun e => moveRows e (.queue q) n.val 0 true iqPost s))

def execScatter (q : QueueId) (h : HReg) (n : Fin 2048) (bias : Word32) (s : State) : Host.Outcome State Fault Refusal :=
  let hv := s.rh h
  s.checkThen (firstTrap [trapIf (!q.storable || n.val = 0) (s.illegal 2), s.handleCheck hv true true true])
    (fun s =>
      match s.indices n.val with
      | none => .next (takeTrap s s.iqUnderrun s.here.bundle)
      | some l => s.withSome (idxEnd hv bias.toInt l) (fun e => moveRows (.queue q) e n.val 0 true iqPost s))

/-- One index used: IP advances, and at 64 the head IQ row is popped. -/
def Core.iqStep (c : Core) : Core :=
  let c := { c with ipAhead := c.ipAhead - 1 }
  if c.ip + 1 < 64 then { c with ip := c.ip + 1 }
  else { (c.setQueue .iq ((c.queue .iq).drop 1)) with ip := 0, iqAt := c.iqAt.drop 1 }

/-! ### RMERGE (06 R180) -/

/-- Reads of an RMERGE: rows 0 and 1 together, then one row a cycle. -/
def rmergeUses (c : Nat) (rs : List RowAt) : List (RowAt × Nat × Bool) :=
  rs.zipIdx.map (fun p : RowAt × Nat => (p.1, c + 2 + (p.2 - 1), false))

/-- The places of an end's rows at a cycle. -/
def State.placesAt (s : State) (h : Handle) (fs : List (Ref × Nat)) : Except Trap (List RowAt) :=
  fs.mapM (fun p : Ref × Nat => s.resolve h p.1 p.2)

def execRmerge (q : QueueId) (h : HReg) (n : Fin 2048) (shift : Byte) (s : State) : Host.Outcome State Fault Refusal :=
  let hv := s.rh h
  let c := s.here.cycle
  s.checkThen (firstTrap [trapIf (!(q.loadable || q = .iq) || n.val = 0 || 2046 < n.val) (s.illegal 2),
      s.handleCheck hv true true false])
    (fun s => s.withSome (seqRefs hv (n.val + 1)) (fun fs =>
      let cyc := fs.zipIdx.map (fun p : Ref × Nat => (p.1, c + 2 + (p.2 - 1)))
      let go (s : State) (k : State → List RowAt → Host.Outcome State Fault Refusal) :
          Host.Outcome State Fault Refusal :=
        match s.placesAt hv cyc with
        | .error t => .next (takeTrap s t s.here.bundle)
        | .ok rs => k s rs
      go s (fun s _ => s.look (lookEnds (.rows hv fs) (.queue q)) (fun _ s => go s (fun s rs =>
        s.checkThen (s.poisonCheck hv fs) (fun s =>
          s.claimThen (rmergeUses c rs) (fun s =>
            (s.pinLines (End.rows hv fs).needs (c + 2 + n.val + alphaOf (hget hv .space))).after 2 phRead s.here.core
              (.rmerge s.src none rs (hget hv .tag) shift.toNat q (alphaOf (hget hv .space))))))))))

/-! ### PLANES (06 R181, 03 R84 to R87) -/

/-- Bits `lo` to `lo + w − 1` of a row. -/
def rowBits (row : Row) (lo w : Nat) : Nat := leAt row (lo / 8) ((lo % 8 + w + 7) / 8) / 2 ^ (lo % 8) % 2 ^ w

/-- ⌊log2 |x|⌋ of a nonzero value. -/
def Exact.expo (x : Exact) : Int := x.e + Nat.log2 x.m

/-- The value of a number times the scale byte of its block (03 R84). -/
def Exact.scaled (x : Exact) (scale : Nat) : Exact :=
  { x with e := x.e + (scale : Int) - 127, lam := x.lam.map (· + (scale : Int) - 127) }

/-- One line's conversion to p planes (03 R87): the integers, the exponent and the flags. `vals` are the 32 elements'
values, `scale` the block's scale byte, `maxFin` the source's largest finite value. -/
def planesLine (p : Nat) (signed isInt : Bool) (maxFin : Exact) (vals : List Num) (scale : Option Nat) :
    List Int × Int × Nat :=
  let lo : Int := if signed then -(2 ^ (p - 1)) else 0
  let hi : Int := if signed then 2 ^ (p - 1) - 1 else 2 ^ p - 1
  let clamp (q : Int) : Int := if q < lo then lo else if hi < q then hi else q
  let toX (v : Num) : Exact × Nat :=
    let sc (x : Exact) : Exact := match scale with | some k => x.scaled k | none => x
    match v with
    | .nan => (intExact 0 0, flagNV)
    | .inf neg => (sc { maxFin with neg := neg }, flagOF)
    | .fin x => (sc x, 0)
  if scale = some 255 then (vals.map (fun _ => 0), 0, flagNV ||| (if isInt then 0 else
      vals.foldl (fun f v => f ||| (match v with | .nan => flagNV | .inf _ => flagOF | .fin _ => 0)) 0))
  else if isInt then
    let qs := vals.map (fun v => match v with
      | .fin x => x.at 0
      | _ => 0)
    (qs.map clamp, (match scale with | some k => (k : Int) - 127 | none => 0),
      flagIf (qs.any (fun q => clamp q ≠ q)) flagOF)
  else
    let xs := vals.map toX
    let f0 := xs.foldl (fun f x => f ||| x.2) 0
    let nz := xs.filter (fun x => x.1.m ≠ 0)
    match nz with
    | [] => (vals.map (fun _ => 0), 0, f0)
    | x0 :: r =>
      let emax := r.foldl (fun m x => if m < x.1.expo then x.1.expo else m) x0.1.expo
      let e := emax - p + (if signed then 2 else 1)
      let qf := xs.map (fun x =>
        let y := roundAt .rne e x.1
        let q : Int := if x.1.neg then -(y.1 : Int) else y.1
        (clamp q, flagIf y.2 flagNX ||| flagIf (y.1 = 0 && x.1.m ≠ 0) flagUF ||| flagIf (clamp q ≠ q) flagOF))
      (qf.map (·.1), e, qf.foldl (fun f x => f ||| x.2) f0)

/-- Plane row j of a tile: bit k mod 8 of byte 4m + ⌊k/8⌋ (03 R85). -/
def planeRow (lines : List (List Int)) (p j : Nat) : Row :=
  lines.flatMap (fun qs =>
    leBytes 4 ((qs.map (wrapInt p)).zipIdx.foldl (fun n x => if bitOf x.1 j then n + 2 ^ x.2 else n) 0))

/-- The exponent row (03 R85). -/
def expRow (es : List Int) : Row := padTo 256 (es.flatMap (fun e => leBytes 2 (wrapInt 16 e)))

/-- The largest finite value of an element format. -/
def ElemFmt.maxFin (f : ElemFmt) : Exact :=
  match f with
  | .flt f => match f.value f.maxBits with | .fin x => x | _ => intExact 0 0
  | .int _ _ => intExact 0 0

/-- The value of element (m, k) of a source tile; beyond DIM0 or DIM1 it reads as zero. -/
def planesElem (hs : Handle) (trans : Bool) (f : ElemFmt) (rows : List Row) (m k : Nat) : Num :=
  let line := if trans then k else m
  let at_ := if trans then m else k
  let x := hget hs .tx * hget hs .tilew + at_
  let y := hget hs .ty * hget hs .tileh + line
  if hget hs .dim0 ≤ x ∨ hget hs .dim1 ≤ y then .fin (intExact 0 0)
  else f.value (rowBits (rows[line]?.getD []) (x * f.width % 2048) f.width)

/-- The block of line m of a tile, and the distinct scale rows of its 64 lines in ascending order (06 R181). -/
def planesBlock (hs : Handle) (m : Nat) : Nat := (hget hs .ty * 64 + m) * ceilDiv (hget hs .dim0) 32 + hget hs .tx
def scaleRows (hs : Handle) : List Nat := ((List.range 64).map (fun m => planesBlock hs m / 256)).eraseDups

/-- The plane rows, then the exponent row, and the flags of a conversion. -/
def planesTile (hs hd : Handle) (trans : Bool) (rows scales : List Row) : List Row × Nat :=
  match planeFmt (hget hd .fmt), elemFmt (hget hs .fmt) with
  | some (p, signed), some f =>
    let srows := scaleRows hs
    let isInt := match f with | .int _ _ => true | .flt _ => false
    let scale (m : Nat) : Option Nat :=
      if isBlockFmt (hget hs .fmt) then
        let b := planesBlock hs m
        some (leAt (scales[srows.idxOf (b / 256)]?.getD []) (b % 256) 1)
      else none
    let lines := (List.range 64).map (fun m =>
      planesLine p signed isInt f.maxFin ((List.range 32).map (planesElem hs trans f rows m)) (scale m))
    ((List.range p).map (planeRow (lines.map (·.1)) p) ++ [expRow (lines.map (·.2.1))],
     lines.foldl (fun g l => g ||| l.2.2) 0)
  | _, _ => ([], 0)

/-- Formats that PLANES accepts, with the tile shape (06 R181). -/
def planesOk (hs hd : Handle) (trans : Bool) : Bool :=
  let fmt := hget hs .fmt
  let okFmt := match elemFmt fmt with
    | some (.int 64 _) => false
    | some _ => !(trans && isBlockFmt fmt)
    | none => false
  okFmt && (planeFmt (hget hd .fmt)).isSome &&
    (if trans then hget hs .tilew = 64 && hget hs .tileh = 32 else hget hs .tilew = 32 && hget hs .tileh = 64)

/-- Scale rows, then element rows: their refs with the cycle of each scale row. -/
def planesScaleRefs (hs : Handle) : Option (List Ref) :=
  if isBlockFmt (hget hs .fmt) then (scaleRows hs).mapM (fun (i : Nat) => idxRef hs ((hget hs .scale + i : Nat) : Int))
  else some []

/-- The two parts of a tile conversion that its issue schedules: scale rows one a cycle from c+2, element rows grouped
from the cycle after the last (or from c+3), and the writes of the result. -/
def goPlanes (sv dv : Handle) (trans : Bool) (sc el : List Ref) (s : State) : Host.Outcome State Fault Refusal :=
  let c := s.here.cycle
  let p := match planeFmt (hget dv .fmt) with | some (p, _) => p | none => 0
  let src : End := .rows sv el
  let t0 := if sc.isEmpty then c + 3 else c + 2 + sc.length
  match s.plan src (.buffer 0) el.length t0 false,
      s.placesAt sv (sc.zipIdx.map (fun x : Ref × Nat => (x.1, c + 2 + x.2))), seqRefs dv (p + 1) with
  | .error t, _, _ => .next (takeTrap s t s.here.bundle)
  | _, .error t, _ => .next (takeTrap s t s.here.bundle)
  | _, _, none => .next (takeTrap s s.illegal s.here.bundle)
  | .ok steps, .ok scs, some ds =>
    let tl := steps.foldl (fun m st => max m st.time) t0
    let w0 := tl + src.alpha + 3 + betaOf (hget dv .space)
    match s.placesAt dv (ds.zipIdx.map (fun x : Ref × Nat => (x.1, w0 + x.2))) with
    | .error t => .next (takeTrap s t s.here.bundle)
    | .ok dsts =>
      s.checkThen (firstTrap [s.poisonCheck sv sc, s.poisonCheck sv el]) (fun s =>
        let uses := scs.zipIdx.map (fun x : RowAt × Nat => (x.1, c + 2 + x.2, false)) ++ planUses 0 steps ++
          dsts.zipIdx.map (fun x : RowAt × Nat => (x.1, w0 + x.2, false))
        s.claimThen uses (fun s =>
          let b := s.ctr
          let s := { s with ctr := s.ctr + 2 }
          let s := s.pinLines (End.rows sv (sc ++ el)).needs (w0 + dsts.length)
          let s := scs.zipIdx.foldl (fun s (x : RowAt × Nat) =>
            s.atCycle s.here.core (c + 2 + x.2) phRead s.here.core
              (.move s.src (.rows [x.1] (hget sv .tag)) (.buffer (b + 1)) src.alpha)) s
          let s := steps.foldl (fun s st =>
            s.atCycle s.here.core st.time phRead s.here.core (.move s.src (src.source st) (.buffer b) src.alpha)) s
          s.atCycle s.here.core (tl + src.alpha + 3) phPush s.here.core (.planes s.src sv dv trans b (b + 1) dsts)))

def execPlanes (hd hs : HReg) (trans : Bool) (s : State) : Host.Outcome State Fault Refusal :=
  let sv := s.rh hs
  let dv := s.rh hd
  s.checkThen (firstTrap [s.handleCheck sv true true false, s.handleCheck dv true false false,
      trapIf (!planesOk sv dv trans) s.illegal])
    (fun s => s.withSome (seqRefs sv (hget sv .tileh)) (fun el => s.withSome (planesScaleRefs sv) (fun sc =>
      s.look (lookEnds (.rows sv (sc ++ el)) (.queue .lq)) (fun _ => goPlanes sv dv trans sc el))))

/-- Drop a buffer. -/
def State.freeBuffer (s : State) (core id : Nat) : State :=
  s.modCore core (fun c => { c with buffers := FMap.set [] c.buffers id [] })

/-- The rows of a buffer. -/
def State.buffer (s : State) (core id : Nat) : List Row := FMap.get [] (s.core core).buffers id

/-- Write result rows one a cycle from `delay` cycles on, with the flags at the first. -/
def State.writeTile (s : State) (src : Src) (h : Handle) (dests : List RowAt) (rows : List Row) (flags : Nat) : State :=
  let now := (s.groupOf src.core).sched
  let beta := betaOf (hget h .space)
  let s := (dests.zip rows).zipIdx.foldl (fun s (x : (RowAt × Row) × Nat) =>
    s.atCycle src.core (now + beta + x.2) phWrite (rkStore src.core)
      (.put src (.rows [x.1.1] (hget h .tag) true) [x.1.2])) s
  if flags = 0 then s else s.atCycle src.core (now + beta) phReg 0 (.eff src.core (.flags flags))

/-- PLANES when its elements are in: convert, and write plane rows and exponent row one a cycle. -/
def doPlanes (s : State) (src : Src) (hs hd : Handle) (trans : Bool) (buffer scales : Nat) (dests : List RowAt) :
    State :=
  let r := planesTile hs hd trans (s.buffer src.core buffer) (s.buffer src.core scales)
  ((s.freeBuffer src.core buffer).freeBuffer src.core scales).writeTile src hd dests r.1 r.2

/-! ### UNPLANE (06 R182) -/

/-- Element q of a plane tile (03 R86). -/
def planeElem (p : Nat) (signed : Bool) (rows : List Row) (m k : Nat) : Int :=
  let x := (List.range p).foldl (fun n j =>
    if bitOf (leAt (rows[j]?.getD []) (4 * m + k / 8) 1) (k % 8) then n + 2 ^ j else n) 0
  if signed then signedOf p x else x

/-- The exponent of a line. -/
def planeExp (p : Nat) (rows : List Row) (m : Nat) : Int := signedOf 16 (leAt (rows[p]?.getD []) (2 * m) 2)

/-- Whether a format is one that UNPLANE writes. -/
def unplaneFmt (fmt : Nat) : Option ElemFmt :=
  match fmt with
  | 0x00 | 0x01 | 0x02 | 0x04 | 0x05 | 0x06 | 0x08 | 0x09 | 0x0A => elemFmt fmt
  | _ => none

/-- One element's conversion: integers clamp with OF, floating formats round q·2^e to nearest even. -/
def unplaneElem (f : ElemFmt) (q e : Int) : Nat × Nat :=
  match f with
  | .int w sg => convertInt w sg .rne (.fin (intExact q 0))
  | .flt g => convertFloat g false .rne (.fin (intExact q e))

/-- Line m of the result as bits, with its flags. -/
def unplaneLine (f : ElemFmt) (p : Nat) (signed : Bool) (rows : List Row) (m : Nat) : Nat × Nat :=
  (List.range 32).foldr (fun k acc =>
    let r := unplaneElem f (planeElem p signed rows m k) (planeExp p rows m)
    (acc.1 * 2 ^ f.width + r.1, acc.2 ||| r.2)) (0, 0)

/-- Whether UNPLANE's handles fit: a plane format, an element format, and a tile of 32 × 64 as the destination (06 R182; log entry 124). -/
def unplaneOk (hs hd : Handle) : Bool :=
  (planeFmt (hget hs .fmt)).isSome && (unplaneFmt (hget hd .fmt)).isSome &&
    hget hd .tilew = 32 && hget hd .tileh = 64

/-- What an UNPLANE's issue schedules: the tile's rows grouped from c+2, then 64 masked writes. -/
def goUnplane (sv dv : Handle) (el ds : List Ref) (s : State) : Host.Outcome State Fault Refusal :=
  let c := s.here.cycle
  let src : End := .rows sv el
  match s.plan src (.buffer 0) el.length (c + 2) false with
  | .error t => .next (takeTrap s t s.here.bundle)
  | .ok steps =>
    let tl := steps.foldl (fun m st => max m st.time) (c + 2)
    let w0 := tl + src.alpha + 3 + betaOf (hget dv .space)
    match s.placesAt dv (ds.zipIdx.map (fun x : Ref × Nat => (x.1, w0 + x.2))) with
    | .error t => .next (takeTrap s t s.here.bundle)
    | .ok dsts =>
      s.checkThen (s.poisonCheck sv el) (fun s =>
        s.claimThen (planUses 0 steps ++ dsts.zipIdx.map (fun x : RowAt × Nat => (x.1, w0 + x.2, false))) (fun s =>
          let b := s.ctr
          let s := { s with ctr := s.ctr + 1 }
          let s := s.pinLines (src.needs ++ (End.rows dv ds).needs) (w0 + 65)
          let s := steps.foldl (fun s st =>
            s.atCycle s.here.core st.time phRead s.here.core
              (.move s.src (src.source st) (.buffer b) src.alpha)) s
          s.atCycle s.here.core (tl + src.alpha + 3) phPush s.here.core (.unplane s.src sv dv b dsts)))

def execUnplane (hd hs : HReg) (s : State) : Host.Outcome State Fault Refusal :=
  let sv := s.rh hs
  let dv := s.rh hd
  let p := match planeFmt (hget sv .fmt) with | some (p, _) => p | none => 0
  s.checkThen (firstTrap [s.handleCheck sv true true false, s.handleCheck dv true true false,
      trapIf (!unplaneOk sv dv) s.illegal])
    (fun s => s.withSome (seqRefs sv (p + 1)) (fun el => s.withSome (seqRefs dv 64) (fun ds =>
      s.look (lookEnds (.rows sv el) (.rows dv ds)) (fun _ => goUnplane sv dv el ds))))

/-- UNPLANE when its rows are in: 64 masked writes, one a cycle, bytes outside the tile kept; its flags merge at the first (log entry 95). -/
def doUnplane (s : State) (src : Src) (hs hd : Handle) (buffer : Nat) (dests : List RowAt) : State :=
  match planeFmt (hget hs .fmt), unplaneFmt (hget hd .fmt) with
  | some (p, signed), some f =>
    let rows := s.buffer src.core buffer
    let now := (s.groupOf src.core).sched
    let beta := betaOf (hget hd .space)
    let lines := (List.range 64).map (unplaneLine f p signed rows)
    let s := s.freeBuffer src.core buffer
    let s := (dests.zip lines).zipIdx.foldl (fun s (x : (RowAt × Nat × Nat) × Nat) =>
      s.atCycle src.core (now + beta + x.2) phWrite (rkStore src.core)
        (.masked src x.1.1 (hget hd .tag) true (hget hd .tx * 32 * f.width % 2048) (32 * f.width) x.1.2.1)) s
    let flags := lines.foldl (fun g l => g ||| l.2) 0
    if flags = 0 then s else s.atCycle src.core (now + beta) phReg 0 (.eff src.core (.flags flags))
  | _, _ => s

/-! ### Lanes (06 R183, R184) -/

/-- The station of a handle's space: the core's own, or block J's. -/
def spaceStation (core space : Nat) : Nat := if space = 0 then stationOf core else 2 * (space - 1) + 1

def execLput (h : HReg) (off : Fin 2048) (tag : Byte) (lane : Fin 16) (s : State) : Host.Outcome State Fault Refusal :=
  let hv := s.rh h
  let c := s.here.cycle
  s.checkThen (s.handleCheck hv true false false) (fun s => s.withSome (idxRef hv off.val) (fun f =>
    match s.resolve hv f (c + 2) with
    | .error t => .next (takeTrap s t s.here.bundle)
    | .ok r =>
      s.claimThen [(r, c + 2, false)] (fun s =>
        s.after 2 phRead s.here.core (.move s.src (.rows [r] (hget hv .tag))
          (.lane lane.val (spaceStation s.here.core (hget hv .space)) tag.toNat) 1))))

def execLputQ (q : QueueId) (tag : Byte) (lane : Fin 16) (s : State) : Host.Outcome State Fault Refusal :=
  s.checkThen (trapIf (!q.storable) (s.illegal 2)) (fun s =>
    .next (s.after 2 phPop s.here.core (.move s.src (.pop q 1)
      (.lane lane.val (stationOf s.here.core) tag.toNat) 1)))

/-- The two tap cycles of an LTAP. -/
def State.tapAfter (s : State) (lane station : Nat) (keep : Bool) (dest : Dest) : State :=
  let b := s.ctr
  let s := { s with ctr := s.ctr + 1 }
  let s := s.after 3 phRead s.here.core (.tap s.src lane station keep 0 dest b)
  s.after 4 phRead s.here.core (.tap s.src lane station keep 1 dest b)

def execLtap (q : QueueId) (keep : Bool) (lane : Fin 16) (s : State) : Host.Outcome State Fault Refusal :=
  s.checkThen (trapIf (!(q.loadable || q = .iq)) (s.illegal 2)) (fun s =>
    .next (s.tapAfter lane.val (stationOf s.here.core) keep (.queue q)))

def execLtapRow (h : HReg) (off : Fin 2048) (keep : Bool) (lane : Fin 16) (s : State) :
    Host.Outcome State Fault Refusal :=
  let hv := s.rh h
  let c := s.here.cycle
  s.checkThen (s.handleCheck hv true false false) (fun s => s.withSome (idxRef hv off.val) (fun f =>
    match s.resolve hv f (c + 5) with
    | .error t => .next (takeTrap s t s.here.bundle)
    | .ok r =>
      s.claimThen [(r, c + 5, false)] (fun s =>
        s.tapAfter lane.val (spaceStation s.here.core (hget hv .space)) keep (.rows [r] 0 true))))

/-! ### The tile cache and the patch buffer (06 R187 to R189) -/

/-- The tag of a line. -/
def LineNeed.tag (n : LineNeed) : Nat × Nat × Nat × Nat := (n.tid, n.tx, n.ty, n.j)

/-- Start the fill of one missing line for TCPF: an absent line or one outside the table is skipped, and so is a set with
no victim. -/
def State.prefetchLine (s : State) (n : LineNeed) : State :=
  let col := colOf s.here.core
  let bad := (lineRows n.rows).any (fun r => [0, 128].any (fun o =>
    match s.me.translate (r * 256 + o) with | .ok _ _ _ _ => false | _ => true))
  match (s.col col).findLine n.tid n.tx n.ty n.j, s.victim col (setOf n.tid n.tx n.ty n.j) s.here.cycle with
  | none, some k =>
    if bad then s
    else
      let s := s.writeBack col k
      let sl := s.freshSlack
      let s := sl.2.modCol col (fun c => { c with
        lines := FMap.set none c.lines k
          (some ⟨n.tid, n.tx, n.ty, n.j, false, n.rows, [], s.wall, 0, true, s.here.core⟩) })
      s.eventAt (s.wall + 1 + sl.1) .tileCacheFill { core := s.here.core, col := col, index := k, value := s.wall + 1 }
  | _, _ => s

/-- The lines of T(h)[0] to T(h)[n−1]. -/
def needsOf (fs : List Ref) : List LineNeed := (fs.map (·.need)).eraseDups

def execTcpf (h : HReg) (n : Fin 2048) (s : State) : Host.Outcome State Fault Refusal :=
  let hv := s.rh h
  s.checkThen (firstTrap [trapIf (n.val = 0) (s.illegal 2), s.handleCheck hv false true false])
    (fun s => s.withSome (seqRefs hv n.val) (fun fs => .next ((needsOf fs).foldl State.prefetchLine s)))

/-- Patch-buffer rows of an im handle: ILLEGAL outside instruction memory. -/
def State.imRowsBad (s : State) (fs : List Ref) : Option Trap := trapIf (fs.any (fun f => Config.imRows ≤ f.row)) s.illegal

def execTcwb (h : HReg) (n : Fin 2048) (s : State) : Host.Outcome State Fault Refusal :=
  let hv := s.rh h
  s.checkThen (firstTrap [trapIf (n.val = 0) (s.illegal 2), s.handleCheck hv false true true])
    (fun s => s.withSome (seqRefs hv n.val) (fun fs =>
      if hget hv .space = 9 then
        s.checkThen (s.imRowsBad fs) (fun s =>
          .next (fs.zipIdx.foldl (fun s (x : Ref × Nat) =>
            s.after (3 + x.2) phRead s.here.core (.eff s.here.core (.patchPerform [x.1.row]))) s))
      else .next (s.after 2 phTag s.here.core (.tcLines 0 (colOf s.here.core) ((needsOf fs).map (·.tag))))))

def execTcinv (h : HReg) (n : Fin 2048) (s : State) : Host.Outcome State Fault Refusal :=
  let hv := s.rh h
  s.checkThen (firstTrap [trapIf (n.val = 0) (s.illegal 2), s.handleCheck hv false true true])
    (fun s => s.withSome (seqRefs hv n.val) (fun fs =>
      if hget hv .space = 9 then
        s.checkThen (s.imRowsBad fs) (fun s =>
          .next (s.after 2 phTag s.here.core (.eff s.here.core (.patchDiscard (fs.map (·.row))))))
      else .next (s.after 2 phTag s.here.core (.tcLines 1 (colOf s.here.core) ((needsOf fs).map (·.tag))))))

/-- The rows on their way back to device memory are to go out by themselves (06 R187). -/
def State.sendBacks (s : State) (col : Nat) : State :=
  if (s.col col).backs.isEmpty then s
  else
    let sl := s.freshSlack
    sl.2.eventAt (s.wall + 1 + sl.1) .tileCacheFill { core := col * 8, col := col, flag := true, value := s.wall + 1 }

/-- Write back (op 0) or invalidate (op 1) lines; a pinned line is invalidated when its pin ends. -/
def doTcLines (s : State) (op col : Nat) (tags : List (Nat × Nat × Nat × Nat)) : State :=
  (if op = 0 then (fun s : State => s.sendBacks col) else id) <| tags.foldl (fun s t =>
    match (s.col col).findLine t.1 t.2.1 t.2.2.1 t.2.2.2 with
    | none => s
    | some (k, l) =>
      let now := (s.groupOf (col * 8)).sched
      if op = 0 then s.writeBack col k
      else if now < l.pinned then s.atCycle (col * 8) l.pinned phTag 0 (.tcLines 1 col [t])
      else s.modCol col (fun c => { c with lines := FMap.set none c.lines k none })) s

/-- Perform the pending rows named (06 R188). -/
def State.performPatch (s : State) (k : Nat) (rows : List Nat) : State :=
  rows.foldl (fun s r =>
    match (s.core k).patch.find? (fun p => p.1 = r) with
    | none => s
    | some p => (s.modCore k (fun c => { c with patch := c.patch.filter (fun q => q.1 ≠ r) })).performIm k r p.2) s

/-- Make a new way mask known to the accesses of its cycle and after (06 R189). -/
def State.noteResize (s : State) (col cycle block mask : Nat) : State :=
  s.modCol col (fun c =>
    if c.resizes.contains (cycle, block, mask) then c else { c with resizes := c.resizes ++ [(cycle, block, mask)] })

/-- Whether an earlier-issued timed access is performed at or after a cycle in a way that becomes a cache way. -/
def Col.useInWays (c : Col) (block mask cycle issued : Nat) : Bool :=
  c.uses.any (fun u => u.space = block + 1 && cycle ≤ u.cycle && u.issued < issued && bitOf mask (u.row / 512))

def execTcresize (mask : BitVec 16) (block : Fin 8) (s : State) : Host.Outcome State Fault Refusal :=
  let col := colOf s.here.core
  s.checkThen (trapIf ((s.col col).useInWays block.val mask.toNat (s.here.cycle + 2) s.here.cycle) s.illegal)
    (fun s => .next ((s.noteResize col (s.here.cycle + 2) block.val mask.toNat).after 2 phEffect s.here.core
      (.ways col block.val mask.toNat)))

/-- A way mask takes effect: changed ways drop their lines, and a way that becomes scratchpad carries tag 0x00; of several masks of
one cycle the highest core's stands. -/
def doWays (s : State) (col block mask : Nat) : State :=
  let now := (s.groupOf (col * 8)).sched
  let old := FMap.get 0 (s.col col).ways block
  let mask := ((s.col col).resizes.filter (fun r => r.1 = now && r.2.1 = block)).foldl (fun _ r => r.2.2) mask
  let s := s.modCol col (fun c => { c with
    ways := FMap.set 0 c.ways block mask,
    resizes := c.resizes.filter (fun r => now ≤ r.1),
    lines := c.lines.filter (fun p => p.1 / 512 ≠ block || bitOf old (p.1 / 32 % 16) = bitOf mask (p.1 / 32 % 16)) })
  (List.range 16).foldl (fun s w =>
    if bitOf old w && !bitOf mask w then
      let first := cbAddr col block (512 * w) / 256
      { s with tags := s.tags.filter (fun p => p.1 < first || first + 512 ≤ p.1) }
    else s) s

/-! ### Rings (06 R190 to R196) -/

/-- The descriptor word of a ring (06 R190). -/
def Ring.descriptor (r : Ring) : Nat :=
  r.thresh * 2 ^ 40 + r.e * 2 ^ 24 + r.base * 2 ^ 8 + r.core * 2 ^ 4 + r.space

/-- A fresh ring of a descriptor word. -/
def Ring.ofDescriptor (d : Nat) : Ring :=
  { thresh := bitsOf d 52 40, e := bitsOf d 36 24, base := bitsOf d 20 8, core := bitsOf d 6 4, space := bitsOf d 3 0 }

/-- The ring register (06 R190). -/
def Ring.word (r : Ring) : Nat := r.head * 2 ^ 40 + r.claim * 2 ^ 20 + r.tail

/-- The colonnade and its ring that an instruction of the issuing core names. -/
def State.myRing (s : State) (g : GReg) : Ring := (s.col (colOf s.here.core)).ring g.val

/-- Whether the E rows of a ring lie in their space and outside cache ways (06 R192). -/
def State.ringRowsOk (s : State) (space base e : Nat) : Bool :=
  base + e ≤ rowsOf space &&
    (List.range 16).all (fun w => space = 0 ||
      !(bitOf ((s.col (colOf s.here.core)).waysAt (space - 1) (s.here.cycle + 1)) w &&
        base < 512 * (w + 1) && 512 * w < base + e))

def execRinit (g : GReg) (h : HReg) (e thresh : Fin 8192) (s : State) : Host.Outcome State Fault Refusal :=
  let hv := s.rh h
  let space := hget hv .space
  let base := hget hv .base
  let r : Ring := { thresh := thresh.val, e := e.val, base := base % 8192, space := space,
                    core := if space = 0 then coreNo s.here.core else 0 }
  s.checkThen (firstTrap
      [trapIf (h.val = 0 || e.val ∉ [1, 2, 4, 8, 16, 32, 64, 128, 256, 512, 1024, 2048, 4096] || e.val < thresh.val)
        (s.illegal 2),
       s.handleCheck hv true false false, trapIf (!s.ringRowsOk space base e.val) s.illegal])
    (fun s => .next (s.after 1 phEffect s.here.core (.ringInit (colOf s.here.core) g.val r.descriptor)))

/-- The look-ahead of RPUSH: room for n, which are reserved at once (06 R193). -/
def lookPush (g : GReg) (n : Nat) (s : State) : Look :=
  let r := s.myRing g
  if r.e < n then .trap (s.overrun g.val n)
  else if n ≤ r.room then
    .ok r.res (s.modRing (colOf s.here.core) g.val (fun r => { r with res := mod20 (r.res + n) }))
  else .wait s

/-- The look-ahead of RCLAIM, and of RPOP with a handle: n filled, claimed at once (06 R194). A shortfall freezes before an RPOP's check of
entries already claimed (log entry 123). -/
def lookClaim (g : GReg) (n : Nat) (pop : Bool) (s : State) : Look :=
  let r := s.myRing g
  if r.e < n then .trap (s.overrun g.val n)
  else if r.filled < n then .wait s
  else if pop && r.claimed ≠ 0 then .trap (s.overrun g.val n)
  else
    .ok r.claim (s.modRing (colOf s.here.core) g.val (fun r =>
      { r with claim := mod20 (r.claim + n), promised := if pop then r.promised + n else r.promised }))

/-- The look-ahead of RPOP without a handle: n claimed and not yet promised for release, which are promised now (06 R194; log entry 123). -/
def lookRelease (g : GReg) (n : Nat) (s : State) : Look :=
  let r := s.myRing g
  if r.e < n || r.claimed < r.promised + n then .trap (s.overrun g.val n)
  else .ok r.head (s.modRing (colOf s.here.core) g.val (fun r => { r with promised := r.promised + n }))

/-- The entries of n counts from `start` on, as an end of a move. -/
def State.ringEnd (s : State) (g : GReg) (start n : Nat) : End :=
  let r := s.myRing g
  .ring r.space ((List.range' start n).map (fun x => r.entry (colOf s.here.core) (mod20 x)))

/-- RING_OVERRUN of a push on a ring whose earlier push is still copying (06 R193), judged at issue, after the look-ahead has found room (log
entry 132). -/
def State.copyingTrap (s : State) (g : GReg) (n : Nat) : Option Trap := trapIf (s.myRing g).copying (s.overrun g.val n)

def execRpush (g : GReg) (h : HReg) (n : Fin 512) (s : State) : Host.Outcome State Fault Refusal :=
  let col := colOf s.here.core
  let hv := s.rh h
  s.checkThen (trapIf (n.val = 0) (s.illegal 2)) (fun s =>
    if h.val = 0 then
      s.look (lookPush g n.val) (fun start s => s.checkThen (s.copyingTrap g n.val) (fun s =>
        .next (s.after 1 phPulse s.here.core (.ringTail col g.val start n.val false))))
    else
      s.checkThen (s.handleCheck hv true true false) (fun s => s.withSome (seqEnd hv n.val) (fun e =>
        s.look (lookBoth (lookPush g n.val) (lookEnds e (.queue .lq))) (fun start s =>
          s.checkThen (s.copyingTrap g n.val) (fun s =>
            let dst := s.ringEnd g start n.val
            goMove e dst n.val 0 false (fun steps s =>
              (s.modRing col g.val (fun r => { r with copying := true })).atCycle s.here.core
                (planEnd (e.alpha + dst.beta) steps s.here.cycle + 1) phPulse s.here.core
                (.ringTail col g.val start n.val true)) s)))))

def execRclaim (g : GReg) (h : HReg) (n : Fin 512) (s : State) : Host.Outcome State Fault Refusal :=
  let hv := s.rh h
  s.checkThen (trapIf (n.val = 0) (s.illegal 2)) (fun s =>
    if h.val = 0 then s.look (lookClaim g n.val false) (fun _ s => .next s)
    else
      s.checkThen (s.handleCheck hv true true true) (fun s => s.withSome (seqEnd hv n.val) (fun e =>
        s.look (lookBoth (lookClaim g n.val false) (lookEnds (.queue .lq) e)) (fun start s =>
          goMove (s.ringEnd g start n.val) e n.val 0 false noPost s))))

def execRpop (g : GReg) (h : HReg) (n : Fin 512) (s : State) : Host.Outcome State Fault Refusal :=
  let col := colOf s.here.core
  let hv := s.rh h
  s.checkThen (trapIf (n.val = 0) (s.illegal 2)) (fun s =>
    if h.val = 0 then
      s.look (lookRelease g n.val) (fun _ s => .next (s.after 1 phPulse s.here.core (.ringHead col g.val n.val)))
    else
      s.checkThen (s.handleCheck hv true true true) (fun s => s.withSome (seqEnd hv n.val) (fun e =>
        s.look (lookBoth (lookClaim g n.val true) (lookEnds (.queue .lq) e)) (fun start s =>
          goMove (s.ringEnd g start n.val) e n.val 0 false (fun steps s =>
            s.atCycle s.here.core (planEnd 0 steps s.here.cycle + 1) phPulse s.here.core
              (.ringHead col g.val n.val)) s))))

/-- Undo what the look-ahead did to a ring in this cycle for cores above `k`, which come after it in the cycle's order (06 R196). -/
def State.ringFor (s : State) (k : Nat) (g : GReg) : Ring :=
  let above := (List.range 8).filterMap (fun j => let c := colOf k * 8 + j; if k < c then some c else none)
  let asks := above.flatMap (fun c => (s.core c).asks.filter (fun a => (a.done || a.part) && a.trap.isNone && a.doneAt = s.wall))
  asks.foldl (fun r a =>
    match a.sl.op with
    | .rpush g' _ n => if g' = g then { r with res := mod20 (r.res + 2 ^ 20 - n.val) } else r
    | .rclaim g' _ n => if g' = g then { r with claim := mod20 (r.claim + 2 ^ 20 - n.val) } else r
    | .rpop g' h n => if g' = g && h.val ≠ 0 then { r with claim := mod20 (r.claim + 2 ^ 20 - n.val) } else r
    | .nrecv _ _ nc g' => if g' = g then { r with claim := mod20 (r.claim + 2 ^ 20 - 4 ^ nc.val) } else r
    | _ => r) ((s.col (colOf k)).ring g.val)

/-- RSTAT: the ring's words as of its bundle, written at c+3 with the handle's tag. -/
def execRstat (g : GReg) (h : HReg) (s : State) : Host.Outcome State Fault Refusal :=
  let hv := s.rh h
  let c := s.here.cycle
  let r := s.ringFor s.here.core g
  let row := padTo 256 (leBytes 8 r.word ++ leBytes 8 r.descriptor ++ leBytes 8 r.res)
  s.checkThen (firstTrap [trapIf (h.val = 0) (s.illegal 2), s.handleCheck hv true false false])
    (fun s => s.withSome (idxRef hv 0) (fun f =>
      match s.resolve hv f (c + 3) with
      | .error t => .next (takeTrap s t s.here.bundle)
      | .ok p =>
        s.claimThen [(p, c + 3, false)] (fun s =>
          s.after 3 phWrite (rkStore s.here.core) (.put s.src (.rows [p] (hget hv .tag) true) [row]))))

/-- A publication of a timed RPUSH. -/
def doRingTail (s : State) (col g start n : Nat) (copied : Bool) : State :=
  let s := if copied then s.modRing col g (fun r => { r with copying := false }) else s
  s.publishRing col g start n

/-- A release: HEAD advances over the oldest claimed entries. -/
def doRingHead (s : State) (col g n : Nat) : State :=
  s.modRing col g (fun r => Ring.retire 128 { r with head := mod20 (r.head + n), promised := r.promised - n })

/-! ### Atomics (06 R198, R199) -/

/-- The new field of an atomic and its flags: 0 ATADD, 1 ATMIN, 2 ATMAX, 3 ATXCH, 4 ATCAS, 5 ATOR, 6 ATRADD. -/
def atomicNew (op w v x y : Nat) : Nat × Nat :=
  match op with
  | 0 => ((v + x) % 2 ^ w, 0)
  | 1 => (minS w v x, 0)
  | 2 => (maxS w v x, 0)
  | 3 => (x, 0)
  | 4 => (if v = x then y else v, 0)
  | 5 => (orW w v x, 0)
  | _ => f32F.add .rne v x

/-- An atomic on a field of a scratchpad or block row. -/
def atomic (op : Nat) (x : AtArgs) (s : State) : Host.Outcome State Fault Refusal :=
  let hv := s.rh x.handle
  let w := x.sz.bits
  let c := s.here.cycle
  s.checkThen (firstTrap [trapIf (x.byte.val % (w / 8) ≠ 0 || (op ≠ 4 && x.b.val ≠ 0) || (op = 6 && x.sz ≠ .w32))
        (s.illegal 2), s.handleCheck hv true false false])
    (fun s => s.withSome (idxRef hv x.off.val) (fun f =>
      match s.placesAt hv [(f, c + 2), (f, c + 3), (f, c + 4)] with
      | .ok (r :: _) =>
        s.claimThen (rmwUses r (c + 2)) (fun s =>
          (s.pendS x.d.val (c + 4)).after 2 phRead s.here.core
            (.rmwRead s.src op r x.byte.val w x.d.val (lowBits w (s.rs x.a)) (lowBits w (s.rs x.b))))
      | .ok [] => .next s
      | .error t => .next (takeTrap s t s.here.bundle)))

def execAtadd (x : AtArgs) (s : State) := atomic 0 x s
def execAtmin (x : AtArgs) (s : State) := atomic 1 x s
def execAtmax (x : AtArgs) (s : State) := atomic 2 x s
def execAtxch (x : AtArgs) (s : State) := atomic 3 x s
def execAtcas (x : AtArgs) (s : State) := atomic 4 x s
def execAtor (x : AtArgs) (s : State) := atomic 5 x s
def execAtradd (x : AtArgs) (s : State) := atomic 6 x s

/-- An atomic at its read cycle: the new field, the old value to s[d] and the flags follow two cycles later. -/
def doRmwRead (s : State) (src : Src) (op : Nat) (r : RowAt) (byte w d x y : Nat) : State :=
  let now := (s.groupOf src.core).sched
  let v := fieldAt (s.readRow r) byte w
  let n := atomicNew op w v x y
  let s := s.atCycle src.core (now + 2) phWrite rkRmw (.masked src r 0 false (8 * byte) w n.1)
  let s := s.atCycle src.core (now + 2) phReg 0 (.eff src.core (.setS d (sextW w v)))
  if n.2 = 0 then s else s.atCycle src.core (now + 2) phReg 0 (.eff src.core (.flags n.2))

/-! ### Entry consistency (06 R200 to R202; 04 R115 to R121) -/

/-- Rows of a handle's region: DIM1·PITCH from BASE on, a PITCH of 0 taken as 1. -/
def regionRows (h : Handle) : Nat := hget h .dim1 * (if hget h .pitch = 0 then 1 else hget h .pitch)

/-- Spaces that hold regions: scratchpad, blocks, device and peer memory. -/
def regionSpace (h : Handle) : Bool := hget h .space ≤ 8 || (10 ≤ hget h .space && hget h .space ≤ 13)

/-- Whether two extents of one space overlap. -/
def Binding.meets (b : Binding) (space base count : Nat) : Bool :=
  b.space = space && base < b.base + b.count && b.base < base + count

/-- The bindings after a BIND, none where it would make a seventeenth. -/
def bindings (l : List Binding) (space base count objSpace objRow : Nat) : Option (List Binding) :=
  if count = 0 then some (l.filter (fun b => !(b.space = space && b.base = base)))
  else
    let r := l.filter (fun b => !b.meets space base count)
    if 16 ≤ r.length then none else some (r ++ [⟨space, base, count, objSpace, objRow⟩])

def execBind (hr ho : HReg) (s : State) : Host.Outcome State Fault Refusal :=
  let r := s.rh hr
  let o := s.rh ho
  let sp := hget r .space; let base := hget r .base; let n := regionRows r
  s.checkThen (firstTrap [trapIf (!handleUsable r || !handleUsable o || !regionSpace r || !regionSpace o) s.illegal,
      trapIf (bindings s.me.binds sp base n (hget o .space) (hget o .base)).isNone s.illegal])
    (fun s => .next (s.effectAfter 1 (.bind sp base n (hget o .space) (hget o .base))))

/-- The regions that a core has bound to an object. -/
def Core.regionsOf (c : Core) (space row : Nat) : List (Nat × Nat × Nat) :=
  (c.binds.filter (fun b => b.objSpace = space && b.objRow = row)).map (fun b => (b.space, b.base, b.count))

/-- Regions from the flat list of an event. -/
def regionsOfFlat : List Nat → List (Nat × Nat × Nat)
  | a :: b :: c :: r => (a, b, c) :: regionsOfFlat r
  | _ => []

/-- Whether an untimed REL waits for the cycle in which the last of its core's earlier accesses to its regions is performed (04 R117). -/
def State.relWaits (s : State) (e : EvArgs) : Bool :=
  (s.groupOf e.core).agenda.any (fun it => match it.work with
    | .event ⟨.untimedRel, a⟩ => a.core = e.core && a.gen = e.gen
    | _ => false)

/-- The untimed RELs of a core to an object that are still on their way with their earlier accesses performed, oldest first (04 R117, R119). -/
def State.openRels (s : State) (core space row : Nat) : List EvArgs :=
  ((s.core core).rels.filter (fun r => r.tag = space && r.addr = row)).takeWhile (fun r => !s.relWaits r)

/-- A version of an object with the fields of the core's own RELs that still wait for earlier accesses: the core's ACQ reads its own versions
although no other can yet (04 R119; log entry 104). -/
def State.ownVersion (s : State) (core space row : Nat) (v : List Byte) : List Byte :=
  ((s.core core).rels.filter (fun r => r.tag = space && r.addr = row)).foldl (fun d r => patchBytes d r.index r.bytes) v

/-- Whether rows of a REL's regions are still on their way home: a page of theirs is absent (04 R117). -/
def State.relHeld (s : State) (e : EvArgs) : Bool :=
  let regions := regionsOfFlat e.cols
  (s.col (colOf e.core)).backs.any (fun p => regions.any (fun r => r.1 = 10 && r.2.1 ≤ p.2.1 && p.2.1 < r.2.1 + r.2.2))

/-- An untimed REL to a row or a device object is performed: the dirty lines of the bound regions are written back, and when they are home the
object's field is written at its home, a row through the open port with tag 0x00 (06 R202; 04 R105, R117); nothing is while a page of a
region or of the object is absent. -/
def State.performRel (s : State) (e : EvArgs) : State :=
  let s := s.flushRegions (colOf e.core) (regionsOfFlat e.cols)
  if s.relHeld e then s
  else
  let done (s : State) : State := s.modCore e.core (fun c => { c with rels := c.rels.filter (fun r => r.gen ≠ e.gen) })
  if e.tag ≤ 8 then
    let r := rowAt e.core e.tag e.addr
    let s := s.notePort r.addr 256
    done (({ s with mem := s.mem.writeBytes (r.addr + e.index) e.bytes } : State).setTag r 0)
  else if (s.unitOf e.core (e.addr * 256)).isSome then done (s.writeDv e.core (e.addr * 256 + e.index) e.bytes)
  else s

/-- An ACQ follows the core's own RELs to its object: those on their way to a row or device object whose earlier accesses are performed are
performed first, in their order (04 R117, R119; log entry 104). -/
def State.forceRels (s : State) (core space row : Nat) : State :=
  (if space ≤ 10 then s.openRels core space row else []).foldl (fun s r =>
    if ((s.openRels core space row).head?.map (·.gen)) = some r.gen then s.performRel r else s) s

/-- The look-ahead of an ACQ of a device or peer object: the group freezes at the bundle until the version returns (06 R201); it is
asked for at the bundle's own cycle, after the core's own RELs to the object (04 R119). A device object's address is translated; a peer's is
asked for over its port, once that is UP and paired (14 R403, R419). -/
def lookAcq (h : Handle) (s : State) : Look :=
  let k := s.here.core
  let home := hget h .space
  let row := hget h .base
  if home = 10 && s.me.translate (row * 256) = .range then .trap (s.trapHere .translationRange (row * 256) 9)
  else if (s.groupOf k).sched ≠ s.here.cycle then .wait s
  else if s.me.acqData.isSome then .ok 0 (s.modMe (fun c => { c with acqData := c.acqData.map (s.ownVersion k home row) }))
  else if s.me.acqAsked then .wait s
  else
    let s := s.forceRels k home row
    if !(s.openRels k home row).isEmpty then .wait s
    else
    let part := (s.instOf k).part
    if home = 10 then
      let s := s.modMe (fun c => { c with acqAsked := true })
      let sl := s.freshSlack
      .wait (sl.2.eventAt (s.wall + 1 + sl.1) .acqVersionReturn { core := k, tag := home, addr := row * 256 })
    else if s.portReady (home - 10) part then
      .wait ((s.modMe (fun c => { c with acqAsked := true, acqPort := home - 10 })).sendMessages (home - 10) true
        [((s.link (home - 10)).peerOf part).getD 0, 4, row * 256] [])
    else .wait s

def execAcq (h : HReg) (d : SReg) (sz : Sz) (i : Fin 8) (s : State) : Host.Outcome State Fault Refusal :=
  let hv := s.rh h
  let w := sz.bits
  let byte := i.val * (w / 8)
  let c := s.here.cycle
  let regions := s.me.regionsOf (hget hv .space) (hget hv .base)
  let home := hget hv .space
  s.checkThen (trapIf (!handleUsable hv || !regionSpace hv || (9 ≤ home && 32 < byte + w / 8) ||
      (home = 10 && dvRows ≤ hget hv .base)) s.illegal) (fun s =>
    if home ≤ 8 then
      s.withSome (idxRef hv 0) (fun f =>
        match s.resolve hv f (c + 2) with
        | .error t => .next (takeTrap s t s.here.bundle)
        | .ok r =>
          s.claimThen [(r, c + 2, false)] (fun s =>
            (s.pendS d.val (c + 3 + alphaOf home)).after 2 phRead s.here.core
              (.acq s.src r byte w d.val (1 + alphaOf home) regions)))
    else
      s.look (lookAcq hv) (fun _ s =>
        let v := match s.me.acqData with | some b => leAt b byte (w / 8) | none => 0
        let s := s.modMe (fun c => { c with acqData := none, acqAsked := false })
        .next ((s.pendS d.val (c + 4)).after 4 phReg 0
          (.eff s.here.core (.acqDone d.val (BitVec.ofNat 64 v) regions)))))

/-- An ACQ of a row at its read cycle. -/
def doAcq (s : State) (src : Src) (r : RowAt) (byte w d delay : Nat) (regions : List (Nat × Nat × Nat)) : State :=
  let now := (s.groupOf src.core).sched
  let s := s.forceRels src.core r.space r.row
  s.atCycle src.core (now + delay) phReg 0
    (.eff src.core (.acqDone d (BitVec.ofNat 64 (fieldAt (s.ownVersion src.core r.space r.row (s.readRow r)) byte w)) regions))

/-- The last cycle at which an access of the core to a region is performed. -/
def Core.lastTouch (c : Core) (core : Nat) (regions : List (Nat × Nat × Nat)) : Nat :=
  c.issued.foldl (fun m p =>
    let inside := regions.any (fun r =>
      let k := (rowAt core r.1 r.2.1)
      let first := if r.1 ≤ 9 then k.addr / 256 else r.1 * 2 ^ 60 + r.2.1
      first ≤ p.1 && p.1 < first + r.2.2)
    if inside && m < p.2 then p.2 else m) 0

/-- Regions as a flat list, for the event of an untimed REL. -/
def flatRegions (l : List (Nat × Nat × Nat)) : List Nat := l.flatMap (fun r => [r.1, r.2.1, r.2.2])

def execRel (h : HReg) (d : SReg) (sz : Sz) (i : Fin 8) (s : State) : Host.Outcome State Fault Refusal :=
  let hv := s.rh h
  let w := sz.bits
  let byte := i.val * (w / 8)
  let c := s.here.cycle
  let home := hget hv .space
  let regions := s.me.regionsOf home (hget hv .base)
  let p := s.me.lastTouch s.here.core regions
  let t := max (c + 3) (p + 1)
  s.checkThen (trapIf (!handleUsable hv || !regionSpace hv || (9 ≤ home && 32 < byte + w / 8)) s.illegal) (fun s =>
    if home ≤ 8 && regions.all (fun r => r.1 ≤ 8) then
      s.withSome (idxRef hv 0) (fun f =>
        match s.resolve hv f t with
        | .error t => .next (takeTrap s t s.here.bundle)
        | .ok r =>
          s.claimThen [(r, t, false)] (fun s =>
            s.after (t - c) phWrite (rkStore s.here.core)
              (.masked s.src r 0 false (8 * byte) w (lowBits w (s.rs d)))))
    else
      let a : EvArgs :=
        { core := s.here.core, tag := home, addr := hget hv .base, index := byte, gen := s.ctr + 1, value := s.wall + 1,
          bytes := leBytes (w / 8) (lowBits w (s.rs d)), cols := flatRegions regions }
      s.checkThen (firstTrap [trapIf (home ≤ 8 && !s.rowOk s.here.core (rowAt s.here.core home (hget hv .base)) c) s.illegal,
          trapIf (home = 10 && dvRows ≤ hget hv .base) s.illegal,
          trapIf (home = 10 && s.me.translate (hget hv .base * 256) = .range)
            (s.trapHere .translationRange (hget hv .base * 256) 9)]) (fun s =>
        let s := ({ s with ctr := s.ctr + 2 } : State).modMe (fun k => { k with rels := k.rels ++ [a] })
        if p < c then
          let sl := s.freshSlack
          .next (sl.2.eventAt (s.wall + 1 + sl.1) .untimedRel a)
        else .next (s.after (p + 1 - c) phReg 1 (.event ⟨.untimedRel, a⟩))))

/-! ### QFENCE and SEQTAG (06 R203, R204) -/

/-- Keys (engine code · 16 + queue) of the queues a QFENCE names. -/
def fenceKeys (all : Bool) (mask : Nat) (engine : Nat) : List Nat :=
  if all then (List.range 160).filter (fun k => k % 16 < engineQueues (k / 16))
  else ((List.range 8).filter (fun q => bitOf mask q)).map (engine * 16 + ·)

/-- Serial numbers of a core's cards that have not completed, in the queues named. -/
def State.openCards (s : State) (core : Nat) (keys : List Nat) : List Nat :=
  s.queues.flatMap (fun p =>
    if keys.contains (p.1 / 256 * 16 + p.1 % 16) then
      ((p.2.cards ++ p.2.transit ++ p.2.running.toList).filter (fun c => c.core = core)).map (·.serial)
    else [])

/-- QFENCE: the core's cards of the queues named, its writes and its untimed RELs to rows come before its later cards to those queues; a card
in the X slot of its own bundle counts as later (04 R123; log entry 97). -/
def execQfence (all : Bool) (mask : Byte) (engine : Fin 16) (s : State) : Host.Outcome State Fault Refusal :=
  let bad := if all then mask ≠ 0 || engine.val ≠ 0
    else mask = 0 || engineQueues engine.val = 0 || 2 ^ engineQueues engine.val ≤ mask.toNat
  let keys := fenceKeys all mask.toNat engine.val
  let rels := (s.me.rels.filter (fun r => r.tag ≤ 8)).map (·.gen)
  let cards := s.openCards s.here.core keys ++ rels
  let still := s.openCards s.here.core (fenceKeys true 0 0) ++ rels
  s.orTrap (trapIf bad (s.illegal 2)) (s.modMe (fun c =>
    { c with fences := ⟨keys, cards, c.lastWrite⟩ ::
        c.fences.filter (fun f => s.here.cycle ≤ f.writes || f.cards.any still.contains) }))

/-- SEQTAG: the tags of T(hD) by groups from c+2 on. -/
def execSeqtag (h : HReg) (n : Fin 2048) (s : State) : Host.Outcome State Fault Refusal :=
  let hv := s.rh h
  s.checkThen (firstTrap [trapIf (n.val = 0) (s.illegal 2), s.handleCheck hv true false false])
    (fun s => s.withSome (seqEnd hv n.val) (fun e =>
      match s.plan e (.queue .lq) n.val (s.here.cycle + 2) false with
      | .error t => .next (takeTrap s t s.here.bundle)
      | .ok steps =>
        s.claimThen (planUses 0 steps) (fun s => steps.foldl (fun s st =>
          s.atCycle s.here.core st.time phTag s.here.core (.tagRows s.src st.src (hget hv .tag))) s)))

end Sys2Proof.Machine
end

