-- ==== Sys2Proof/Machine/Matrix.lean ====
section
/-! DEFINITION. The matrix engine (07 R206 to R218, 03 R85 to R89): configuration, the loop nest and its passes, accumulator
slots and watermarks, constant and cooperative operands. -/

namespace Sys2Proof.Machine

/-- ILLEGAL for a field value that no encoding of the instruction may carry. -/
def State.wfCheck (s : State) (i : Instr) : Option Trap := trapIf (!i.wf) (s.illegal 2)

/-! ### Accumulator slots (07 R213 to R215) -/

/-- Whether a slot is OWNED. -/
def Core.isOwned (c : Core) (slot : Nat) : Bool := FMap.get false c.owned slot

/-- Whether a slot is busy with an MGO or an MDRAIN at a cycle: through the cycle of the last write-back or read
(log entry 18). -/
def Core.mgoBusyAt (c : Core) (slot cycle : Nat) : Bool := cycle < FMap.get 0 c.mgoBusy slot
def Core.drainBusyAt (c : Core) (slot cycle : Nat) : Bool := cycle < FMap.get 0 c.drainBusy slot
def Core.busyAt (c : Core) (slot cycle : Nat) : Bool := c.mgoBusyAt slot cycle || c.drainBusyAt slot cycle

/-- The watermark of a slot at a cycle: the last planned value in force. -/
def Core.markAt (c : Core) (slot cycle : Nat) : Nat :=
  ((FMap.get [] c.wmark slot).filter (fun p => p.1 ≤ cycle)).foldl (fun _ p => p.2) 0

/-- Plan watermark values from cycles on; an MGO's first pass discards what earlier work planned from then on. -/
def Core.planMark (c : Core) (slot now : Nat) (plan : List (Nat × Nat)) : Core :=
  let first := (plan.map (·.1)).foldl min (plan.headD (0, 0)).1
  let old := (FMap.get [] c.wmark slot).filter (fun p => p.1 < first)
  let keep := (old.filter (fun p => p.1 ≤ now)).getLast?.toList ++ old.filter (fun p => now < p.1)
  { c with wmark := FMap.set [] c.wmark slot (keep ++ plan) }

/-- TVAL of SCHED KIND 6 and KIND 7 (07 R225). -/
def slotTval (slot : Nat) (free : Bool) (op : Nat) : Nat := schedTval 6 (slot * 2 ^ 16 + (if free then 2 ^ 8 else 0) + op)
def reasonTval (reason op : Nat) : Nat := schedTval 7 (reason * 2 ^ 56 + op)

/-- WATERMARK (05 R155). -/
def markTval (slot row w : Nat) : Nat := slot * 2 ^ 16 + row * 2 ^ 8 + w

/-- SCHED KIND 6 for a busy slot. -/
def State.busyTrap (s : State) (slot op : Nat) : Option Trap :=
  trapIf (s.me.busyAt slot s.here.cycle) (s.trapHere .sched (slotTval slot false op) 9)

def execMrel (a : ASlot) (s : State) : Host.Outcome State Fault Refusal :=
  s.orTrap (s.busyTrap a.val 0x05)
    ((s.effectAfter 1 (.mrel a.val)).modMe (fun c => c.planMark a.val s.here.cycle [(s.here.cycle + 1, 0)]))

/-- MCLR: OWNED with W = 64 from c+1, and cleared by a write of cycle c+1. -/
def execMclr (a : ASlot) (s : State) : Host.Outcome State Fault Refusal :=
  s.orTrap (s.busyTrap a.val 0x06)
    (((s.effectAfter 1 (.own a.val)).after 1 phWrite 1 (.eff s.here.core (.mclr a.val))).modMe
      (fun c => c.planMark a.val s.here.cycle [(s.here.cycle + 1, 64)]))

def execMscale (a : ASlot) (e : BitVec 15) (s : State) : Host.Outcome State Fault Refusal :=
  s.orTrap (s.busyTrap a.val 0x0C) (s.effectAfter 1 (.mscale a.val e.toInt))

/-! ### Configuration (07 R209, R210, R216, R217) -/

def execMcfg (field : Fin 8) (l : Word32) (s : State) : Host.Outcome State Fault Refusal :=
  s.orTrap (s.wfCheck (.mcfg field l)) (s.effectAfter 1 (.mcfg field.val l.toNat))

def execMcfgi (level : Fin 8) (count : Fin 4096) (s : State) : Host.Outcome State Fault Refusal :=
  s.orTrap (s.wfCheck (.mcfgi level count)) (s.effectAfter 1 (.mcfgi level.val count.val))

def execMswap (s : State) : Host.Outcome State Fault Refusal := .next (s.effectAfter 1 .mswap)

def execMconst (l : Word32) (s : State) : Host.Outcome State Fault Refusal :=
  s.orTrap (s.wfCheck (.mconst l)) (s.effectAfter 1 (.mconst l.toNat))

def execMconstOff (s : State) : Host.Outcome State Fault Refusal := .next (s.effectAfter 1 (.mconst 0))

def execMcoop (l : Word32) (s : State) : Host.Outcome State Fault Refusal :=
  s.orTrap (s.wfCheck (.mcoop l)) (s.effectAfter 1 (.mcoop l.toNat))

def execMcoopOff (s : State) : Host.Outcome State Fault Refusal := .next (s.effectAfter 1 (.mcoop 0))

/-! ### The loop nest (07 R211) -/

/-- Fields of the copied configuration. -/
def MgoRun.cnt (r : MgoRun) (l : Nat) : Nat := bitsOf (r.words[l]?.getD 0) 11 0 + 1
def MgoRun.glob (r : MgoRun) : Nat := r.words[6]?.getD 0
def MgoRun.pa (r : MgoRun) : Nat := bitsOf r.glob 14 11 + 1
def MgoRun.pb (r : MgoRun) : Nat := bitsOf r.glob 19 16 + 1
def MgoRun.signA (r : MgoRun) : Bool := bitOf r.glob 15
def MgoRun.signB (r : MgoRun) : Bool := bitOf r.glob 20
/-- Cycles of a pass. -/
def MgoRun.len (r : MgoRun) : Nat := r.pa * r.pb

/-- Iterations of a level in pass n, level 0 fastest. -/
def MgoRun.iter (r : MgoRun) (n l : Nat) : Nat :=
  n / ((List.range l).foldl (fun m j => m * r.cnt j) 1) % r.cnt l

/-- Passes of the nest. -/
def MgoRun.passes (r : MgoRun) : Nat := (List.range 6).foldl (fun m l => m * r.cnt l) 1

/-- A starting index plus the steps of all levels: `lo` is the step's field, `w` its width. -/
def MgoRun.index (r : MgoRun) (base lo w n : Nat) : Nat :=
  (List.range 6).foldl (fun x l => x + r.iter n l * bitsOf (r.words[l]?.getD 0) (lo + w - 1) lo) base % 2 ^ w

def MgoRun.latchA (r : MgoRun) (n : Nat) : Nat := r.index (bitsOf r.glob 2 0) 12 3 n
def MgoRun.latchB (r : MgoRun) (n : Nat) : Nat := r.index (bitsOf r.glob 5 3) 15 3 n
def MgoRun.slot (r : MgoRun) (n : Nat) : Nat := r.index (bitsOf r.glob 10 6) 18 5 n

/-- Whether side A (bit 23) or B (bit 24) is taken in pass n: every level that reuses it is at 0. -/
def MgoRun.takes (r : MgoRun) (bit n : Nat) : Bool :=
  (List.range 6).all (fun l => !bitOf (r.words[l]?.getD 0) bit || r.iter n l = 0)

/-- Whether a side (false A, true B) is the constant one, or the cooperative one. -/
def MgoRun.isConst (r : MgoRun) (side : Bool) : Bool := bitOf r.const 4 && bitOf r.const 3 = side
def MgoRun.isCoop (r : MgoRun) (side : Bool) : Bool := bitOf r.coop 4 && bitOf r.coop 5 = side

/-- The slots a nest reaches, with the first and last pass of each. -/
def MgoRun.reach (r : MgoRun) : List (Nat × Nat × Nat) :=
  (List.range r.passes).foldl (fun acc n =>
    let sl := r.slot n
    if acc.any (fun p => p.1 = sl) then acc.map (fun p => if p.1 = sl then (sl, p.2.1, n) else p)
    else acc ++ [(sl, n, n)]) []

/-- Follow one side's latches over the nest: the plane counts that takes leave, and whether a pass uses a latch with
another count (07 R212). -/
def MgoRun.latchPlan (r : MgoRun) (side : Bool) (planes : FMap Nat) : FMap Nat × Bool :=
  let p := if side then r.pb else r.pa
  if r.isConst side then (planes, false)
  else
    (List.range r.passes).foldl (fun acc n =>
      let l := if side then r.latchB n else r.latchA n
      if r.takes (if side then 24 else 23) n then (FMap.set 0 acc.1 l p, acc.2)
      else
        let q := FMap.get 0 acc.1 l
        (acc.1, acc.2 || (q ≠ 0 && q ≠ p))) (planes, false)

/-- ILLEGAL operands of an MGO: a constant side that is not one unsigned plane, or that is also the cooperative side. -/
def MgoRun.bad (r : MgoRun) : Bool :=
  (r.isConst false && (r.pa ≠ 1 || r.signA || r.isCoop false)) ||
    (r.isConst true && (r.pb ≠ 1 || r.signB || r.isCoop true))

/-- The watermark plan of a slot: 0 from its first pass on, and each quarter after its last write-back. -/
def MgoRun.marks (r : MgoRun) (c first last : Nat) : List (Nat × Nat) :=
  (c + 3 + first * r.len, 0) ::
    (List.range 4).map (fun q => (c + 3 + (last + 1) * r.len + 3 + q, 16 * q + 16))

/-- What an MGO's issue notes in the core: slots busy until their last write-back, their watermarks, latch plane counts
and the end of the last pass. -/
def Core.noteMgo (c : Core) (r : MgoRun) (cycle : Nat) (reach : List (Nat × Nat × Nat)) : Core :=
  let c := reach.foldl (fun c p =>
    let fin := cycle + 3 + (p.2.2 + 1) * r.len + 6
    let c := { c with mgoBusy := FMap.set 0 c.mgoBusy p.1 (max (FMap.get 0 c.mgoBusy p.1) fin) }
    c.planMark p.1 cycle (r.marks cycle p.2.1 p.2.2)) c
  { c with mgoEnd := cycle + 3 + r.passes * r.len,
           laPlanes := (r.latchPlan false c.laPlanes).1, lbPlanes := (r.latchPlan true c.lbPlanes).1 }

def execMgo (clr : Bool) (s : State) : Host.Outcome State Fault Refusal :=
  let c := s.me
  let cy := s.here.cycle
  let r0 : MgoRun := { words := (List.range 7).map (FMap.get 0 c.cfgA), clr := clr, const := c.mconst, coop := c.mcoop,
                       lasts := [], seen := [], pass := 0, total := 0 }
  let reach := r0.reach
  let r := { r0 with lasts := reach.map (fun p => (p.1, p.2.2)), total := r0.passes }
  let sched (tv : Nat) : Trap := s.trapHere .sched tv 9
  s.orTrap (firstTrap
      [trapIf (cy + 3 < c.mgoEnd) (sched (reasonTval 0 0x04)),
       trapIf ((r.latchPlan false c.laPlanes).2 || (r.latchPlan true c.lbPlanes).2) (sched (reasonTval 1 0x04)),
       (reach.find? (fun p => !clr && !c.isOwned p.1)).map (fun p => sched (slotTval p.1 true 0x04)),
       (reach.find? (fun p => c.drainBusyAt p.1 cy)).map (fun p => sched (slotTval p.1 false 0x04)),
       trapIf r.bad s.illegal])
    (let s' := (s.modMe (fun c => c.noteMgo r cy reach)).after 2 phPop s.here.core (.mgo s.src r)
     let tap (side : Bool) (s : State) : State :=
       if r.isCoop side && !bitOf r.coop 6 then s.after 1 phPop s.here.core (.mgoTap s.src r side (cy + 2) 0) else s
     tap true (tap false s'))

/-! ### Passes -/

/-- Generate a constant tile (07 R216): one plane, exponents 0. -/
def MgoRun.constTile (r : MgoRun) (n : Nat) : Tile :=
  let gk0 : Int := 32 * (r.iter n (bitsOf r.const 7 5) : Int)
  let gl0 : Int := 64 * (r.iter n (bitsOf r.const 10 8) : Int) + signedOf 16 (r.const / 2 ^ 16)
  let one (x k : Nat) : Bool :=
    let gk := gk0 + k; let gl := gl0 + x
    match bitsOf r.const 2 0 with
    | 0 => true
    | 1 => decide (gk = gl)
    | 2 => decide (gk ≤ gl)
    | 3 => decide (gk < gl)
    | 4 => decide (gl ≤ gk)
    | _ => decide (gl < gk)
  let row := (List.range 64).flatMap (fun x =>
    leBytes 4 ((List.range 32).foldl (fun n k => if one x k then n + 2 ^ k else n) 0))
  { planes := 1, rows := [row, List.replicate 256 0] }

/-- Put the rows of a tile on a lane, two beats a row, from the next cycle on (07 R218). -/
def State.putTile (s : State) (src : Src) (lane : Nat) (rows : List Row) : State :=
  let now := (s.groupOf src.core).sched
  rows.zipIdx.foldl (fun s (p : Row × Nat) =>
    let s := s.atCycle src.core (now + 1 + 2 * p.2) phPop 0 (.beat src lane (stationOf src.core) 0 (p.1.take 128))
    s.atCycle src.core (now + 2 + 2 * p.2) phPop 0 (.beat src lane (stationOf src.core) 0 (p.1.drop 128))) s

/-- Where the beat of a take waits for it: by side, pass and number of the beat. -/
def tapKey (side : Bool) (n b : Nat) : Nat := (n * 64 + b) * 2 + (if side then 1 else 0)

/-- Read the beat of one cycle for the take of pass `n`, where the nest takes one: the beat of that cycle among those of the 2p + 2 cycles
up to the take's own (07 R218). -/
def State.tapBeat (s : State) (src : Src) (r : MgoRun) (side : Bool) (start n cycle : Nat) : State :=
  let p := if side then r.pb else r.pa
  let u := start + n * r.len
  let key := tapKey side n (cycle + 2 * p + 1 - u)
  if !r.takes (if side then 24 else 23) n || u < cycle || cycle + 2 * p + 1 < u || !(FMap.get [] (s.core src.core).taps key).isEmpty then s
  else
    match s.takeBeat src (bitsOf r.coop 3 0) (stationOf src.core) cycle (bitOf r.coop 7) with
    | (s1, none) => s1
    | (s1, some a) =>
      s1.modCore src.core (fun c => { c with taps := FMap.set [] c.taps key a.data })

/-- The passes of a nest whose takes read the beat of a cycle (07 R218). -/
def MgoRun.passesAt (r : MgoRun) (side : Bool) (start cycle : Nat) : List Nat :=
  let w := 2 * (if side then r.pb else r.pa) + 1
  let lo := ceilDiv (cycle + 1 - start) r.len
  let hi := min (r.total - 1) ((cycle + w - start) / r.len)
  List.range' lo (hi + 1 - lo)

/-- The beat of this cycle for the takes of a nest whose MGO is still to issue: it leaves the lane now; a missing one is the MGO's own to find
(01 R7; log entry 44). -/
def doForeTap (s : State) (src : Src) (r : MgoRun) (side : Bool) (start : Nat) : State :=
  let now := (s.groupOf src.core).sched
  (r.passesAt side start now).foldl (fun s n =>
    match (s.col (colOf src.core)).beatAt (bitsOf r.coop 3 0) (stationOf src.core) now with
    | some _ => s.tapBeat src r side start n now
    | none => s) s

/-- The beats of the takes of a nest on a lane, before the takes' own cycles: those of each cycle in that cycle, and those that had passed
when the MGO issued, if not foreseen, in the cycle after it (07 R218; log entry 44). -/
def doMgoTap (s : State) (src : Src) (r : MgoRun) (side : Bool) (start from_ : Nat) : State :=
  let now := (s.groupOf src.core).sched
  let p := if side then r.pb else r.pa
  let w := 2 * p + 1
  let first := if from_ = 0 then start - w else from_
  let s := (List.range' first (now + 1 - first)).foldl (fun s x =>
    (r.passesAt side start x).foldl (fun s n => s.tapBeat src r side start n x) s) s
  if now + 2 ≤ start + (r.total - 1) * r.len then s.atCycle src.core (now + 1) phPop src.core (.mgoTap src r side start (now + 1)) else s

/-- The beats of the take of pass `n`, in its own cycle: the last one off the lane, the others as they were read; none when one is missing. -/
def State.tapTile (s : State) (src : Src) (r : MgoRun) (side : Bool) : State × List Row :=
  let p := if side then r.pb else r.pa
  let now := (s.groupOf src.core).sched
  let s := s.tapBeat src r side (now - r.pass * r.len) r.pass now
  let data (b : Nat) : Row := FMap.get [] (s.core src.core).taps (tapKey side r.pass b)
  let rows := (List.range (p + 1)).filterMap (fun y =>
    if (data (2 * y)).isEmpty || (data (2 * y + 1)).isEmpty then none else some (data (2 * y) ++ data (2 * y + 1)))
  (s.modCore src.core (fun c => { c with
    taps := (List.range (2 * p + 2)).foldl (fun m b => FMap.set [] m (tapKey side r.pass b) []) c.taps }), rows)

/-- take(X, u) of one side: none when it trapped (07 R211, R218). -/
def State.takeTile (s : State) (src : Src) (r : MgoRun) (side : Bool) : State × Option Tile :=
  let p := if side then r.pb else r.pa
  let q : QueueId := if side then .mb else .ma
  let done (x : State × List Row) : State × Option Tile :=
    if x.2.length = p + 1 then (x.1, some { planes := p, rows := x.2 }) else (x.1, none)
  if r.isCoop side then
    if bitOf r.coop 6 then
      let x := s.pop src q (p + 1)
      if x.2.length = p + 1 then (x.1.putTile src (bitsOf r.coop 3 0) x.2, some { planes := p, rows := x.2 })
      else (x.1, none)
    else done (s.tapTile src r side)
  else done (s.pop src q (p + 1))

/-- The tile of one side in pass n, taken into its latch where the nest takes one. -/
def State.sideTile (s : State) (src : Src) (r : MgoRun) (side : Bool) : State × Option Tile :=
  let n := r.pass
  if r.isConst side then (s, some (r.constTile n))
  else
    let l := if side then r.latchB n else r.latchA n
    if r.takes (if side then 24 else 23) n then
      match s.takeTile src r side with
      | (s1, none) => (s1, none)
      | (s1, some t) =>
        (s1.modCore src.core (fun c =>
          if side then { c with lb := FMap.set {} c.lb l t } else { c with la := FMap.set {} c.la l t }), some t)
    else
      let c := s.core src.core
      (s, some (FMap.get {} (if side then c.lb else c.la) l))

/-- One pass, run at the cycle of its takes: the tiles, the slot's ownership, its write-backs, and the next pass. -/
def doMgo (s : State) (src : Src) (r : MgoRun) : State :=
  let t := (s.groupOf src.core).sched + 1
  let k := src.core
  match s.sideTile src r false with
  | (s1, none) => s1
  | (s1, some ta) =>
    match s1.sideTile src r true with
    | (s2, none) => s2
    | (s2, some tb) =>
      let sl := r.slot r.pass
      let first := !r.seen.contains sl
      let clr := first && r.clr
      let s3 := if clr then s2.atCycle k t phEffect 0 (.eff k (.own sl)) else s2
      let s4 := (List.range 4).foldl (fun s q =>
        s.atCycle k (t + r.len + 2 + q) phWrite 0
          (.eff k (.writeBack sl q clr ta tb r.pa r.pb r.signA r.signB))) s3
      if r.pass + 1 < r.total then
        s4.atCycle k (t + r.len - 1) phPop k
          (.mgo src { r with pass := r.pass + 1, seen := if first then sl :: r.seen else r.seen })
      else s4

/-- The integers of one line of a tile (03 R86); a zero tile is all zeros. -/
def Tile.line (t : Tile) (p : Nat) (signed : Bool) (m : Nat) : List Int :=
  if t.planes = 0 then List.replicate 32 0
  else
    let words := (List.range p).map (fun j => leAt (t.rows[j]?.getD []) (4 * m) 4)
    (List.range 32).map (fun k =>
      let x := words.zipIdx.foldl (fun n w => if bitOf w.1 k then n + 2 ^ w.2 else n) 0
      if signed then signedOf p x else (x : Int))

/-- The exponent of a line. -/
def Tile.exp (t : Tile) (p m : Nat) : Int := if t.planes = 0 then 0 else planeExp p t.rows m

/-- A sum of products. -/
def dot : List Int → List Int → Int
  | a :: r, b :: q => a * b + dot r q
  | _, _ => 0

/-- One chunk added to one accumulator (03 R88): the new value, SAT, NX. -/
def accumulate (a p d : Int) : Int × Bool × Bool :=
  let t : Int × Bool :=
    if p = 0 then (0, false)
    else if 0 ≤ d then (p * pow2 d, false)
    else
      let r := roundAt .rne 0 (intExact p d)
      (if p < 0 then -(r.1 : Int) else r.1, r.2)
  let x := a + t.1
  if 2 ^ 63 - 1 < x then (2 ^ 63 - 1, true, t.2)
  else if x < -(2 ^ 63) then (-(2 ^ 63), true, t.2)
  else (x, false, t.2)

/-- The write-back of rows 16q to 16q+15 of a pass (07 R211). -/
def Core.writeBack (c : Core) (slot q : Nat) (clr : Bool) (ta tb : Tile) (pa pb : Nat) (sa sb : Bool) : Core :=
  let c := if clr then { c with accSat := FMap.set false c.accSat slot false,
                                         accNx := FMap.set false c.accNx slot false } else c
  let e := FMap.get 0 c.accE slot
  let bs := (List.range 64).map (fun n => (tb.line pb sb n, tb.exp pb n))
  let res := (List.range' (16 * q) 16).flatMap (fun m =>
    let la := ta.line pa sa m
    let ea := ta.exp pa m
    bs.zipIdx.map (fun b =>
      let a : Int := if clr then 0 else (c.accWord slot m b.2).toInt
      accumulate a (dot la b.1.1) (ea + b.1.2 - e)))
  let c := c.setAcc slot (16 * q * 64) (res.map (fun r => BitVec.ofInt 64 r.1))
  { c with accSat := FMap.set false c.accSat slot (FMap.get false c.accSat slot || res.any (·.2.1)),
           accNx := FMap.set false c.accNx slot (FMap.get false c.accNx slot || res.any (·.2.2)) }

/-- MCLR's write. -/
def Core.clearSlot (c : Core) (a : Nat) : Core :=
  { c with acc := FMap.set [] c.acc a [], accBase := FMap.set 0 c.accBase a 0, accSat := FMap.set false c.accSat a false,
           accNx := FMap.set false c.accNx a false }

end Sys2Proof.Machine
end

