-- ==== Sys2Proof/Machine/Epilogue.lean ====
section
/-! DEFINITION. The epilogue of the matrix engine (07 R219 to R224): settings, drains, the mask, the heaps and the
log-sum-exp. -/

namespace Sys2Proof.Machine

def execMepi (l : Word32) (s : State) : Host.Outcome State Fault Refusal :=
  s.orTrap (s.wfCheck (.mepi l)) (s.effectAfter 1 (.mepi l.toNat))

/-! ### The mask (07 R221) -/

def execMmaskCausal (d : BitVec 16) (s : State) : Host.Outcome State Fault Refusal :=
  .next (s.effectAfter 4 (.mmask { mode := 0, d := d.toInt }))

def execMmaskWindow (d w : BitVec 16) (s : State) : Host.Outcome State Fault Refusal :=
  s.orTrap (s.wfCheck (.mmaskWindow d w)) (s.effectAfter 4 (.mmask { mode := 1, d := d.toInt, w := w.toNat }))

def execMmaskNone (s : State) : Host.Outcome State Fault Refusal := .next (s.effectAfter 4 (.mmask { mode := 3 }))

/-- MMASK.TREE reads its image's two rows at c+2 and c+3, with the handle's tag compared. -/
def execMmaskTree (h : HReg) (plen : Word32) (s : State) : Host.Outcome State Fault Refusal :=
  let hv := s.rh h
  let c := s.here.cycle
  s.checkThen (s.handleCheck hv true false false) (fun s =>
    match idxRef hv 0, idxRef hv 1 with
    | some a, some b =>
      match s.placesAt hv [(a, c + 2), (b, c + 3)] with
      | .ok [r0, r1] =>
        s.claimThen [(r0, c + 2, false), (r1, c + 3, false)] (fun s =>
          s.after 2 phRead s.here.core (.treeImage s.src r0 r1 (hget hv .tag) plen.toNat none))
      | .ok _ => .next s
      | .error t => .next (takeTrap s t s.here.bundle)
    | _, _ => .next (takeTrap s s.illegal s.here.bundle))

/-- The tree image at its read cycles. -/
def doTreeImage (s : State) (src : Src) (r0 r1 : RowAt) (tag plen : Nat) (first : Option Row) : State :=
  let now := (s.groupOf src.core).sched
  match first with
  | none =>
    match s.readTagged src [r0] tag with
    | .ok rows => s.atCycle src.core (now + 1) phRead src.core (.treeImage src r0 r1 tag plen (some (rows.headD [])))
    | .error s => s
  | some a =>
    match s.readTagged src [r1] tag with
    | .ok rows =>
      s.atCycle src.core (now + 1) phEffect 0
        (.eff src.core (.mmask { mode := 2, plen := plen, image := a ++ rows.headD [] }))
    | .error s => s

/-- keep(gm, gn) (07 R221). -/
def MaskCfg.keep (m : MaskCfg) (gm gn : Nat) : Bool :=
  match m.mode with
  | 0 => decide ((gn : Int) ≤ gm + m.d)
  | 1 => decide ((gm : Int) + m.d - m.w < gn ∧ (gn : Int) ≤ gm + m.d)
  | 2 => gn < m.plen || (gn < m.plen + 64 && gm < 64 && bitOf (leAt m.image (8 * gm) 8) (gn - m.plen))
  | _ => true

/-! ### Drains (07 R220) -/

/-- Fields of the epilogue setting. -/
def epiFmt (e : Nat) : Nat := bitsOf e 3 0
def epiHeap (e : Nat) : Bool := bitOf e 10

/-- The target format of an epilogue; code 0 is i64. -/
def epiTarget (f : Nat) : ElemFmt :=
  match f with
  | 0 => .int 64 true | 1 => .int 32 true | 2 => .int 16 true | 3 => .int 8 true | 4 => .flt f32F
  | 5 => .flt f16F | 6 => .flt bf16F | 7 => .flt e4m3F | _ => .flt e5m2F

/-- One element's conversion: the pattern, its flags, and the value offered to the heap (none when masked). -/
def drainElem (e : Nat) (accE : Int) (a : Word) (keep : Bool) (word : Nat) : Nat × Nat × Option Exact :=
  let t := epiTarget (epiFmt e)
  if epiFmt e = 0 then (if keep then a.toNat else 2 ^ 63, 0, none)
  else if !keep then ((convertNum t (bitOf e 6) .rne (.inf true)).1, 0, none)
  else
    let place : Int := accE + signedOf 8 (bitsOf e 23 16)
    let v0 : Exact := intExact a.toInt place
    let cx : Int := (bitsOf e 29 24 : Int) - 32
    let c : Exact := { neg := false, m := 1, e := cx, lam := some cx }
    let act := bitsOf e 8 7
    let v1 : Exact × Nat :=
      if act = 1 ∧ v0.neg then (intExact 0 place, 0)
      else if act = 2 ∧ c.lt { v0 with neg := false } then
        ({ c with neg := v0.neg, lam := some (if cx < place then cx else place) }, flagOF)
      else (v0, 0)
    let r := convertNum t (bitOf e 6) (Rnd.ofCode (bitsOf e 5 4) word) (.fin v1.1)
    (r.1, v1.2 ||| r.2, some v1.1)

/-- One drained row: converted bytes, flags, and the values the heap is offered. -/
def State.drainRow (s : State) (src : Src) (d : DrainRun) (m : Nat) : List Byte × Nat × List (Option Exact × Nat) :=
  let c := s.core src.core
  let gm := 64 * d.ty + m
  let accE := FMap.get 0 c.accE d.slot
  let w := (epiTarget (epiFmt d.epi)).width / 8
  let cells := (List.range 64).map (fun n =>
    let gn := 64 * d.tx + n
    let keep := !bitOf d.epi 9 || d.mask.keep gm gn
    let word := if bitsOf d.epi 5 4 = 2 then s.drawWord src.core 2 (gm * 2 ^ 32 + gn) else 0
    (drainElem d.epi accE (c.accWord d.slot m n) keep word, gn))
  (cells.flatMap (fun x => leBytes w x.1.1), cells.foldl (fun f x => f ||| x.1.2.1) 0,
   cells.map (fun x => (x.1.2.2, x.2)))

/-- The value by which a heap ranks an element: f32 to nearest even (07 R222). -/
def heapValue (v : Exact) : Nat := (convertFloat f32F false .rne (.fin v)).1

/-- An f32 pattern as an exact value. -/
def f32Exact (x : Nat) : Exact := match f32F.value x with | .fin y => y | _ => intExact 0 0

/-- The leaf of a fed element, and whether it was clamped (07 R223). -/
def lseLeaf (x : Nat) : (Nat × Int) × Bool :=
  let lim := intExact 1 30
  let v := f32Exact x
  let big := lim.lt { v with neg := false }
  let y : Exact := if big then { lim with neg := v.neg } else v
  let p := splitLn2 y.fx
  let s : Exact := if y.m = 0 then intExact 1 0
    else { neg := false, m := expFx p.2, e := -(fxBits : Int), sticky := true, lam := none }
  ((rneF32 s, if y.m = 0 then 0 else p.1), big)

/-- The combination of two pairs; a pair with s = 0 stands for an absent leaf (07 R223). -/
def lseJoin (a b : Nat × Int) : Nat × Int :=
  if a.1 = 0 then b
  else if b.1 = 0 then a
  else
    let hi := if a.2 < b.2 then b else a
    let lo := if a.2 < b.2 then a else b
    if 300 < hi.2 - lo.2 then hi
    else
      let x := f32Exact hi.1
      let y := f32Exact lo.1
      (rneF32 (x.add { y with e := y.e + (lo.2 - hi.2) }), hi.2)

/-- What a row with no leaf reads as. -/
def lseNone : Nat × Int := (0, -(2 ^ 31))

/-- Push the root of a feed's 64 leaves onto the stack of partials, joining completed subtrees of one level. -/
def lsePush : Nat → Nat → Nat × Int → List (Nat × Nat × Int) → List (Nat × Nat × Int)
  | 0, lvl, v, st => (lvl, v.1, v.2) :: st
  | fuel + 1, lvl, v, st =>
    match st with
    | (l, a, e) :: r => if l = lvl then lsePush fuel (lvl + 1) (lseJoin (a, e) v) r else (lvl, v.1, v.2) :: st
    | [] => [(lvl, v.1, v.2)]

/-- The final combine, most recent to oldest. -/
def lseRead (st : List (Nat × Nat × Int)) : Nat × Int :=
  st.foldl (fun acc p => lseJoin (p.2.1, p.2.2) acc) lseNone

/-- x ranks before y: larger value first, then the smaller index. -/
def rankBefore (x y : Nat × Nat) : Bool :=
  let a := f32Exact x.1; let b := f32Exact y.1
  b.lt a || (a.eqv b && x.2 < y.2)

/-- Insert an element in rank order. -/
def rankInsert (x : Nat × Nat) : List (Nat × Nat) → List (Nat × Nat)
  | [] => [x]
  | y :: r => if rankBefore x y then x :: y :: r else y :: rankInsert x r

/-- A feed of heap row h (07 R222, R223). -/
def Core.feed (c : Core) (h : Nat) (offers : List (Nat × Nat)) (leaves : List (Option (Nat × Int))) : Core :=
  let heap := (offers.foldl (fun l x => (rankInsert x l).take c.heapK) (FMap.get [] c.heaps h)).take c.heapK
  let root := (treeFold lseJoin 6 leaves).getD lseNone
  { c with heaps := FMap.set [] c.heaps h heap, lse := FMap.set [] c.lse h (lsePush 13 0 root (FMap.get [] c.lse h)) }

/-- One drained row at its read cycle (07 R220): the watermark, the conversion, the pushes and the feed; the
slot's SAT and NX are taken at the last read (log entry 94). -/
def doDrain (s : State) (src : Src) (d : DrainRun) (i : Nat) : State :=
  let now := (s.groupOf src.core).sched
  let k := src.core
  let m := d.first + i
  let w := (s.core k).markAt d.slot now
  if w ≤ m then lateTrap s src .watermark (markTval d.slot m w)
  else
    let r := s.drainRow src d m
    let bytes := d.carry ++ r.1
    let n := bytes.length / 256
    let s := (List.range n).foldl (fun s j =>
      s.atCycle k (now + 4) phPush k (.put src (.queue .sq) [(bytes.drop (256 * j)).take 256])) s
    let heap := epiHeap d.epi && m < (s.core k).heapRows
    let offers := r.2.2.filterMap (fun x => x.1.map (fun v => (heapValue v, x.2)))
    let leaves := r.2.2.map (fun x => x.1.map (fun v => lseLeaf (heapValue v)))
    let fl := d.flags ||| r.2.1 ||| flagIf (heap && leaves.any (fun x => match x with | some y => y.2 | none => false)) flagOF
    let s := if heap then s.atCycle k (now + 5) phWrite 3 (.feed src m offers (leaves.map (·.map (·.1)))) else s
    if i + 1 < d.count then
      s.atCycle k (now + 1) phRead k (.drain src { d with carry := bytes.drop (256 * n), flags := fl } (i + 1))
    else
      let c := s.core k
      let fl := fl ||| flagIf (FMap.get false c.accSat d.slot) flagOF ||| flagIf (FMap.get false c.accNx d.slot) flagNX
      if fl = 0 then s else s.atCycle k (now + 4) phReg 0 (.eff k (.flags fl))

/-- A feed at its completion: it is counted, and the 4,097th of a heap row since its reset raises SCHED KIND 7, reason 3 (07 R222, R223). -/
def doFeed (s : State) (src : Src) (row : Nat) (offers : List (Nat × Nat)) (leaves : List (Option (Nat × Int))) : State :=
  if 4096 ≤ FMap.get 0 (s.core src.core).feeds row then lateTrap s src .sched (reasonTval 3 0x07)
  else s.modCore src.core (fun c => { c.feed row offers leaves with feeds := FMap.modify 0 c.feeds row (· + 1) })

/-- The last completion among the feeds that drains issued so far bring, at the number of heap rows in force (07 R224). -/
def Core.feedEnd (c : Core) : Nat :=
  c.feeding.foldl (fun e d =>
    let fed := min d.2.2 (c.heapRows - d.2.1)
    if fed = 0 then e else max e (d.1 + 6 + fed)) 0

/-- MDRAIN: every row's watermark is judged as planned at its read cycle (07 R215). -/
def execMdrain (a : ASlot) (h : HReg) (q0 nq : Fin 4) (s : State) : Host.Outcome State Fault Refusal :=
  let hv := s.rh h
  let c := s.me
  let cy := s.here.cycle
  let first := 16 * q0.val
  let n := 16 * (nq.val + 1)
  let rows := (List.range n).map (fun i => (first + i, c.markAt a.val (cy + 2 + i)))
  let d : DrainRun := { slot := a.val, tx := hget hv .tx, ty := hget hv .ty, first := first, count := n,
                        epi := c.epi, mask := c.mask, carry := [], flags := 0 }
  s.orTrap (firstTrap
      [trapIf (4 < q0.val + nq.val + 1) (s.illegal 2), trapIf (!handleUsable hv) s.illegal,
       (rows.find? (fun p => p.2 ≤ p.1)).map (fun p => s.trapHere .watermark (markTval a.val p.1 p.2) 9)])
    ((s.modMe (fun c => { c with
        drainBusy := FMap.modify 0 c.drainBusy a.val (max (cy + 2 + n)),
        feeding := if epiHeap c.epi then (cy, first, n) :: c.feeding.filter (fun d => cy < d.1 + 7 + d.2.2) else c.feeding })).after 2
      phRead s.here.core (.drain s.src d 0))

/-! ### Heaps (07 R224) -/

/-- SCHED KIND 7, reason 2: a feed in progress. -/
def State.feedCheck (s : State) : Option Trap :=
  trapIf (s.here.cycle + 2 ≤ s.me.feedEnd) (s.trapHere .sched (reasonTval 2 0x09) 9)

def execMheapReset (k rows : Fin 64) (s : State) : Host.Outcome State Fault Refusal :=
  s.orTrap s.feedCheck (s.effectAfter 1 (.mheapReset (k.val + 1) (rows.val + 1)))

def execMheapDrain (s : State) : Host.Outcome State Fault Refusal :=
  s.orTrap s.feedCheck (s.after 2 phRead s.here.core (.heapDrain s.src false))

def execMheapDrainr (s : State) : Host.Outcome State Fault Refusal :=
  s.orTrap s.feedCheck (s.after 2 phRead s.here.core (.heapDrain s.src true))

/-- The rows that a heap drain pushes. -/
def Core.heapImage (c : Core) : List Row :=
  let pair (h : Nat) : List Row :=
    let l := FMap.get [] c.heaps h
    let bytes := (List.range 64).flatMap (fun j =>
      match l[j]? with
      | some e => leBytes 4 e.1 ++ leBytes 4 e.2
      | none => leBytes 4 0xFF800000 ++ leBytes 4 0xFFFFFFFF)
    [bytes.take 256, bytes.drop 256]
  let sums := (List.range c.heapRows).flatMap (fun h =>
    let p := lseRead (FMap.get [] c.lse h)
    leBytes 4 p.1 ++ leBytes 4 (wrapInt 32 p.2))
  (List.range c.heapRows).flatMap pair ++
    (List.range (ceilDiv c.heapRows 32)).map (fun i => padTo 256 ((sums.drop (256 * i)).take 256))

/-- MHEAP drain at its read cycle: the image is pushed one row a cycle, and DRAINR empties the state after the last. -/
def doHeapDrain (s : State) (src : Src) (empty : Bool) : State :=
  let now := (s.groupOf src.core).sched
  let k := src.core
  let rows := (s.core k).heapImage
  let s := rows.zipIdx.foldl (fun s (p : Row × Nat) =>
    s.atCycle k (now + p.2) phPush k (.put src (.queue .sq) [p.1])) s
  if empty then s.atCycle k (now + rows.length) phEffect 0 (.eff k .mheapEmpty) else s

/-- Empty every heap and log-sum-exp. -/
def Core.emptyHeaps (c : Core) : Core := { c with heaps := [], lse := [], feeds := [] }

end Sys2Proof.Machine
end

