-- ==== Sys2Proof/Machine/MemCommand.lean ====
section
/-! DEFINITION. The memory command engines: send edges, bank state and timing checks, the memory commands, refresh,
temperature, absent pages and the replay buffer, errors and tile-cache fills (09 R263 to R294; 06 R186). -/

namespace Sys2Proof.Machine

/-! ### Edges (09 R264) -/

/-- Whether a schedule cycle is a CK edge. -/
def isEdge (t : Nat) : Bool := t % 11 = 0 || t % 11 = 3 || t % 11 = 6 || t % 11 = 9

/-- The first edge at or after a cycle. -/
def edgeAt (t : Nat) : Nat :=
  if isEdge t then t else if isEdge (t + 1) then t + 1 else if isEdge (t + 2) then t + 2 else t + 3

/-- The edge index of an edge, and the cycle of an edge index. -/
def edgeIndex (t : Nat) : Nat := 4 * (t / 11) + t % 11 / 3
def edgeCycle (e : Nat) : Nat := 11 * (e / 4) + 3 * (e % 4)

/-! ### Checks at the send edge (09 R270) -/

/-- Opcodes: 1 DACT, 2 DRD, 3 DWR, 4 DPRE, 5 DPREA, 6 DREF, 7 DREFB, 8 DMRW, 9 DMRR, 0xA DZQ, 0xB DSREF, 0xE DPFS; 16 is
added for a latch or an exit. -/
def opAct : Nat := 1
def opRd : Nat := 2
def opWr : Nat := 3
def opPre : Nat := 4
def opPreA : Nat := 5
def opRef : Nat := 6
def opRefB : Nat := 7
def opMrw : Nat := 8
def opMrr : Nat := 9
def opZqStart : Nat := 0xA
def opZqLatch : Nat := 0x1A
def opSrEnter : Nat := 0xB
def opSrExit : Nat := 0x1B
def opPfs : Nat := 0xE

/-- Whether an edge lies less than `n` edges after an earlier one. -/
def near (last : Option Nat) (e n : Nat) : Bool :=
  match last with
  | some l => e < l + n
  | none => false

def Chan.bank (c : Chan) (b : Nat) : Bank := FMap.get {} c.banks b
def Chan.setBank (c : Chan) (b : Nat) (f : Bank → Bank) : Chan := { c with banks := FMap.set {} c.banks b (f (c.bank b)) }

/-- The banks that a DPRE or DPREA closes. -/
def Chan.closing (c : Chan) (m : MemCmd) : List Nat :=
  if m.op = opPreA then (List.range 16).filter (fun b => (c.bank b).row.isSome)
  else if m.op = opPre && (c.bank m.bank).row.isSome then [m.bank] else []

def Chan.allIdle (c : Chan) : Bool := (List.range 16).all (fun b => (c.bank b).row.isNone)

/-- Rule 0x02, bank and channel state. -/
def Chan.stateOk (c : Chan) (m : MemCmd) : Bool :=
  if m.op = opSrExit then c.selfRefresh
  else
    !c.selfRefresh &&
      (if m.op = opAct || m.op = opRefB then (c.bank m.bank).row.isNone
       else if m.op = opRd || m.op = opWr then (c.bank m.bank).row.isSome
       else if m.op = opRef || m.op = opMrw || m.op = opSrEnter then c.allIdle
       else true)

/-- The rules in the table's order, each with its breach. -/
def Chan.rules (c : Chan) (m : MemCmd) : List (Nat × Bool) :=
  let e := m.edge
  let b := c.bank m.bank
  let rw := m.op = opRd || m.op = opWr
  let act := m.op = opAct || m.op = opRefB
  let shut := (c.closing m).map c.bank
  [(0x02, !c.stateOk m),
   (0x03, rw && b.row ≠ some m.drow),
   (0x04, (rw || m.op = opAct) && m.xch ≠ m.ch),
   (0x10, rw && near b.actAt e 15),
   (0x11, (act && near b.preAt e 15) || (m.op = opRef && near c.preAt e 15)),
   (0x12, shut.any (fun b => near b.actAt e 34)),
   (0x13, act && near c.acts.head? e 4),
   (0x14, act && 4 ≤ (c.acts.filter (fun a => e < a + 16)).length),
   (0x15, rw && (near c.rdAt e 3 || near c.wrAt e 3)),
   (0x16, shut.any (fun b => near b.wrAt e 45)),
   (0x17, m.op = opRd && near c.wrAt e 25),
   (0x18, m.op = opWr && near c.rdAt e 19),
   (0x19, shut.any (fun b => near b.rdAt e 6)),
   (0x1A, m.op ≠ opMrr && near c.refAllAt e 224),
   (0x1B, m.op = opAct && near b.refAt e 112),
   (0x1C, (m.op = opMrw || m.op = opMrr) && near c.mrAt e 8),
   (0x1D, m.op = opZqLatch && (c.zqAt.isNone || near c.zqAt e 800)),
   (0x1E, near c.xsrAt e 232)]

/-- The rule that a command breaches, none when it may be sent. An absent translation leaves only rule 0x01, and a DPFS has
no other. -/
def Chan.breach (c : Chan) (m : MemCmd) : Option Nat :=
  if c.lastSend = some m.edge then some 0x01
  else if m.op = opPfs || m.state = 2 then none
  else ((c.rules m).find? (·.2)).map (·.1)

/-- What a sent command leaves (09 R270 to R275). -/
def Chan.sent (c : Chan) (m : MemCmd) : Chan :=
  let e := m.edge
  let c := { c with lastSend := some e }
  if m.state = 2 then c
  else match m.op with
  | 1 => { (c.setBank m.bank (fun b => { b with row := some m.drow, actAt := some e })) with acts := e :: c.acts.take 7 }
  | 2 => { (c.setBank m.bank (fun b => { b with rdAt := some e })) with rdAt := some e }
  | 3 => { (c.setBank m.bank (fun b => { b with wrAt := some e })) with wrAt := some e }
  | 4 | 5 =>
    let l := c.closing m
    if l.isEmpty then c
    else { l.foldl (fun c b => c.setBank b (fun b => { b with row := none, preAt := some e })) c with preAt := some e }
  | 6 => { c with refAllAt := some e }
  | 7 => { (c.setBank m.bank (fun b => { b with refAt := some e })) with acts := e :: c.acts.take 7 }
  | 8 => { c with mrAt := some e }
  | 9 => { c with mrAt := some e }
  | 0xA => { c with zqAt := some e }
  | 0x1A => { c with zqAt := none }
  | 0xB => { c with selfRefresh := true }
  | 0x1B => { c with selfRefresh := false, xsrAt := some e }
  | _ => c

/-- The channel as the commands issued so far and not yet sent will leave it. -/
def Chan.ahead (c : Chan) : Chan := c.pend.foldl Chan.sent c

/-- Whether that can be told when a command issues: no reserved slot is still to be filled, and every translation is known (09 R267,
R280, R291). -/
def Chan.settled (c : Chan) (m : MemCmd) : Bool := m.state ≠ 1 && c.pend.all (fun p => p.state = 0 && p.op ≠ opPfs)

/-- The breach that is known when a command issues: any, or the edge it shares, the first rule, where the others are not settled; those
are judged at its send edge (09 R270; 01 R463). -/
def Chan.foreseen (c : Chan) (m : MemCmd) : Option Nat :=
  if c.settled m then c.ahead.breach m
  else if c.lastSend = some m.edge || c.pend.any (fun p => p.edge = m.edge) then some 0x01
  else none

/-- Refresh units that a command takes off the debt (09 R284). -/
def refUnits (op : Nat) : Nat := if op = opRef then 16 else if op = opRefB then 1 else 0

/-- Schedule cycles of a refresh unit by class: 0 N, 1 H (09 R283). -/
def refreshUnit (cls : Nat) : Nat := if cls = 0 then 528 else 264

/-- The refresh class that a colonnade's instance runs under: its object's, or H when the front end has placed it so (09 R288;
15 R431). -/
def State.refreshClass (s : State) (col : Nat) : Nat :=
  let i := s.inst ((s.col col).inst.getD 0)
  if i.variant = 1 then 1 else i.object.refresh

/-- Whether a refresh command would take the debt below −128 at its send edge (09 R284). -/
def State.overRefresh (s : State) (col ch op now send : Nat) : Bool :=
  let c := (s.col col).chan ch
  let u := refreshUnit (s.refreshClass col)
  let rise : Int := if c.timetabled && !c.selfRefresh then ((send - c.since) / u - (now - c.since) / u : Nat) else 0
  let base : Int := if c.timetabled then c.debt else 0
  let taken := c.pend.foldl (fun n m => n + refUnits m.op) 0
  refUnits op ≠ 0 && base + rise - taken - refUnits op < -128

/-- TVAL of MEM_TIMING (05 R155). -/
def timingTval (rule op ch : Nat) : Nat := rule * 2 ^ 40 + op % 16 * 2 ^ 32 + ch

def State.modChan (s : State) (col ch : Nat) (f : Chan → Chan) : State :=
  s.modCol col (fun c => { c with chans := FMap.set {} c.chans ch (f (c.chan ch)) })

/-- Channels of the issuing core's logical colonnade; a command to another raises UNREACHABLE (02 R61). -/
def State.noChannel (s : State) (ch : Nat) : Option Trap :=
  trapIf (Config.channelsOf (colOf s.here.core) ≤ ch) s.unreachable

/-- Channel counts are those of the logical colonnade, which has as many as its physical one (01 R14). -/
def State.myChan (s : State) (ch : Nat) : Chan := (s.col (colOf s.here.core)).chan ch

/-! ### Translation of a command (09 R267, R271) -/

/-- A core's table as it will stand at a cycle: with the writes that take effect by then; none while a row of a DTLB that counts by then
has still to be read. -/
def State.tableAt (s : State) (k cycle : Nat) : Option (FMap (BitVec 128)) :=
  let ags := (s.groupOf k).agenda.filter (fun i => i.time ≤ cycle)
  if ags.any (fun i => match i.work with
    | .dtlbRow src _ _ _ _ => src.core = k && i.time + 1 ≤ cycle
    | _ => false) then none
  else some (ags.foldl (fun t i =>
    match i.work with
    | .eff c (.lock n e) => if c = k then FMap.set 0 t n e else t
    | _ => t) (s.core k).locked)

/-- A command with its translation through a table. -/
def MemCmd.place (m : MemCmd) (t : Xlat) : MemCmd :=
  match t with
  | .ok ch bank row column => { m with state := 0, xch := ch, bank := bank, drow := row, column := column }
  | .absent _ => { m with state := 2 }
  | .range => m

/-- x = s[a] + 128·sext(OFF) mod 2^64 (09 R271). -/
def cmdAddr (v : Word) (off : BitVec 10) : Nat := (v + off.signExtend 64 * 128).toNat

/-! ### Issuing a command -/

/-- The literal of a command's slot word, from its fields (09 R268, R290). -/
def MemCmd.literal (m : MemCmd) : Nat :=
  let off := (m.x + 2 ^ 64 - m.value) / 128 % 2 ^ 10
  if m.op = opAct then off * 2 ^ 13
  else if m.op = opRd || m.op = opWr then m.tag * 2 ^ 24 + m.half * 2 ^ 23 + off * 2 ^ 13 + m.row.row
  else if m.op = opMrw then m.value
  else if m.op = opMrr then m.tag * 2 ^ 24 + m.row.row
  else 0

/-- A command as its issue makes it. -/
def State.newCmd (s : State) (op ch : Nat) : MemCmd :=
  let send := edgeAt (s.here.cycle + 4)
  { op := op, ch := ch, send := send, edge := edgeIndex send, src := s.src }

/-- Check a command against the channel as the earlier ones leave it, claim its rows, and put it on its way: translated at
c+2, sent at its send edge (09 R264, R270, R271). -/
def sendCmd (m : MemCmd) (uses : List (RowAt × Nat × Bool)) (s : State) : Host.Outcome State Fault Refusal :=
  let col := colOf s.here.core
  let c := s.myChan m.ch
  let m := { m with lit := m.literal }
  let breach := match c.foreseen m with
    | some r => some r
    | none => if c.settled m && s.overRefresh col m.ch m.op s.here.cycle m.send then some 0x21 else none
  s.checkThen (breach.map (fun r => s.trapHere .memTiming (timingTval r m.op m.ch) 9)) (fun s =>
    s.checkThen (trapIf (uses.any (fun u => !s.rowOk s.here.core u.1 u.2.1)) s.illegal) (fun s =>
      s.claimThen uses (fun s =>
        let s := s.modChan col m.ch (fun c => { c with pend := c.pend ++ [m] })
        let s := if m.op = opAct || m.op = opRd || m.op = opWr then s.after 2 phRead 0 (.mcTranslate m) else s
        let s := if m.op = opRd then s.noteDv m.x m.send else if m.op = opWr then s.noteDv m.x (edgeCycle (m.edge + 17)) else s
        s.atCycle s.here.core m.send phRead 0 (.mcSend m))))

/-- A command that names no address. -/
def plainCmd (op : Nat) (ch : Fin 16) (f : MemCmd → MemCmd) (s : State) : Host.Outcome State Fault Refusal :=
  s.checkThen (firstTrap [s.noShadow, s.noChannel ch.val]) (fun s => sendCmd (f (s.newCmd op ch.val)) [] s)

/-- A command that translates an address (09 R271): the lookup of c+2 is foreseen where the table of that cycle is known, and is pending
otherwise. -/
def addressCmd (op : Nat) (ch : Fin 16) (a : SReg) (off : BitVec 10) (f : MemCmd → MemCmd)
    (uses : MemCmd → List (RowAt × Nat × Bool)) (s : State) : Host.Outcome State Fault Refusal :=
  s.checkThen (firstTrap [s.noShadow, s.noChannel ch.val]) (fun s =>
    let x := cmdAddr (s.rs a) off
    let t := (s.tableAt s.here.core (s.here.cycle + 2)).map (fun l => ({ locked := l } : Core).translate x)
    s.checkThen (trapIf (t = some .range) (s.trapHere .translationRange x 9)) (fun s =>
      let m0 := s.newCmd op ch.val
      let m := f { (match t with | some t => m0.place t | none => { m0 with state := 1 }) with x := x, value := (s.rs a).toNat }
      sendCmd m (uses m) s))

/-- The row a command names. -/
def State.cmdRow (s : State) (r : RowRef) : RowAt := rowAt s.here.core r.space.val r.row.val

def execDact (ch : Fin 16) (a : SReg) (off : BitVec 10) (s : State) : Host.Outcome State Fault Refusal :=
  addressCmd opAct ch a off (fun m => m) (fun _ => []) s

def execDrd (ch : Fin 16) (a : SReg) (off : BitVec 10) (r : RowRef) (half : Bool) (tag : Byte) (s : State) :
    Host.Outcome State Fault Refusal :=
  addressCmd opRd ch a off
    (fun m => { m with row := s.cmdRow r, half := half.toNat, tag := tag.toNat })
    (fun m => [(m.row, m.send + 96, false)]) s

def execDwr (ch : Fin 16) (a : SReg) (off : BitVec 10) (r : RowRef) (half : Bool) (tag : Byte) (s : State) :
    Host.Outcome State Fault Refusal :=
  addressCmd opWr ch a off
    (fun m => { m with row := s.cmdRow r, half := half.toNat, tag := tag.toNat })
    (fun m => [(m.row, s.here.cycle + 2, false)]) s

def execDpre (ch bank : Fin 16) (s : State) : Host.Outcome State Fault Refusal :=
  plainCmd opPre ch (fun m => { m with bank := bank.val }) s
def execDprea (ch : Fin 16) (s : State) : Host.Outcome State Fault Refusal := plainCmd opPreA ch (fun m => m) s
def execDref (ch : Fin 16) (s : State) : Host.Outcome State Fault Refusal := plainCmd opRef ch (fun m => m) s
def execDrefb (ch bank : Fin 16) (s : State) : Host.Outcome State Fault Refusal :=
  plainCmd opRefB ch (fun m => { m with bank := bank.val }) s
def execDzqStart (ch : Fin 16) (s : State) : Host.Outcome State Fault Refusal := plainCmd opZqStart ch (fun m => m) s
def execDzqLatch (ch : Fin 16) (s : State) : Host.Outcome State Fault Refusal := plainCmd opZqLatch ch (fun m => m) s
def execDsrefEnter (ch : Fin 16) (s : State) : Host.Outcome State Fault Refusal := plainCmd opSrEnter ch (fun m => m) s
def execDsrefExit (ch : Fin 16) (s : State) : Host.Outcome State Fault Refusal := plainCmd opSrExit ch (fun m => m) s

/-- DMRW: mode registers 0x20 to 0x3F only (09 R268). -/
def execDmrw (ch : Fin 16) (mr value : Byte) (s : State) : Host.Outcome State Fault Refusal :=
  s.checkThen (trapIf (mr.toNat < 0x20 || 0x3F < mr.toNat) (s.illegal 2)) (fun s =>
    plainCmd opMrw ch (fun m => { m with half := mr.toNat, value := value.toNat }) s)

def execDmrr (ch : Fin 16) (mr : Byte) (r : RowRef) (tag : Byte) (s : State) : Host.Outcome State Fault Refusal :=
  s.checkThen (firstTrap [s.noShadow, s.noChannel ch.val]) (fun s =>
    let m := { s.newCmd opMrr ch.val with row := s.cmdRow r, half := mr.toNat, tag := tag.toNat }
    sendCmd m [(m.row, m.send + 96, false)] s)

/-- DTLB: rows read at c+2+j, entries in force at c+3+j (09 R276). -/
def execDtlb (ch : Fin 16) (first : Fin 1024) (count : Fin 64) (row : Fin 4096) (s : State) :
    Host.Outcome State Fault Refusal :=
  let n := count.val + 1
  let rows := ceilDiv n 16
  s.checkThen (firstTrap [trapIf (1024 < first.val + n) (s.illegal 2), s.noShadow, s.noChannel ch.val,
      trapIf (Config.spRows < row.val + rows) s.illegal]) (fun s =>
    s.claimThen ((List.range rows).map (fun j => (rowAt s.here.core 0 (row.val + j), s.here.cycle + 2 + j, false)))
      (fun s => (List.range rows).foldl (fun s j =>
        s.after (2 + j) phRead 0 (.dtlbRow s.src first.val n j (row.val + j))) s))

/-- DTLBQ: the entry as it stands at c+2 in row ROW at c+4 (09 R277). -/
def execDtlbq (ch : Fin 16) (index : Fin 1024) (r : RowRef) (tag : Byte) (s : State) :
    Host.Outcome State Fault Refusal :=
  let p := s.cmdRow r
  let t := s.here.cycle + 4
  s.checkThen (firstTrap [s.noShadow, s.noChannel ch.val, trapIf (!s.rowOk s.here.core p t) s.illegal]) (fun s =>
    s.claimThen [(p, t, false)] (fun s => s.after 2 phRead 0 (.dtlbqRead s.src index.val p tag.toNat)))

/-- DPFS reserves its send edge for untimed use on the banks of its mask (09 R280). -/
def execDpfs (ch : Fin 16) (mask : BitVec 16) (s : State) : Host.Outcome State Fault Refusal :=
  s.checkThen (trapIf (mask = 0) (s.illegal 2)) (fun s =>
    plainCmd opPfs ch (fun m => { m with value := mask.toNat }) s)

/-! ### What a command does later -/

/-- DTLB's row j: its entries are judged and take effect in the next cycle; a malformed one raises ILLEGAL, and neither this
row nor a later one takes effect. -/
def doDtlbRow (s : State) (src : Src) (first count j row : Nat) : State :=
  let d := s.readRow (rowAt src.core 0 row)
  let now := (s.groupOf src.core).sched
  let es := (List.range (min 16 (count - 16 * j))).map (fun i => (first + 16 * j + i, BitVec.ofNat 128 (leAt d (16 * i) 16)))
  if es.all (fun p => entryWf (Config.channelsOf (colOf src.core)) p.2) then
    es.foldl (fun s p => s.atCycle src.core (now + 1) phEffect 0 (.eff src.core (.lock p.1 p.2))) s
  else lateTrap s src .illegal (wordTval src.addr src.word)

/-- DTLBQ at c+2: the row it will write. -/
def doDtlbq (s : State) (src : Src) (index : Nat) (r : RowAt) (tag : Nat) : State :=
  let e := FMap.get 0 (s.core src.core).locked index
  let now := (s.groupOf src.core).sched
  s.atCycle src.core (now + 2) phWrite (rkStore src.core)
    (.put src (.rows [r] tag (tag ≠ 0)) [padTo 256 (leBytes 16 e.toNat)])

/-- Replace a command among those its channel has yet to send. -/
def State.updCmd (s : State) (col : Nat) (m : MemCmd) : State :=
  s.modChan col m.ch (fun c => { c with pend := c.pend.map (fun p => if p.edge = m.edge then m else p) })

def State.dropCmd (s : State) (col : Nat) (m : MemCmd) : State :=
  s.modChan col m.ch (fun c => { c with pend := c.pend.filter (fun p => p.edge ≠ m.edge) })

/-- Commands of a colonnade that are not yet sent, in channel order. -/
def State.pending (s : State) (col : Nat) : List MemCmd :=
  (List.range 4).flatMap (fun ch => ((s.col col).chan ch).pend)

/-- The command of the same edge as it stands among those not yet sent. -/
def State.findCmd (s : State) (col : Nat) (m : MemCmd) : Option MemCmd :=
  ((s.col col).chan m.ch).pend.find? (fun p => p.edge = m.edge)

/-- The lookup at c+2, with a DWR's source read (09 R267, R271, R289): an absent entry sets the freeze point n+1, or n+32 in a
larger group. -/
def doTranslate (s : State) (m0 : MemCmd) : State :=
  let k := m0.src.core
  let col := colOf k
  let g := s.groupNo k
  let now := (s.group g).sched
  match s.findCmd col m0 with
  | none => s
  | some m =>
    let t := (s.core k).translate m.x
    let m := m.place t
    let m := if m.op = opWr then { m with data := ((s.readRow m.row).drop (128 * m.half)).take 128 } else m
    let s := s.updCmd col m
    if m.op = opWr && m.tag ≠ 0 && s.rowTag m.row ≠ m.tag then
      lateTrap s m.src .sched (tagTval m.row m.tag (s.rowTag m.row))
    else match t with
    | .ok _ _ _ _ => s
    | .range => lateTrap s m.src .translationRange m.x
    | .absent _ =>
      let at_ := now + (if (s.group g).cols.length ≤ 1 then 1 else 32)
      s.modGroup g (fun gr => { gr with
        freezeAt := (match gr.freezeAt with | some f => some (min f at_) | none => some at_),
        conds := if gr.conds.contains (.absent k) then gr.conds else .absent k :: gr.conds })

/-- The cut of a colonnade at a freeze point: the earlier of it and the send edges of commands whose translation is absent
(09 R289). -/
def State.captureCut (s : State) (col fp : Nat) : Nat :=
  (s.pending col).foldl (fun c m => if m.state = 2 && m.src.cycle + 2 < fp then min c m.send else c) fp

/-- Capture commands into the replay buffers at a freeze point (09 R289, R290): those whose send edge falls at or after the
cut; a translation whose cycle is at or after the freeze point is pending, whatever was foreseen of it. -/
def State.capture (s : State) (g fp : Nat) : State :=
  (s.group g).cols.foldl (fun s col =>
    let cut := s.captureCut col fp
    (s.pending col).foldl (fun s m =>
      if m.send < cut then s
      else
        let m := if fp ≤ m.src.cycle + 2 && (m.op = opAct || m.op = opRd || m.op = opWr) then { m with state := 1 } else m
        (s.updCmd col m).modCore m.src.core (fun c =>
          { c with replay := c.replay.filter (fun p => p.ch ≠ m.ch || p.edge ≠ m.edge) ++ [m] })) s) s

/-- The two values of a mode register, where no program has written it a free value (09 R274). -/
def State.modeValues (s : State) (col ch mr : Nat) : List Byte × State :=
  match (((s.col col).chan ch).mr.find? (fun p => p.1 = mr)) with
  | some p => ([p.2, p.2], s)
  | none =>
    if mr = 4 then
      let w := s.freshWord
      (leBytes 2 w.1.toNat, w.2)
    else
      let k := channelNo col ch * 512 + mr
      ([Config.modeReg k, Config.modeReg (k + 256)], s)

/-- The command of the reserved slot of a DPFS that takes an access unit one step further: DACT, the access, or DPRE where another row of its
bank is open; none on another channel or bank, where the table of the slot's core does not translate the address, or where a check of R270
forbids it (09 R280). -/
def State.slotCommand (s : State) (m : MemCmd) (r : UnitReq) : Option MemCmd :=
  let col := colOf m.src.core
  let c := (s.col col).chan m.ch
  let place : Option (Nat × Nat × Nat × Nat) :=
    if r.unit.dv then match (s.core m.src.core).translate r.unit.at_ with
      | .ok ch bank row column => some (ch, bank, row, column)
      | _ => none
    else
      let a := (r.unit.at_ - 2 ^ 40) % 2 ^ 34
      some ((channelOf r.unit.at_).2, a / 2 ^ 12 % 16, a / 2 ^ 16, a / 128 % 32)
  match place with
  | none => none
  | some (ch, bank, row, column) =>
    let op := match (c.bank bank).row with
      | none => opAct
      | some w => if w = row then (if r.unit.write then opWr else opRd) else opPre
    let f : MemCmd := { m with op := op, bank := bank, xch := ch, drow := row, column := column, state := 0 }
    if ch ≠ m.ch || !bitOf m.value bank || (({ c with lastSend := none } : Chan).breach f).isSome then none else some f

/-- A channel once untimed traffic has sent a command on it. -/
def Chan.filled (c : Chan) (f : MemCmd) : Chan :=
  let c := { c with opened := c.opened.filter (fun p => p.1 ≠ f.bank || (f.op ≠ opAct && f.op ≠ opPre)) }
  { c.sent f with opened := if f.op = opAct then (f.bank, f.edge) :: c.opened else c.opened }

/-- A DPRE of a bank that untimed traffic has opened and no longer needs, in a slot that nothing else fills (09 R280; log entry 20). -/
def State.slotClose (s : State) (m : MemCmd) : Option MemCmd :=
  let c := (s.col (colOf m.src.core)).chan m.ch
  (c.opened.filter (fun p => bitOf m.value p.1 && (c.bank p.1).row.isSome && (c.bank p.1).actAt = some p.2)).findSome? (fun p =>
    let f : MemCmd := { m with op := opPre, bank := p.1, state := 0 }
    if (({ c with lastSend := none } : Chan).breach f).isSome then none else some f)

/-- A reserved slot that has been sent is filled with at most one command: that of the first access unit that it can take further, the chain
prefetcher's first and then those of the channels' queue in its order; or, by a free choice, with a DPRE that tidies up (09 R280; 10 R305). -/
def doFill (s : State) (m : MemCmd) : State :=
  let col := colOf m.src.core
  let live (r : UnitReq) : Bool := s.wall < r.asked + (if r.done.isSome then reqKept else 64)
  let s := s.modCol col (fun c => { c with
    slots := c.slots.erase (s.wall, m.ch, m.src.core, m.value), reqs := c.reqs.filter live })
  let open_ := (s.col col).reqs.filter (·.done.isNone)
  match (open_.filter (·.first) ++ open_.filter (fun r => !r.first)).findSome? (fun r => (s.slotCommand m r).map (fun f => (r, f))) with
  | some (r, f) =>
    let s := s.modChan col m.ch (·.filled f)
    if f.op = opRd || f.op = opWr then
      let d := if f.op = opRd then 96 else edgeCycle (m.edge + 17) - m.send
      s.modCol col (fun c => { c with reqs := c.reqs.map (fun x => if x = r then { x with done := some (s.wall + d, m.src.core) } else x) })
    else s
  | none =>
    match s.slotClose m with
    | some f =>
      let w := s.freshWord
      if bitOf w.1.toNat 0 then w.2.modChan col m.ch (·.filled f) else w.2
    | none => s

/-- A command at its send edge: captured, stopped by a check, or sent (09 R270 to R275, R289). -/
def sendNow (s : State) (m : MemCmd) : State :=
  let col := colOf m.src.core
  let c := (s.col col).chan m.ch
  let s := s.dropCmd col m
  let s := s.modCore m.src.core (fun c => { c with replay := c.replay.filter (fun p => p.ch ≠ m.ch || p.edge ≠ m.edge) })
  if m.op = opPfs then
    let s := s.modChan col m.ch (fun _ => { c with pend := c.pend.filter (fun p => p.edge ≠ m.edge), lastSend := some m.edge })
    if c.selfRefresh then s
    else (s.modCol col (fun c => { c with slots := (s.wall + 1, m.ch, m.src.core, m.value) :: c.slots })).atWall (s.wall + 1) (.fillSlot m)
  else
    match c.breach m with
    | some r => lateTrap s m.src .memTiming (timingTval r m.op m.ch)
    | none =>
      if s.overRefresh col m.ch m.op ((s.groupOf m.src.core).debtAt - 1) m.send then lateTrap s m.src .memTiming (timingTval 0x21 m.op m.ch)
      else
      let s := s.modChan col m.ch (fun c =>
        let c := c.sent m
        let c := if c.timetabled then c else { c with timetabled := true, since := m.send, debt := 0, poll := m.send }
        let c := { c with debt := c.debt - refUnits m.op }
        if m.op = opMrr && m.half = 4 then { c with poll := m.send }
        else if m.op = opSrEnter then { c with srAt := m.send }
        else if m.op = opSrExit then { c with debt := 0, since := m.send, poll := c.poll + (m.send - c.srAt) }
        else if m.op = opMrw then { c with mr := FMap.put m.half (BitVec.ofNat 8 m.value) c.mr }
        else c)
      let land := m.send + 96
      let args : EvArgs := { core := m.src.core, col := col, ch := m.ch, index := m.row.space, addr := m.row.row,
                             tag := m.tag, flag := m.tag ≠ 0, count := m.half }
      let a := unitAddr col m.ch m.bank m.drow m.column
      if m.op = opRd then
        let bad := if s.errs.isEmpty then none else (List.range 4).find? (fun i => s.burstState (a / 32 + i) = 2)
        let d := s.readArray a 128
        let s := s.countCorrected a 128
        match bad with
        | some i =>
          s.atCycle m.src.core land phEffect 0 (.event ⟨.drdLanding, { args with opt := some (m.x / 128 * 128 + 32 * i) }⟩)
        | none => s.atCycle m.src.core land phWrite rkDrd (.event ⟨.drdLanding, { args with bytes := d }⟩)
      else if m.op = opWr then
        s.atCycle m.src.core (edgeCycle (m.edge + 17)) phWrite 0 (.dramWrite a m.data)
      else if m.op = opMrr then
        let v := s.modeValues col m.ch m.half
        v.2.atCycle m.src.core land phWrite rkDrd (.event ⟨.dmrrLanding, { args with bytes := v.1 }⟩)
      else s

/-- The send edge comes: a command at or after one whose translation is absent is captured with it (09 R289). -/
def doSend (s : State) (m0 : MemCmd) : State :=
  let col := colOf m0.src.core
  match s.findCmd col m0 with
  | none => s
  | some m =>
    if (s.pending col).any (fun p => p.state = 2 && p.send ≤ m.send) then
      s.modCore m.src.core (fun c =>
        { c with replay := c.replay.filter (fun p => p.ch ≠ m.ch || p.edge ≠ m.edge) ++ [m] })
    else sendNow s m

/-- Captured commands of a group whose send edges have passed, in the order of their edges: they go out when the group resumes
(09 R291). -/
def State.replayed (s : State) (g : Nat) : List MemCmd :=
  let now := (s.group g).sched
  let l := (s.group g).cols.flatMap (fun col => (s.pending col).filter (fun m => m.send < now))
  l.foldl (fun acc m => (acc.takeWhile (fun p => p.send ≤ m.send)) ++ m :: acc.dropWhile (fun p => p.send ≤ m.send)) []

/-- Send what was captured before the freeze point. -/
def State.replay (s : State) (g : Nat) : State :=
  (s.replayed g).foldl (fun s m =>
    match s.findCmd (colOf m.src.core) m with
    | some m => sendNow s m
    | none => s) s

/-! ### Landings (09 R271, R274, R286, R288, R293) -/

/-- The next bundle of a core. -/
def Core.nextBundle (c : Core) : Nat := c.pc % 65536

/-- DRD_LANDING: 128 bytes reach their half of the row, with the tag unless it is 0x00; an uncorrectable burst writes nothing
and raises MACHINE_CHECK at the core's next bundle (09 R293). -/
def execDrdLanding (s : State) : Host.Outcome State Fault Refusal :=
  let e := s.ev
  let r := rowAt e.core e.index e.addr
  match e.opt with
  | some x => .next (takeTrap s { core := e.core, cause := .machineCheck, tval := x, slot := 7, rank := 10 }
      (s.core e.core).nextBundle)
  | none =>
    let s := s.keepOld r
    let s := { s with mem := s.mem.writeBytes (r.addr + 128 * e.count) e.bytes }
    .next (if e.flag then s.setTag r e.tag else s)

/-- The band of a refresh-rate code: 0 A, 1 B, 2 C (09 R286). -/
def bandOf (v : Nat) : Nat := if v % 8 ≤ 3 then 0 else if v % 8 ≤ 5 then 1 else 2

/-- The higher band of two subchannels stands (09 R286). -/
def bandOfBytes (l : List Byte) : Nat := l.foldl (fun m b => max m (bandOf b.toNat)) 0

/-- Whether a band exceeds a class: B or C under class N, C under class H (09 R286). -/
def exceeds (cls band : Nat) : Bool := if cls = 0 then 1 ≤ band else 2 ≤ band

/-- The wall cycles of 100 ms and of 4 ms. -/
def coolCycles : Nat := 220000000
def pollCycles : Nat := 8800000

/-- What the engine makes of a band it has polled (09 R288): an exceeded class is reported within 24 cycles; band A for 100 ms
on every timetabled channel of an instance under the class H variant of a class N object asks for the way back. -/
def State.judgeBand (s : State) (col ch band : Nat) : State :=
  if exceeds (s.refreshClass col) band then
    (s.modChan col ch (fun c => { c with coolFrom := none })).eventAt (s.wall + 24) .temperatureReport
      { col := col, ch := ch, value := band }
  else if band = 0 then
    let s := s.modChan col ch (fun c => { c with coolFrom := if c.coolFrom.isSome then c.coolFrom else some s.wall })
    let n := (s.col col).inst.getD 0
    let i := s.inst n
    let cool := i.cols.all (fun p => (List.range 4).all (fun h =>
      let c := (s.col (p.2 - 1)).chan h
      !c.timetabled || (match c.coolFrom with | some f => f + coolCycles ≤ s.wall | none => false)))
    if i.variant = 1 && i.object.refresh = 0 && cool then
      s.eventAt (s.wall + 24) .temperatureReport { col := col, ch := ch, value := 0 }
    else s
  else s.modChan col ch (fun c => { c with coolFrom := none })

/-- DMRR_LANDING: the two subchannels' values, then zeros; a read of mode register 4 is judged (09 R274, R286). -/
def execDmrrLanding (s : State) : Host.Outcome State Fault Refusal :=
  let e := s.ev
  let r := rowAt e.core e.index e.addr
  let s := (s.keepOld r).writeRow r (padTo 256 e.bytes)
  let s := if e.flag then s.setTag r e.tag else s
  .next (if e.count = 4 then s.judgeBand e.col e.ch (bandOfBytes e.bytes) else s)

/-- TEMPERATURE_REPORT (09 R288): the front end asks for pre-emption of the group, to relaunch under the class H variant (band
B under class N), to hold the instance with THERMAL (band C), or to go back to the primary variant (band A). Of several reports before the
save the hottest stands. -/
def execTemperatureReport (s : State) : Host.Outcome State Fault Refusal :=
  let e := s.ev
  match (s.col e.col).inst with
  | none => .next s
  | some n =>
    let h := (s.inst n).heat
    let s := s.setInst n { s.inst n with
      heat := if h = 2 || 2 ≤ e.value then 2 else if h = 1 || e.value = 1 then 1 else 3 }
    .next ((s.inst n).groups.foldl (fun s g => s.modGroup g (fun gr => { gr with preempt := true })) s)

/-! ### Refresh debt and poll gap (09 R284, R287) -/

/-- A MEM_TIMING due at the colonnade's next bundle; of several the one of the earlier rule and the lower channel stands. -/
def State.raiseDue (s : State) (col v : Nat) : State :=
  s.modCol col (fun c => { c with due := some (match c.due with | some w => min w v | none => v) })

/-- REFRESH_DEBT: the debt of a timetabled channel rises by one; at 129 the next bundle of the colonnade's first running core
raises MEM_TIMING 0x20. -/
def execRefreshDebt (s : State) : Host.Outcome State Fault Refusal :=
  let e := s.ev
  let d := ((s.col e.col).chan e.ch).debt + 1
  let s := s.modChan e.col e.ch (fun c => { c with debt := d })
  .next (if d = 129 then s.raiseDue e.col (timingTval 0x20 0 e.ch) else s)

/-- POLL_GAP: no temperature poll for 8,800,000 schedule cycles raises MEM_TIMING 0x22 in the same way. -/
def execPollGap (s : State) : Host.Outcome State Fault Refusal :=
  .next (s.raiseDue s.ev.col (timingTval 0x22 0 s.ev.ch))

/-- Cells fail: one more symbol of each of some bursts of a channel is in error from now on. Nothing in the device brings this about; it comes from
outside, with a refresh (09 R292; log entry 19). -/
def State.cellsFail (s : State) (col ch : Nat) (bursts : List Nat) : State :=
  let mine := bursts.filter (fun b => 2 ^ 40 ≤ b * 32 && decide (channelOf (b * 32) = (col, ch)))
  { s with errs := mine.foldl (fun m b => FMap.set 0 m b (FMap.get 0 m b + 1)) s.errs }

/-- FROZEN_REFRESH: the engine's own refresh during a freeze, which neither the bank state of the timetable nor the debt shows
(01 R25, 09 R284). -/
def execFrozenRefresh (s : State) : Host.Outcome State Fault Refusal :=
  .next (s.modChan s.ev.col s.ev.ch (fun c => { c with own := c.own + 1 }))

/-- UNTIMETABLED_REFRESH: the engine refreshes a channel that is not timetabled (09 R269); `lines` are bursts of the channel, timetabled or not,
in which cells have failed. -/
def execUntimetabledRefresh (s : State) : Host.Outcome State Fault Refusal :=
  let e := s.ev
  .next ((s.modChan e.col e.ch (fun c => if c.timetabled then c else { c with own := c.own + 1 })).cellsFail e.col e.ch e.lines)

/-- FROZEN_POLL: the engine's own poll every 4 ms of wall time during a freeze; an exceeded band is acted on as a scheduled
report is (09 R287). -/
def execFrozenPoll (s : State) : Host.Outcome State Fault Refusal :=
  let v := s.modeValues s.ev.col s.ev.ch 4
  .next (v.2.judgeBand s.ev.col s.ev.ch (bandOfBytes v.1))

/-! ### Absent pages (09 R278, R291) -/

/-- End a core's instance for a page that cannot be supplied. -/
def State.pageLost (s : State) (k x slot bundle : Nat) : State :=
  takeTrap s { core := k, cause := .translationAbsent, tval := x, slot := slot, rank := 10 } bundle

/-- Perform again the translations of a core's commands that met an absent entry. -/
def State.retranslate (s : State) (k : Nat) : State :=
  let col := colOf k
  (s.pending col).foldl (fun s m =>
    if m.src.core ≠ k || m.state ≠ 2 then s
    else match (s.core k).translate m.x with
    | .range => lateTrap s m.src .translationRange m.x
    | t =>
      let m := m.place t
      let s := s.updCmd col m
      s.modCore k (fun c => { c with replay := c.replay.map (fun p => if p.ch = m.ch && p.edge = m.edge then m else p) })) s

/-- Where a saved colonnade record holds an entry of a core's locked table (15 R430). -/
def recordEntry (core index : Nat) : Nat := 0x2F30 + 16384 * core + 16 * index

/-- TRANSLATION_ABSENT: the front end brings the page in (`rows` holds its bytes by virtual address), rewrites the entry and
makes the translations again; with no entry to give, TRANSLATION_ABSENT ends the instance (01 R26, 09 R291). It writes no entry of a core whose
group runs; `flag` names a core of an instance that is saved, by its logical colonnade (09 R278). -/
def execTranslationAbsent (s : State) : Host.Outcome State Fault Refusal :=
  let e := s.ev
  let k := e.core
  if e.flag then
    let i := s.inst e.inst
    match e.entry with
    | some n =>
      if 8 ≤ k || 1024 ≤ e.index then .next s
      else .next (s.setInst e.inst { i with saved := i.saved.map (fun p =>
        if p.1 = e.col * 16 then (p.1, patchBytes p.2 (recordEntry k e.index) (leBytes 16 n.toNat)) else p) })
    | none => .next s
  else if (s.groupOf k).phase = .run then .next s
  else
  match e.entry with
  | some n =>
    let s := s.modCore k (fun c => { c with locked := FMap.set 0 c.locked e.index n })
    let s := e.rows.foldl (fun s p => s.writeDv k p.1 p.2) s
    .next (s.retranslate k)
  | none =>
    match (s.pending (colOf k)).find? (fun m => m.src.core = k && m.state = 2) with
    | some m => .next (s.pageLost k m.x m.src.slot m.src.bundle)
    | none => .next (s.pageLost k (ebits (FMap.get 0 (s.core k).locked e.index) 0 52) 7 (s.core k).nextBundle)

/-- Whether a core still has a command whose translation is absent. -/
def State.hasAbsent (s : State) (k : Nat) : Bool :=
  (s.pending (colOf k)).any (fun m => m.src.core = k && m.state = 2)

/-! ### Tile-cache fills (06 R186, 09 R293) -/

/-- Fill a line whole from the device addresses of its rows; an uncorrectable burst poisons it. -/
def State.fillLine (s : State) (core col key : Nat) (l : TcLine) : State :=
  let rows := l.rows.zipIdx.filter (fun p : Nat × Nat => p.1 < dvRows)
  let poison := rows.filterMap (fun p => s.badDv core (p.1 * 256) 256)
  let s := rows.foldl (fun s p =>
    let d := (s.readDv core (p.1 * 256) 256).getD []
    let s := [0, 128].foldl (fun s o =>
      match s.unitOf core (p.1 * 256 + o) with
      | some a => s.countCorrected a 128
      | none => s) s
    let a := lineRow col key p.2
    let s := s.notePort a 256
    { s with mem := s.mem.writeBytes a d }) s
  s.modCol col (fun c => { c with
    lines := FMap.set none c.lines key (some { l with filling := false, dirty := false, poison := poison }) })

/-- TILE_CACHE_FILL: the colonnade's rows on their way back go out, then the line is filled, in reserved slots unless no running group holds
the channels; while a row's page is absent the fill waits for the front end (06 R186, R187; 09 R281). -/
def execTileCacheFill (s : State) : Host.Outcome State Fault Refusal :=
  let e := s.ev
  let again : Event := ⟨.tileCacheFill, e⟩
  match (if e.flag then none else FMap.get none (s.col e.col).lines e.index).filter (·.filling) with
  | none => s.throughPort e.value [] [] (fun s => .next (s.drainBacks e.col)) again
  | some l =>
    let units := (lineRows l.rows).flatMap (fun r => [s.unitOf e.core (r * 256), s.unitOf e.core (r * 256 + 128)])
    let s1 := s.drainBacks e.col
    if units.any (·.isNone) || !(s1.col e.col).backs.isEmpty then .next (s.eventAt (s.wall + 11) again.op again.args)
    else s.throughPort e.value [] (arrayUnits false (units.filterMap id)) (fun s => .next ((s.drainBacks e.col).fillLine e.core e.col e.index l)) again

end Sys2Proof.Machine
end

