-- ==== Sys2Proof/Machine/Objects.lean ====
section
/-! DEFINITION. Code objects as the loader reads and judges them (02 R75 to R78; 05 R163; 06 R197; 09 R285), and the memory of a
partition as its host window shows it (16 R447). -/

namespace Sys2Proof.Machine

/-! ### A partition's window on its device virtual space (16 R447) -/

/-- The lookup of an address through the partition's host window table, laid out as a locked table. -/
def State.windowUnit (s : State) (part x : Nat) : Xlat :=
  let c : Core := { locked := (s.part part).windowTable }
  c.translate x

/-- The flat address of an access unit of the window, the channels counted in the partition's lowest colonnade (log entry 25). -/
def State.windowAddr (s : State) (part x : Nat) : Option Nat :=
  match s.windowUnit part x with
  | .ok ch bank row column => some (unitAddr ((s.part part).cols.headD 0) ch bank row column)
  | _ => none

/-- The access units of a range of addresses. -/
def unitsOf (x n : Nat) : List Nat := if n = 0 then [] else List.range' (x / 128) ((x + n - 1) / 128 - x / 128 + 1)

/-- Whether every unit of a range translates. -/
def State.windowOk (s : State) (part x n : Nat) : Bool := (unitsOf x n).all (fun u => (s.windowAddr part (u * 128)).isSome)

/-- The access units of a range, read or written. -/
def State.windowUnits (s : State) (part x n : Nat) (write : Bool := false) : List PortUnit :=
  arrayUnits write ((unitsOf x n).filterMap (fun u => s.windowAddr part (u * 128)))

/-- `n` bytes of the partition's memory; none where a unit does not translate. -/
def State.readWindow (s : State) (part x n : Nat) : Option (List Byte) :=
  if s.windowOk part x n then
    some ((((unitsOf x n).flatMap (fun u => match s.windowAddr part (u * 128) with
      | some a => s.readArray a 128
      | none => [])).drop (x % 128)).take n)
  else none

/-- Write bytes of the partition's memory; what does not translate is not written. -/
def State.writeWindow (s : State) (part x : Nat) (d : List Byte) : State :=
  (unitsOf x d.length).foldl (fun s u =>
    match s.windowAddr part (u * 128) with
    | some a =>
      let lo := max x (u * 128)
      s.writeArray (a + lo % 128) ((d.drop (lo - x)).take (u * 128 + 128 - lo))
    | none => s) s

/-! ### Live maps (05 R163, R165) -/

/-- A live-map record: the address of its bundle, the live registers as bits, and its extents (space, first row, rows). -/
structure LiveMap where
  addr : Nat := 0
  s : Nat := 0
  h : Nat := 0
  v : Nat := 0
  p : Nat := 0
  m : Nat := 0
  a : Nat := 0
  extents : List (Nat × Nat × Nat) := []
deriving DecidableEq, Repr

/-- Rows of a space that a data section or an extent may name. -/
def spaceRows (sp : Nat) : Nat := if sp = 0 then Config.spRows else Config.cbRows

/-- One record from its words; none where a bit not named is set or an extent leaves its space. -/
def liveMapOf (ws : List Nat) : Option (LiveMap × List Nat) :=
  match ws with
  | w0 :: w1 :: w2 :: w3 :: w4 :: w5 :: w6 :: w7 :: rest =>
    let ext := (rest.take w7).map (fun w => (w / 2 ^ 28, w / 2 ^ 14 % 2 ^ 14, w % 2 ^ 14))
    if w0 < 2 ^ 16 && w1 % 2 = 0 && w5 < 2 ^ 16 && w7 < 2 ^ 16 && w7 ≤ rest.length &&
        ext.all (fun e => e.1 ≤ 8 && 1 ≤ e.2.2 && e.2.2 ≤ 8192 && e.2.1 + e.2.2 ≤ spaceRows e.1) then
      some ({ addr := w0, s := w1 + w2 * 2 ^ 32, h := w3, v := w4, p := w5 % 2 ^ 8, m := w5 / 2 ^ 8, a := w6, extents := ext },
        rest.drop w7)
    else none
  | _ => none

/-- The records of a section, or none. -/
def liveMapsOf : Nat → List Nat → Option (List LiveMap)
  | _, [] => some []
  | 0, _ => none
  | n + 1, ws => (liveMapOf ws).bind (fun r => (liveMapsOf n r.2).map (r.1 :: ·))

/-- Whole little-endian words of a byte list. -/
def wordsOf (d : List Byte) : List Nat := (List.range (d.length / 4)).map (fun i => leAt d (4 * i) 4)

/-- Ones of a bit mask of `n` bits. -/
def bitList (n x : Nat) : List Nat := (List.range n).filter (bitOf x)

/-- The length of the body that a record names (05 R165). -/
def LiveMap.bodyLen (l : LiveMap) : Nat :=
  8 * (bitList 64 l.s).length + 32 * (bitList 32 l.h).length + (if l.p / 2 = 0 then 0 else 8) + 4096 * (bitList 32 l.v).length +
    512 * (bitList 8 l.m).length + 32776 * (bitList 32 l.a).length + l.extents.foldl (fun n e => n + 256 * e.2.2) 0

/-! ### The parts of an object -/

/-- The logical colonnades of a shape (01 R14). -/
def shapeCols (mains draft : Nat) : List Nat := List.range mains ++ (if draft = 1 then [Config.draftCol] else [])
def Object.cols (o : Object) : List Nat := shapeCols o.mains o.draft

/-- A section of a type, variant and owner: the first, where an object holds several (log entry 116). -/
def Object.sectionOf (o : Object) (ty variant col core : Nat) : Option ObjSection :=
  o.sections.find? (fun x => x.ty = ty && x.variant = variant && x.col = col && x.core = core)

/-- The body of a core's section; empty when there is none. -/
def Object.body (o : Object) (ty variant col core : Nat) : List Byte :=
  match o.sectionOf ty variant col core with | some x => x.data | none => []

/-- The live-map records of a core. -/
def Object.liveMaps (o : Object) (col core : Nat) : List LiveMap :=
  let ws := wordsOf (o.body 5 0 col core)
  (liveMapsOf ws.length ws).getD []

/-- The live-map records of all sections of a core, those past the first too: what the loader checks holds of each (02 R78). -/
def Object.mapRecords (o : Object) (col core : Nat) : List LiveMap :=
  (o.sections.filter (fun x => x.ty = 5 && x.variant = 0 && x.col = col && x.core = core)).flatMap (fun x =>
    (liveMapsOf (wordsOf x.data).length (wordsOf x.data)).getD [])

/-- Entry `e` of a core's Catalogue; none when it is empty. -/
def Object.entry (o : Object) (col core e : Nat) : Option Nat :=
  match leAt (o.body 4 0 col core) (4 * e) 4 with
  | 0xFFFFFFFF => none
  | a => some a

/-- The cores of a shape: logical colonnade and core. -/
def Object.coreIds (o : Object) : List (Nat × Nat) := o.cols.flatMap (fun c => (List.range 8).map (fun k => (c, k)))

/-! ### The loader's checks (02 R78) -/

/-- Header fields (02 R75; 09 R285). -/
def headerOk (h : List Byte) : Bool :=
  leAt h 0 4 = 0x594C4E43 && leAt h 4 2 = 1 && leAt h 8 1 ≤ 12 && leAt h 9 1 ≤ 1 && 1 ≤ leAt h 8 1 + leAt h 9 1 &&
    1 ≤ leAt h 10 1 && leAt h 10 1 ≤ 13 && leAt h 11 1 ≤ 1 && leAt h 12 1 ≤ 7 && leAt h 13 1 ≤ 1 &&
    leAt h 0x10 4 ≤ Config.maxSpacing && leAt h 0x18 8 = 0 &&
    (leAt h 11 1 = 1 || (1 ≤ leAt h 0x14 4 && leAt h 0x14 4 ≤ 2200000))

/-- Whether a section type belongs to a core. -/
def coreOwned (ty : Nat) : Bool := ty = 1 || ty = 2 || ty = 4 || ty = 5 || ty = 6

/-- A section descriptor's fields (02 R76, R77): 16 bytes, the object's groups and colonnades. -/
def descriptorOk (d : List Byte) (ngroup : Nat) (cols : List Nat) : Bool :=
  let ty := leAt d 0 2; let g := leAt d 3 1; let col := leAt d 4 1; let core := leAt d 5 1
  1 ≤ ty && ty ≤ 9 && leAt d 2 1 ≤ 1 && (leAt d 2 1 = 0 || ty = 1) && (g ≤ 12 || g = 0xFF) && (col ≤ 12 || col = 0xFF) &&
    (core ≤ 7 || core = 0xFF) && leAt d 6 2 = 0 &&
    (!coreOwned ty || (cols.contains col && core ≤ 7)) && (ty ≠ 3 || g < ngroup) &&
    ((ty ≠ 7 && ty ≠ 8) || cols.contains col)

/-- Whether the bodies keep clear of each other (offset, length). -/
def apart : List (Nat × Nat) → Bool
  | [] => true
  | x :: r => r.all (fun y => x.2 = 0 || y.2 = 0 || x.1 + x.2 ≤ y.1 || y.1 + y.2 ≤ x.1) && apart r

/-- A ring declaration (06 R197). -/
def ringDeclOk (d : List Byte) : Bool :=
  let e := leAt d 4 2
  leAt d 0 1 ≤ 63 && 1 ≤ leAt d 1 1 && leAt d 1 1 ≤ 8 && 1 ≤ e && e ≤ 4096 && e = 2 ^ Nat.log2 e &&
    leAt d 2 2 + e ≤ Config.cbRows && leAt d 6 2 ≤ e && leAt d 8 8 = 0

/-- A data body (02 R77 type 7): its space and first row, and whole rows inside the space. -/
def dataOk (core : Nat) (d : List Byte) : Bool :=
  let w := leAt d 0 4; let sp := w / 2 ^ 28; let row := w % 2 ^ 13
  4 ≤ d.length && (d.length - 4) % 256 = 0 && sp ≤ 8 && w / 2 ^ 13 % 2 ^ 15 = 0 && (sp ≠ 0 || core ≤ 7) &&
    row + (d.length - 4) / 256 ≤ spaceRows sp

/-- A section's body by its type (02 R77). Coefficients are whole 32-bit words, and a body that ends inside one is refused (log entry 117). -/
def bodyOk (cols : List Nat) (x : ObjSection) : Bool :=
  match x.ty with
  | 1 => x.data.length ≤ 262144
  | 2 => x.data.length = 4 && leAt x.data 0 1 ≤ 15 && leAt x.data 2 1 ≤ 31 && leAt x.data 1 1 ≤ leAt x.data 2 1 &&
      leAt x.data 3 1 = 0
  | 3 => x.data.all (fun b => cols.contains b.toNat)
  | 4 => x.data.length = 1024
  | 5 => x.data.length % 4 = 0 && (liveMapsOf (x.data.length + 1) (wordsOf x.data)).isSome
  | 6 => x.data.length ≤ 16384 && x.data.length % 4 = 0
  | 7 => dataOk x.core x.data
  | 8 => x.data.length % 16 = 0 && (List.range (x.data.length / 16)).all (fun i => ringDeclOk ((x.data.drop (16 * i)).take 16))
  | _ => true

/-- How many sections of a type and variant a core has. -/
def Object.countOf (o : Object) (ty variant : Nat) (k : Nat × Nat) : Nat :=
  o.sections.countP (fun x => x.ty = ty && x.variant = variant && x.col = k.1 && x.core = k.2)

/-- Each core has its code and Catalogue, and under REFRESH 0 its class H variant, of one length. -/
def Object.codeOk (o : Object) : Bool :=
  o.coreIds.all (fun k => o.countOf 1 0 k = 1 && o.countOf 4 0 k = 1 &&
    (if o.refresh = 0 then o.countOf 1 1 k = 1 && (o.body 1 1 k.1 k.2).length = (o.body 1 0 k.1 k.2).length
     else o.countOf 1 1 k = 0))

/-- Every colonnade of the shape stands in exactly one group. -/
def Object.groupsOk (o : Object) : Bool :=
  o.groups.all (fun g => !g.isEmpty) && o.cols.all (fun c => (o.groups.flatten).count c = 1) && o.groups.flatten.length = o.cols.length

/-- A group's Catalogue entries are empty in all of its cores or in none, entry 0 in none, and start inside their code. -/
def Object.catalogueOk (o : Object) : Bool :=
  o.groups.all (fun g =>
    let ks := g.flatMap (fun c => (List.range 8).map (fun k => (c, k)))
    (List.range 256).all (fun e =>
      let es := ks.map (fun k => o.entry k.1 k.2 e)
      (es.all (·.isSome) || (e ≠ 0 && es.all (·.isNone))) &&
        ks.all (fun k => match o.entry k.1 k.2 e with
          | some a => 4 * a < (o.body 1 0 k.1 k.2).length
          | none => true)))

/-- Each safe point of a live map is a bundle with P = 1, in the class H variant too, which the live maps serve as well (02 R76, R78). -/
def Object.safeOk (o : Object) : Bool :=
  let at_ (variant : Nat) (k : Nat × Nat) (l : LiveMap) : Bool := bitOf (leAt (o.body 1 variant k.1 k.2) (4 * l.addr) 4) 30
  o.coreIds.all (fun k => (o.mapRecords k.1 k.2).all (fun l => at_ 0 k l && (o.refresh ≠ 0 || at_ 1 k l)))

/-- Whether an object keeps the limits of lent use (01 R44). -/
def Object.lentOk (o : Object) : Bool :=
  o.safemax ≤ 32768 && o.coreIds.all (fun k => (o.mapRecords k.1 k.2).all (fun l => l.bodyLen ≤ 262144))

/-- The object of a whole file. -/
def objectOf (f : List Byte) : Object :=
  let n := leAt f 6 2
  let secs : List ObjSection := (List.range n).map (fun i =>
    let d := (f.drop (96 + 16 * i)).take 16
    { off := leAt d 8 4, ty := leAt d 0 2, variant := leAt d 2 1, group := leAt d 3 1, col := leAt d 4 1, core := leAt d 5 1,
      data := (f.drop (leAt d 8 4)).take (leAt d 12 4) })
  let o : Object := {
    mains := leAt f 8 1, draft := leAt f 9 1, refresh := leAt f 11 1, energy := leAt f 12 1, seedspace := leAt f 14 2,
    safemax := leAt f 0x14 4, digest := (f.drop 0x20).take 64, sections := secs,
    groups := (List.range (leAt f 10 1)).map (fun g =>
      match secs.find? (fun x => x.ty = 3 && x.group = g) with
      | some x => x.data.map (·.toNat)
      | none => []) }
  { o with lent := leAt f 13 1 = 1 && o.lentOk }

/-- Load an object from memory: none when the loader refuses it (02 R78). One rule serves the objects of every tool: an object without its
class H code loads as class H alone (`headerOk`, `Object.codeOk`), and one that does not keep R44 is not placed on lent colonnades
(`Object.lent`), which is what R460 says of jarter-as and jarter-sched. `read` gives bytes of the file; its end is where the last
body ends (log entry 30). -/
def loadObject (read : Nat → Nat → Option (List Byte)) : Option Object :=
  match read 0 96 with
  | none => none
  | some h =>
    if !headerOk h then none
    else
      let n := leAt h 6 2
      match read 0 (96 + 16 * n) with
      | none => none
      | some t =>
        let cols := shapeCols (leAt h 8 1) (leAt h 9 1)
        let ds := (List.range n).map (fun i => (t.drop (96 + 16 * i)).take 16)
        let spans := ds.map (fun d => (leAt d 8 4, leAt d 12 4))
        if !ds.all (fun d => descriptorOk d (leAt h 10 1) cols) || !spans.all (fun p => p.2 = 0 || 96 + 16 * n ≤ p.1) || !apart spans
        then none
        else
          match read 0 (spans.foldl (fun m p => if p.2 = 0 then m else max m (p.1 + p.2)) (96 + 16 * n)) with
          | none => none
          | some f =>
            let o := objectOf f
            if sha512 (patchBytes f 0x20 (List.replicate 64 0)) = o.digest && o.sections.all (bodyOk cols) && o.codeOk &&
                o.groupsOk && o.catalogueOk && o.safeOk then some o else none

end Sys2Proof.Machine
end

