-- ==== Sys2Proof/Machine/Contexts.lean ====
section
/-! DEFINITION. What a pre-emption saves and a release restores: core contexts under live maps and colonnade records
(05 R162 to R166; 07 R226; 08 R260, R262; 15 R430, R431). -/

namespace Sys2Proof.Machine

/-! ### Byte images -/

/-- Cut a byte list into pieces of `n` bytes. -/
def chunksOf (n : Nat) : Nat → List Byte → List (List Byte)
  | 0, _ => []
  | k + 1, d => d.take n :: chunksOf n k (d.drop n)

/-- `n` bytes whose bits are those of a function. -/
def bytesOfBits (n : Nat) (f : Nat → Bool) : List Byte :=
  (List.range n).map (fun i => BitVec.ofNat 8 ((List.range 8).foldl (fun b j => if f (8 * i + j) then b + 2 ^ j else b) 0))

/-- The numbers of the set bits of a byte list. -/
def bitsOfBytes (d : List Byte) : List Nat :=
  (List.range d.length).flatMap (fun i => ((List.range 8).filter (fun j => bitOf (d[i]?.getD 0).toNat j)).map (8 * i + ·))

/-- The space of a slot number. -/
def spaceOfSlot (n : Nat) : Space := match n with | 0 => .c | 1 => .t | 2 => .m | 3 => .v | _ => .x

/-! ### Saving a core's context (05 R164, R165) -/

/-- `n` live-map records of a partition's memory from an address on; none where one cannot be read (05 R163). -/
def State.recordsAt (s : State) (part : Nat) : Nat → Nat → Option (List LiveMap)
  | 0, _ => some []
  | n + 1, x =>
    (s.readWindow part x 32).bind (fun h =>
      let e := leAt h 28 2
      ((s.readWindow part (x + 32) (4 * e)).bind (fun t => liveMapOf (wordsOf (h ++ t)))).bind (fun r =>
        (State.recordsAt s part n (x + 32 + 4 * e)).map (r.1 :: ·)))

/-- The live-map records of a core, located through LIVEMAP (01 R43; 05 R163). -/
def State.liveMaps (s : State) (k : Nat) : List LiveMap :=
  let c := s.core k
  (s.recordsAt (s.instOf k).part (c.livemap.toNat / 2 ^ 52) (c.livemap.toNat % 2 ^ 52)).getD []

/-- The live-map record of the safe point at which a core stands, with its index; an empty map when there is none (01 R43; 05 R163). -/
def State.liveMap (s : State) (k : Nat) : Nat × LiveMap :=
  let c := s.core k
  let l := s.liveMaps k
  match l.findIdx? (fun r => r.addr = c.barrierAt % 65536) with
  | some i => (i, l[i]?.getD {})
  | none => (0, {})

/-- An accumulator slot's image: A in row order, then E, SAT and NX. -/
def Core.accImage (c : Core) (a : Nat) : List Byte :=
  (List.range 4096).flatMap (fun i => leBytes 8 (c.accAt a i).toNat) ++
    leBytes 8 (wrapInt 16 (FMap.get 0 c.accE a) + (if FMap.get false c.accSat a then 2 ^ 16 else 0) +
      (if FMap.get false c.accNx a then 2 ^ 17 else 0))

/-- The body that a live map names (05 R165). -/
def State.contextBody (s : State) (k : Nat) (l : LiveMap) : List Byte :=
  let c := s.core k
  (bitList 64 l.s).flatMap (fun r => leBytes 8 (FMap.get 0 c.s r).toNat) ++
  (bitList 32 l.h).flatMap (fun r => leBytes 32 (FMap.get 0 c.h r).toNat) ++
  (if l.p / 2 = 0 then [] else leBytes 8 (predBits c.p)) ++
  (bitList 32 l.v).flatMap (fun r => (FMap.slice 0 (FMap.get [] c.v r) 0 1024).flatMap (fun w => leBytes 4 w.toNat)) ++
  (bitList 8 l.m).flatMap (fun r => leBytes 512 (FMap.get 0 c.m r)) ++
  (bitList 32 l.a).flatMap c.accImage ++
  l.extents.flatMap (fun e => (List.range e.2.2).flatMap (fun i => s.readRow (rowAt k e.1 (e.2.1 + i))))

/-- The schedule cycle at which a core's next bundle issues. -/
def State.nextCycle (s : State) (k : Nat) : Nat :=
  let c := s.core k
  if c.mode = .halted then 0
  else if c.fetched.isEmpty then c.fetchAt + (if c.noIdle then 0 else fld (s.fetchWord k c.pc).toNat 0 20)
  else c.issueAt

/-- A context image (05 R164). -/
def State.saveCore (s : State) (o : Object) (k : Nat) : List Byte :=
  let c := s.core k
  let col := (s.col (colOf k)).logical
  let g := s.groupOf k
  let l := if c.mode = .halted then (0, ({} : LiveMap)) else s.liveMap k
  let body := s.contextBody k l.2
  let held (n : Nat) : List Nat := match FMap.get none c.hold n with
    | some h => ((encodeSlot (spaceOfSlot n) h.slot).getD []).map (·.toNat)
    | none => []
  let holds := [1, 2, 3, 4, 5].map held
  leBytes 4 0x594C4358 ++ leBytes 2 1 ++ leBytes 1 o.mains ++ leBytes 1 o.draft ++ leBytes 1 col ++ leBytes 1 (coreNo k) ++
  leBytes 1 ((List.range 5).foldl (fun n i => if (holds[i]?.getD []).isEmpty then n else n + 2 ^ i) 0) ++
  leBytes 1 (if c.mode = .halted then 1 else 0) ++ leBytes 4 (c.pc % 65536) ++ leBytes 8 (s.nextCycle k) ++ leBytes 8 g.sched ++
  leBytes 8 g.stalls ++ leBytes 8 c.rep.word ++ leBytes 8 c.aflags.toNat ++ leBytes 8 c.tvec.toNat ++ leBytes 8 c.imask.toNat ++
  o.digest.take 8 ++ holds.flatMap (fun l => leBytes 4 (l.headD 0) ++ leBytes 4 ((l.drop 1).headD 0)) ++
  leBytes 4 l.1 ++ leBytes 4 body.length ++ body

/-! ### Saving a colonnade's record (15 R430) -/

/-- A ring's register, descriptor and reservation words (06 R190). -/
def Ring.image (r : Ring) : List Byte :=
  leBytes 8 (r.head * 2 ^ 40 + r.claim * 2 ^ 20 + r.tail) ++
  leBytes 8 (r.thresh * 2 ^ 40 + r.e * 2 ^ 24 + r.base * 2 ^ 8 + r.core * 2 ^ 4 + r.space) ++ leBytes 8 r.res

/-- The queues whose token windows a colonnade holds, by engine code and queue (05 R153). -/
def windowKeys : List Nat :=
  [1, 2, 3, 4, 5, 6, 7, 8, 9].flatMap (fun e => (List.range (if e = 3 || e = 4 then 8 else 4)).map (fun q => e * 16 + q))

/-- An edge index as an age before edge `now`, one more so that 0 is none (log entry 31). -/
def ageOf (now : Nat) (e : Option Nat) : List Byte := leBytes 2 (match e with | some x => min (now - x) 65534 + 1 | none => 0)

/-- A bank's state: its open row and the ages of its last commands. -/
def Bank.image (b : Bank) (now : Nat) : List Byte :=
  padTo 16 (leBytes 4 (match b.row with | some r => r + 1 | none => 0) ++
    [b.actAt, b.preAt, b.rdAt, b.wrAt, b.refAt].flatMap (ageOf now))

/-- A memory command engine's state in 512 bytes, at a schedule cycle (log entry 31). -/
def Chan.image (c : Chan) (n : Nat) : List Byte :=
  let now := edgeIndex n
  padTo 512 ((List.range 16).flatMap (fun b => (c.bank b).image now) ++
    leBytes 1 ((if c.selfRefresh then 1 else 0) + (if c.timetabled then 2 else 0)) ++ leBytes 1 0 ++
    [c.lastSend, c.rdAt, c.wrAt, c.preAt, c.refAllAt, c.mrAt, c.zqAt, c.xsrAt].flatMap (ageOf now) ++
    padTo 16 (c.acts.flatMap (fun e => ageOf now (some e))) ++ leBytes 2 0 ++ leBytes 4 (wrapInt 32 c.debt) ++
    leBytes 8 (n - c.since) ++ leBytes 8 (n - c.poll) ++ leBytes 8 (n - c.srAt))

/-- A card that has not started, in 16 bytes: its slot word, with the issuing core in [29:27] and the base of its lines in [30] and
[13:8]; its masks against that base; and its operand (log entry 31). -/
def JobCard.image (c : JobCard) : List Byte :=
  let base := (c.wait ++ c.signal).foldl min 127
  let mask (l : List Nat) : Nat := l.foldl (fun m n => setBit m (n - base)) 0
  let w := match encodeSlot .x ⟨false, false, 0, c.op⟩ with | some (x :: _) => x.toNat | _ => 0
  let w := w - w / 2 ^ 8 % 2 ^ 6 * 2 ^ 8 + base % 64 * 2 ^ 8 + base / 64 * 2 ^ 30 + coreNo c.core * 2 ^ 27
  leBytes 4 w ++ leBytes 4 (mask c.wait * 2 ^ 16 + mask c.signal) ++ leBytes 8 c.operand.toNat

/-- The cards of a colonnade's queues of an engine that have not started, a running one first (15 R431). -/
def State.unstarted (s : State) (e : Engine) (col inst : Nat) : List (Nat × JobCard) :=
  (List.range 4).flatMap (fun n =>
    let u := s.queue { engine := e, col := col, queue := n }
    let run := if e = .decode then u.running.toList else []
    ((run ++ u.cards ++ u.transit).filter (fun c => c.inst = inst)).map (fun c =>
      (n, { c with claimed := 0, wait := if c.claimed = 0 then c.wait else [] })))

/-- A decode attention slot's header in the record: its descriptor with status, PLEN and bound flag, then its tree image. -/
def DaSlot.header (v : DaSlot) : List Byte :=
  padTo 256 (padTo 64 v.desc ++ leBytes 8 v.status ++ leBytes 3 v.plen ++ leBytes 1 (if v.bound then 1 else 0)) ++ padTo 512 v.image

/-- A bound slot's queries and running state: 8 bytes per query element, 8 per query. -/
def DaSlot.running (v : DaSlot) : List Byte :=
  if !v.bound then []
  else
    let n := dNq v.desc * dDim v.desc
    (v.queries.take n).zipIdx.flatMap (fun p => leBytes 4 p.1 ++ leBytes 4 (FMap.get 0 v.acc p.2)) ++
      (List.range (dNq v.desc)).flatMap (fun q => leBytes 4 (wrapInt 32 (FMap.get emptyM v.m q)) ++ leBytes 4 (FMap.get 0 v.l q))

/-- A colonnade record's header, shared with a check of it. -/
def recordHeader (o : Object) (logical number : Nat) : List Byte :=
  padTo 64 (leBytes 4 0x594C4352 ++ leBytes 2 1 ++ leBytes 1 o.mains ++ leBytes 1 o.draft ++ leBytes 2 logical ++ leBytes 2 number ++
    leBytes 4 0 ++ o.digest.take 8)

/-- The colonnade record (15 R430). -/
def State.saveCol (s : State) (o : Object) (inst number col : Nat) : List Byte :=
  let c := s.col col
  let g := s.group c.group
  recordHeader o c.logical number ++
  (List.range 64).flatMap (fun n => (c.ring n).image) ++
  bytesOfBits 2048 (fun b => FMap.get false c.route b) ++
  (List.range 128).flatMap (fun n => leBytes 1 (FMap.get 0 c.counts n)) ++
  bytesOfBits 16 (fun b => FMap.get false c.sticky b) ++
  padTo 64 (windowKeys.flatMap (fun k => leBytes 1 (FMap.get 0 c.windows k))) ++
  padTo 32 (leBytes 1 g.fragIndex ++ leBytes 1 (if g.fragValid then 1 else 0) ++ leBytes 2 0 ++
    (List.range 8).flatMap (fun b => leBytes 2 (FMap.get 0 c.ways b)) ++ leBytes 4 0 ++
    (match c.abandon with | some e => leBytes 1 1 ++ leBytes 1 e | none => [])) ++
  (List.range 4).flatMap (fun h => (c.chan h).image g.sched) ++
  padTo 2048 ((s.unstarted .decode col inst).flatMap (fun p => p.2.image)) ++
  padTo 4096 ((s.unstarted .stacks col inst).flatMap (fun p => p.2.image)) ++
  (List.range 8).flatMap (fun k =>
    (FMap.slice 0 (s.core (col * 8 + k)).locked 0 1024).flatMap (fun e => leBytes 16 e.toNat)) ++
  (List.range 16).flatMap (fun n => (s.slot col n).header) ++ (List.range 16).flatMap (fun n => (s.slot col n).running)

/-! ### Launch values (15 R430, R432) -/

/-- The flat addresses of a colonnade's scratchpads, blocks and instruction memories. -/
def inColonnade (col a : Nat) : Bool :=
  (spAddr (col * 8) 0 ≤ a && a < spAddr (col * 8 + 8) 0) || (cbAddr col 0 0 ≤ a && a < cbAddr (col + 1) 0 0) ||
    (imAddr (col * 8) 0 ≤ a && a < imAddr (col * 8 + 8) 0)

/-- What a channel keeps whatever runs on its colonnade: the devices' own registers and the engine's counts of them. -/
def Chan.device (c : Chan) : Chan := { mr := c.mr, corrected := c.corrected, limit := c.limit, modeD := c.modeD, own := c.own }

/-- A colonnade's state of ownership, heat and service, without what an instance left on it. -/
def Col.blank (c : Col) : Col :=
  { part := c.part, lentTo := c.lentTo, lease := c.lease, memExtent := c.memExtent, gated := c.gated, temp := c.temp, heldHot := c.heldHot,
    draining := c.draining, drainFor := c.drainFor, failed := c.failed, retired := c.retired,
    chans := c.chans.map (fun p => (p.1, p.2.device)) }

/-- Work for the rings of a colonnade whose instance has left it: a publication is dropped, and of entries on their way only the answer to
the peer is left. -/
def Work.unringed (col : Nat) : Work → Option Work
  | .ringTail c g start n copied => if c = col then none else some (.ringTail c g start n copied)
  | .place c g start rows landed pub reply => some (if c = col then .place c g start [] 0 0 reply else .place c g start rows landed pub reply)
  | w => some w

/-- A colonnade returns to its launch values: nothing of what ran on it is left (15 R432, R435; 05 R166); rows that no live map or
section names then read as memory that nothing has written (log entry 2). -/
def State.scrubCol (s : State) (col : Nat) : State :=
  let s : State := { s with
    mem := s.mem.filter (fun p => !inColonnade col p.1),
    tags := s.tags.filter (fun p => !inColonnade col (p.1 * 256)),
    cores := s.cores.filter (fun p => colOf p.1 ≠ col),
    da := s.da.filter (fun p => p.1 / 16 ≠ col),
    agenda := s.agenda.filterMap (fun it => (it.work.unringed col).map (fun w => { it with work := w })) }
  s.modCol col Col.blank

/-! ### Restoring a colonnade's record -/

/-- A ring from its three words. -/
def Ring.ofImage (d : List Byte) : Ring :=
  let a := leAt d 0 8; let b := leAt d 8 8
  { head := a / 2 ^ 40 % 2 ^ 20, claim := a / 2 ^ 20 % 2 ^ 20, tail := a % 2 ^ 20, res := leAt d 16 8 % 2 ^ 20,
    thresh := b / 2 ^ 40 % 2 ^ 13, e := b / 2 ^ 24 % 2 ^ 13, base := b / 2 ^ 8 % 2 ^ 13, core := b / 2 ^ 4 % 8, space := b % 16 }

/-- An edge index from its age. -/
def edgeOf (now a : Nat) : Option Nat := if a = 0 then none else some (now - (a - 1))

/-- A bank from its image. -/
def Bank.ofImage (d : List Byte) (now : Nat) : Bank :=
  let t (i : Nat) : Option Nat := edgeOf now (leAt d (4 + 2 * i) 2)
  { row := match leAt d 0 4 with | 0 => none | n + 1 => some n, actAt := t 0, preAt := t 1, rdAt := t 2, wrAt := t 3, refAt := t 4 }

/-- A memory command engine from its image, at a schedule cycle, over what the devices keep. -/
def Chan.restore (c : Chan) (d : List Byte) (n : Nat) : Chan :=
  let now := edgeIndex n
  let t (i : Nat) : Option Nat := edgeOf now (leAt d (258 + 2 * i) 2)
  let f := leAt d 256 1
  { c.device with
    banks := FMap.ofList {} 0 ((chunksOf 16 16 d).map (fun b => Bank.ofImage b now)),
    selfRefresh := bitOf f 0, timetabled := bitOf f 1, lastSend := t 0, rdAt := t 1, wrAt := t 2, preAt := t 3, refAllAt := t 4,
    mrAt := t 5, zqAt := t 6, xsrAt := t 7,
    acts := (List.range 8).filterMap (fun i => edgeOf now (leAt d (274 + 2 * i) 2)),
    debt := signedOf 32 (leAt d 292 4), since := n - leAt d 296 8, poll := n - leAt d 304 8, srAt := n - leAt d 312 8 }

/-- A card from its 16 bytes; none for an empty place. -/
def JobCard.ofImage (d : List Byte) (col logical inst serial : Nat) : Option (Nat × JobCard) :=
  let w := leAt d 0 4; let l := leAt d 4 4
  if w = 0 then none
  else
    let base := w / 2 ^ 8 % 2 ^ 6 + w / 2 ^ 30 % 2 * 64
    let lines (m : Nat) : List Nat := (bitList 16 m).map (base + ·)
    match decodeSlotNat .x (w % 2 ^ 27) l with
    | .error _ => none
    | .ok sl =>
      let card : JobCard := {
        serial := serial, op := sl.op, operand := BitVec.ofNat 64 (leAt d 8 8), col := col,
        logical := logical, core := col * 8 + w / 2 ^ 27 % 8, inst := inst,
        wait := lines (l / 2 ^ 16), signal := lines (l % 2 ^ 16) }
      some (w / 2 ^ 14 % 4, card)

/-- A decode attention slot from its header and the running states that follow, and what is left of these. -/
def DaSlot.ofImage (h run : List Byte) : DaSlot × List Byte :=
  let desc := padTo 256 (h.take 64)
  let v : DaSlot := { bound := leAt h 75 1 = 1, status := leAt h 64 8, plen := leAt h 72 3, image := (h.drop 256).take 512 }
  if !v.bound then (if v.status = 0 && v.plen = 0 && allZero v.image then {} else v, run)
  else
    let nq := dNq desc; let n := nq * dDim desc
    let es := chunksOf 8 n run
    let qs := chunksOf 8 nq (run.drop (8 * n))
    ({ v with desc := desc, queries := es.map (fun e => leAt e 0 4), acc := FMap.ofList 0 0 (es.map (fun e => leAt e 4 4)),
              m := FMap.ofList emptyM 0 (qs.map (fun e => signedOf 32 (leAt e 0 4))),
              l := FMap.ofList 0 0 (qs.map (fun e => leAt e 4 4)) }, run.drop (8 * n + 8 * nq))

/-- Put cards that have not started into a colonnade's queues. -/
def State.putCards (s : State) (e : Engine) (col : Nat) (l : List (Nat × JobCard)) : State :=
  l.foldl (fun s p => s.modQueue { engine := e, col := col, queue := p.1 } (fun u => { u with cards := u.cards ++ [p.2] })) s

/-- Restore a colonnade from its record, its group at schedule cycle `n`; `cards`: also its cards (15 R430). -/
def State.restoreCol (s : State) (col inst n : Nat) (d : List Byte) (cards : Bool) : State :=
  let part (off len : Nat) : List Byte := (d.drop off).take len
  let at_ (off len : Nat) : Nat := leNat (part off len)
  let logical := (s.col col).logical
  let s := s.modCol col (fun c => { c with
    rings := FMap.ofList {} 0 ((chunksOf 24 64 (part 0x40 1536)).map Ring.ofImage),
    route := (bitsOfBytes (part 0x640 2048)).map (fun b => (b, true)),
    counts := FMap.ofList 0 0 ((part 0xE40 128).map (·.toNat)),
    sticky := (bitsOfBytes (part 0xEC0 16)).map (fun b => (b, true)),
    windows := (windowKeys.zip (part 0xED0 64)).foldl (fun m p => FMap.set 0 m p.1 p.2.toNat) [],
    ways := FMap.ofList 0 0 ((chunksOf 2 8 (part 0xF14 16)).map leNat),
    abandon := if at_ 0xF28 1 = 1 then some (at_ 0xF29 1) else none, abandonAt := n,
    chans := (List.range 4).foldl (fun m h =>
      FMap.set {} m h ((c.chan h).restore (part (0xF30 + 512 * h) 512) n)) c.chans })
  let s := (List.range 8).foldl (fun s k => s.modCore (col * 8 + k) (fun c => { c with
    locked := FMap.ofList 0 0 ((chunksOf 16 1024 (part (0x2F30 + 16384 * k) 16384)).map (fun e => BitVec.ofNat 128 (leNat e))) })) s
  let slots := (chunksOf 768 16 (part 0x22F30 12288)).foldl (fun (a : List DaSlot × List Byte) h =>
    let r := DaSlot.ofImage h a.2
    (a.1 ++ [r.1], r.2)) ([], d.drop 0x25F30)
  let s := slots.1.zipIdx.foldl (fun s p => s.setSlot col p.2 p.1) s
  if !cards then s
  else
    let cardsOf (off k : Nat) (base : Nat) : List (Nat × JobCard) :=
      (chunksOf 16 k (part off (16 * k))).zipIdx.filterMap (fun p => JobCard.ofImage p.1 col logical inst (base + p.2))
    let s := s.putCards .decode col (cardsOf 0x1730 128 s.ctr)
    let s := s.putCards .stacks col (cardsOf 0x1F30 256 (s.ctr + 128))
    { s with ctr := s.ctr + 384 }

/-! ### Restoring a core (05 R166) -/

/-- The strides and the address of a repeat in progress whose bundle stands at `addr`: those of the REPEAT whose bundle ends there
(02 R66, R69; log entry 32). -/
def State.repeatAt (s : State) (k addr : Nat) : Option (Nat × Nat × Nat) :=
  ((List.range 12).filterMap (fun i =>
    let a := addr - (i + 3)
    match splitBundle a ((List.range 13).map (fun j => BitVec.ofNat 32 (leNat (s.mem.readBytes (imAddr k 0 + 4 * (a + j)) 4)))) with
    | none => none
    | some b =>
      if addr < i + 3 || a + b.len ≠ addr then none
      else match b.slot? 0 with
        | some r => (match r.decode with
          | .ok sl => (match sl.op with
            | .rept _ x y z => some (x.val, y.val, z.val)
            | .repts _ _ x y z => some (x.val, y.val, z.val)
            | _ => none)
          | .error _ => none)
        | none => none)).head?

/-- No accumulator slot of a core has a defined value: at a launch, or where a record does not name it (07 R207; 01 R43; log entry 6). -/
def State.freeSlots (s : State) (k : Nat) : State :=
  ({ s with ctr := s.ctr + 131072 }).modCore k (fun c => { c with
    acc := [], accBase := FMap.ofList 0 0 ((List.range 32).map (fun a => s.ctr + 4096 * a + 1)) })

/-- What a record does not name has no defined value: every register of the core becomes a free value (05 R166; log entry 12). -/
def State.freeRegisters (s : State) (k : Nat) : State :=
  let f (i : Nat) : Word := Config.freeWord (s.ctr + i)
  let lanes (r : Nat) : List Word32 :=
    (List.range 512).flatMap (fun j => [(f (193 + r * 512 + j)).setWidth 32, ((f (193 + r * 512 + j)) >>> 32).setWidth 32])
  (({ s with ctr := s.ctr + 20000 }).freeSlots k).modCore k (fun c => { c with
    s := FMap.ofList 0 1 ((List.range 63).map f),
    h := FMap.ofList 0 0 ((List.range 32).map (fun r =>
      BitVec.ofNat 256 ((List.range 4).foldl (fun n w => n * 2 ^ 64 + (f (64 + 4 * r + w)).toNat) 0))),
    p := predOf (f 192).toNat,
    v := FMap.ofList [] 0 ((List.range 32).map (fun r => FMap.ofList 0 0 (lanes r))),
    m := FMap.ofList 0 0 ((List.range 8).map (fun r =>
      (List.range 64).foldl (fun n w => n * 2 ^ 64 + (f (16577 + r * 64 + w)).toNat) 0)) })

/-- Put the body of a context back under its live map. -/
def State.restoreBody (s : State) (k : Nat) (l : LiveMap) (n : Nat) (d : List Byte) : State :=
  let ss := bitList 64 l.s; let hs := bitList 32 l.h; let vs := bitList 32 l.v; let ms := bitList 8 l.m; let as_ := bitList 32 l.a
  let o1 := 8 * ss.length; let o2 := o1 + 32 * hs.length
  let o3 := if l.p / 2 = 0 then o2 else o2 + 8
  let o4 := o3 + 4096 * vs.length; let o5 := o4 + 512 * ms.length; let o6 := o5 + 32776 * as_.length
  let s := s.modCore k (fun c =>
    let c := (ss.zip (chunksOf 8 ss.length d)).foldl (fun (c : Core) p => c.setMain p.1 (BitVec.ofNat 64 (leNat p.2))) c
    let c := (hs.zip (chunksOf 32 hs.length (d.drop o1))).foldl (fun (c : Core) p => c.setH p.1 (BitVec.ofNat 256 (leNat p.2))) c
    let pb := leAt d o2 8
    let c := { c with p := (List.range 8).foldl (fun m i => if i ≠ 0 && bitOf l.p i then FMap.set false m i (bitOf pb i) else m) c.p }
    let c := (vs.zip (chunksOf 4096 vs.length (d.drop o3))).foldl (fun (c : Core) p =>
      { c with v := FMap.set [] c.v p.1 (FMap.ofList 0 0 ((chunksOf 4 1024 p.2).map (fun w => BitVec.ofNat 32 (leNat w)))) }) c
    let c := (ms.zip (chunksOf 512 ms.length (d.drop o4))).foldl (fun (c : Core) p =>
      { c with m := FMap.set 0 c.m p.1 (leNat p.2) }) c
    (as_.zip (chunksOf 32776 as_.length (d.drop o5))).foldl (fun (c : Core) p =>
      let t := leAt p.2 32768 8
      { c with
        acc := FMap.set [] c.acc p.1 (FMap.ofList none 0 ((chunksOf 8 4096 p.2).map (fun w => some (BitVec.ofNat 64 (leNat w))))),
        accE := FMap.set 0 c.accE p.1 (signedOf 16 t), accSat := FMap.set false c.accSat p.1 (bitOf t 16),
        accNx := FMap.set false c.accNx p.1 (bitOf t 17), owned := FMap.set false c.owned p.1 true,
        wmark := FMap.set [] c.wmark p.1 [(n, 64)] }) c)
  (l.extents.foldl (fun (a : State × List Byte) e =>
    ((chunksOf 256 e.2.2 a.2).zipIdx.foldl (fun s p => s.openWrite (rowAt k e.1 (e.2.1 + p.2)) p.1) a.1, a.2.drop (256 * e.2.2)))
    (s, d.drop o6)).1

/-- Restore a core from its context image (05 R166): the header's fields and the named state; SPACING, TCAUSE, TVAL, IPEND and the
shadow bank are zero; RESUME issues at NEXTCYC. Where a restored hold was installed is free (log entry 99). -/
def State.restoreCore (s : State) (k : Nat) (d : List Byte) : State :=
  let halted := bitOf (leAt d 11 1) 0
  let entry := bitOf (leAt d 11 1) 1
  let resume := leAt d 0x0C 4 % 65536
  let n := leAt d 0x10 8; let sched := leAt d 0x18 8
  let rep := leAt d 0x28 8
  let l := if entry || halted then ({} : LiveMap) else (s.liveMaps k)[leAt d 0x78 4]?.getD {}
  let s := if entry then s.freeSlots k else s.freeRegisters k
  let s := s.restoreBody k l sched (d.drop 128)
  let w := s.freshWord
  let strides := (s.repeatAt k resume).getD (0, 0, 0)
  let holds := (List.range 5).foldl (fun (m : FMap (Option Hold)) i =>
    if bitOf (leAt d 10 1) i then
      match decodeSlotNat (spaceOfSlot (i + 1)) (leAt d (0x50 + 8 * i) 4) (leAt d (0x54 + 8 * i) 4) with
      | .ok sl => FMap.set none m (i + 1) (some ⟨sl, w.1.toNat % 65536⟩)
      | .error _ => m
    else m) []
  w.2.modCore k (fun c => { c with
    pc := resume, fetched := [], fetchAt := n, issueAt := n, noIdle := true, stopAt := sched,
    mode := if halted then .halted else .run, hold := holds,
    aflags := BitVec.ofNat 64 (leAt d 0x30 8), tvec := BitVec.ofNat 64 (leAt d 0x38 8), imask := BitVec.ofNat 64 (leAt d 0x40 8),
    rep :=
      let r : Repeat := { active := bitOf rep 36, iter := rep / 2 ^ 24 % 4096, pad := rep / 2 ^ 12 % 4096, left := rep % 4096 }
      if r.active then { r with svd := strides.1, sva := strides.2.1, svb := strides.2.2, addr := resume } else r })

/-- The context header of a first launch (15 R428): RESUME at entry 0 of the Catalogue, NEXTCYC 0, ENTRY set. -/
def firstContext (o : Object) (logical core : Nat) : List Byte :=
  leBytes 4 0x594C4358 ++ leBytes 2 1 ++ leBytes 1 o.mains ++ leBytes 1 o.draft ++ leBytes 1 logical ++ leBytes 1 core ++
    leBytes 1 0 ++ leBytes 1 2 ++ leBytes 4 ((o.entry logical core 0).getD 0) ++ List.replicate 56 0 ++ o.digest.take 8 ++
    List.replicate 48 0

/-! ### What the loader places (02 R77; 05 R134; 06 R197; 08 R260) -/

/-- Rows of a data section or of a launch's DATA in a core's view. -/
def State.loadRows (s : State) (k : Nat) (d : List Byte) : State :=
  let w := leAt d 0 4
  (chunksOf 256 ((d.length - 4) / 256) (d.drop 4)).zipIdx.foldl (fun s p =>
    s.openWrite (rowAt k (w / 2 ^ 28) (w % 2 ^ 13 + p.2)) p.1) s

/-- A core's code of a variant, its attributes, Catalogue, live-map register and coefficients; its live-map records are the object's own, where
the object lies in device memory (05 R134, R163; log entry 9). -/
def State.loadCore (s : State) (o : Object) (variant objAddr logical k : Nat) : State :=
  let n := coreNo k
  let a := o.body 2 0 logical n
  let s : State := { s with mem := s.mem.writeBytes (imAddr k 0) (o.body 1 variant logical n) }
  s.modCore k (fun c => { c with
    stage := BitVec.ofNat 4 (leAt a 0 1),
    valloc := if a.isEmpty then 0x1F00#64 else BitVec.ofNat 64 (leAt a 2 1 * 2 ^ 8 + leAt a 1 1),
    livemap := match (o.liveMaps logical n).length, o.sectionOf 5 0 logical n with
      | m + 1, some x => BitVec.ofNat 64 ((m + 1) * 2 ^ 52 + (objAddr + x.off) % 2 ^ 52)
      | _, _ => 0,
    catalogue := FMap.ofList 0 0 ((List.range 256).map (fun e => match o.entry logical n e with | some x => x + 1 | none => 0)),
    coef := FMap.ofList 0 0 ((wordsOf (o.body 6 0 logical n)).map (fun w => BitVec.ofNat 32 w)) })

/-- Data rows and rings of a colonnade: of a first launch (15 R428). -/
def State.loadColData (s : State) (o : Object) (logical col : Nat) : State :=
  o.sections.foldl (fun s x =>
    if x.col ≠ logical then s
    else if x.ty = 7 then s.loadRows (col * 8 + (if x.core ≤ 7 then x.core else 0)) x.data
    else if x.ty = 8 then (chunksOf 16 (x.data.length / 16) x.data).foldl (fun s d =>
      s.modRing col (leAt d 0 1) (fun _ =>
        { space := leAt d 1 1, base := leAt d 2 2, e := leAt d 4 2, thresh := leAt d 6 2 })) s
    else s) s

end Sys2Proof.Machine
end

