-- ==== Sys2Proof/Machine/Groups.lean ====
section
/-! DEFINITION. Timing groups: the releases of ALIGN and FRAG, resumption from a freeze, interrupts, abandonment, and reserved
opcodes (01 R18 to R24, R38 to R42; 02 R63; 12 R368). -/

namespace Sys2Proof.Machine

/-- A core released at a schedule cycle: it issues its next bundle then, its IDLE not applied, its holds cleared and the wait
not counted in SPACING (01 R20, R41; 02 R52, R57). -/
def Core.release (c : Core) (n : Nat) : Core :=
  if c.mode = .atAlign || c.mode = .atFrag then
    { c with mode := .run, hold := [], stopAt := c.stopAt + (n - c.arrivedAt), issueAt := max n c.issueAt,
             fetchAt := max n c.issueAt, fetched := [], noIdle := true }
  else c

/-- The cores of a group that have not halted. -/
def State.liveCores (s : State) (g : Nat) : List Nat :=
  (s.group g).coreList.filter (fun k => (s.core k).mode ≠ .halted)

/-- What the look-ahead has found in the wall cycles before a release freezes the group after it (01 R464). -/
def Group.adopt (gr : Group) : Group :=
  { gr with
    conds := gr.later.foldl (fun l c => addCond c l) gr.conds,
    freezeAt := match gr.freezeAt, gr.laterAt with | some a, some b => some (min a b) | none, b => b | a, none => a,
    clearedAt := max gr.clearedAt gr.laterClear, later := [], laterAt := none, laterClear := 0 }

/-- ALIGN_RELEASE: every core that waits at the ALIGN issues its next bundle on this cycle; the release of a launch or a
restore also starts the schedule, and what its look-ahead has found since its barrier stands (01 R19, R20, R464; 05 R166). -/
def execAlignRelease (s : State) : Host.Outcome State Fault Refusal :=
  let g := s.ev.group
  let n := (s.group g).sched
  let s := (s.liveCores g).foldl (fun s k => s.modCore k (fun c => c.release n)) s
  .next (s.modGroup g (fun gr => { gr.adopt with barrier := none, phase := .run, started := true }))

/-- Where a core starts a Catalogue entry; none when it is empty (01 R38). -/
def Core.entryStart (c : Core) (e : Nat) : Option Nat :=
  match FMap.get 0 c.catalogue e with
  | 0 => none
  | n => some (n - 1)

/-- FRAG_RELEASE: every core is released into the Catalogue entry read; an empty entry raises CATALOGUE_RANGE in every core
at its FRAG (01 R39); after an abandonment a repeat in progress is over (12 R368). -/
def execFragRelease (s : State) : Host.Outcome State Fault Refusal :=
  let g := s.ev.group
  let gr := s.group g
  let e := gr.entry.getD 0
  let live := s.liveCores g
  let s := s.modGroup g (fun gr => { gr with barrier := none, entry := none, abandoning := false })
  if live.any (fun k => ((s.core k).entryStart e).isNone) then
    .next (live.foldl (fun s k =>
      takeTrap s { core := k, cause := .catalogueRange, tval := e, slot := 0, rank := 9 } (s.core k).barrierAt) s)
  else
    let s := live.foldl (fun s k => s.modCore k (fun c =>
      { c.release gr.sched with pc := (c.entryStart e).getD 0, rep := if gr.abandoning then {} else c.rep })) s
    .next (s.modGroup g (fun gr => { gr with phase := .run, lastEntry := e }))

/-- RESUMPTION: the group goes on at the schedule cycle at which it froze; what its commands were owed is made good first, and
a bundle that was to issue now is fetched now, its IDLE over; one not fetched yet waits its own IDLE (01 R24, 02 R52, 09 R291). -/
def execResumption (s : State) : Host.Outcome State Fault Refusal :=
  let g := s.ev.group
  let n := (s.group g).sched
  let s := s.modGroup g (fun gr => { gr with
    phase := .run, conds := gr.later, freezeAt := gr.laterAt, clearedAt := gr.laterClear, later := [], laterAt := none, laterClear := 0,
    freezeAfter := false, captured := false, checked := false })
  let s := (s.group g).cols.foldl (fun s c => s.modCol c (fun co => { co with stopped := false })) s
  let s := (s.liveCores g).foldl (fun s k => s.modCore k (fun c =>
    if c.mode = .run && c.issueAt ≤ n && (!c.fetched.isEmpty || c.readyRett) then
      { c with fetched := [], fetchAt := n, issueAt := n, noIdle := true, readyRett := false }
    else { c with readyRett := false })) s
  .next (s.replay g)

/-- INTERRUPT: an enabled pending interrupt is taken after its stop point (01 R42, 05 R156). -/
def execInterrupt (s : State) : Host.Outcome State Fault Refusal := .next (takeInterrupt s s.ev.core)

/-- ABANDONMENT (12 R368): at a common stop point every core counts as arriving at a FRAG at the next cycle, and the release,
40 cycles later, goes to entry ABENT; at a FRAG the release itself takes it, with the entry of the latest request by then (log entry 113).
FRAGSEL is neither read nor changed. -/
def execAbandonment (s : State) : Host.Outcome State Fault Refusal :=
  let g := s.ev.group
  let gr := s.group g
  let pend := (gr.cols.filterMap (fun c => (s.col c).abandon.map (fun e => ((s.col c).abandonAt, e))))
  let e := (pend.foldl (fun (b : Nat × Nat) p => if b.1 ≤ p.1 then p else b) (0, 0)).2
  let s := gr.cols.foldl (fun s c => s.modCol c (fun co => { co with abandon := none })) s
  match gr.barrier with
  | some (_, true) =>
    .next (s.modGroup g (fun gr => { gr with
      fragValid := gr.fragValid || (gr.entry.isSome && !gr.abandoning),
      entry := some e, abandoning := true }))
  | _ =>
    let s := (s.liveCores g).foldl (fun s k => s.modCore k (fun c =>
      { c with mode := .atFrag, arrivedAt := gr.sched + 1, rep := {}, issueAt := gr.sched })) s
    .next (s.modGroup g (fun gr => { gr with
      barrier := some (gr.sched + 1 + Config.releaseDelay, true), entry := some e, abandoning := true }))

/-- RESERVED_OPCODE: ILLEGAL at the bundle of the slot (02 R63). -/
def execReservedOpcode (s : State) : Host.Outcome State Fault Refusal :=
  .next (takeTrap s (s.illegal 2) s.here.bundle)

end Sys2Proof.Machine
end

