-- ==== Sys2Proof/Machine/Stacks.lean ====
section
/-! DEFINITION. The Stacks (spec 11): sequences and chains, windows and generations, trees, provisional writes, commit and
squash, copies in flight, requantisation, shared pages, sliding, deferred faults and the feature buffer. Each card takes
effect as one step of its sequence (R329), or fails before any effect (R328). -/

namespace Sys2Proof.Machine

/-! ### Codes (11 R328) -/

def kOperand : Nat := 1
def kUnbound : Nat := 2
def kBusy : Nat := 3
def kGens : Nat := 4
def kNogen : Nat := 5
def kTree : Nat := 6
def kPath : Nat := 7
def kPool : Nat := 8
def kRange : Nat := 9
def kRemote : Nat := 12

/-- What a step gives: the state after it, or the code of its failure. -/
abbrev KResult := Except Nat State

/-- A step's check: the first code whose condition holds, else the step. -/
def kChecks (l : List (Bool × Nat)) (k : KResult) : KResult :=
  match l.find? (·.1) with
  | some p => .error p.2
  | none => k

/-! ### Chains and pools (11 R318, R323, R331) -/

/-- The record of a generation. -/
def Sequence.genRec (q : Sequence) (g : Nat) : Gen := FMap.get {} q.gens g

/-- The home of a chain (11 R334). -/
def Sequence.home (q : Sequence) (i : Nat) : Nat := (q.homes[i * q.homes.length / q.nchain]?).getD 0

/-- The format of a chain. -/
def Sequence.fmtOf (q : Sequence) (i : Nat) : Nat := FMap.get q.kvfmt q.fmts i

/-- The head of a chain, from the chain table at CTAB through the first home; a fork keeps its own (log entry 22). -/
def State.chainHead (s : State) (n i : Nat) : Nat :=
  let q := s.seq n
  if q.forked then FMap.get noPage q.heads i
  else
    let x := q.ctab + 8 * i
    match s.readDv (s.dvCore (q.home 0) x) x 8 with
    | some d => leNat d
    | none => noPage

/-- Write a chain's head. -/
def State.setChainHead (s : State) (n i p : Nat) : State :=
  let q := s.seq n
  if q.forked then s.setSeq n { q with heads := FMap.set noPage q.heads i p }
  else
    let x := q.ctab + 8 * i
    s.writeDv (s.dvCore (q.home 0) x) x (leBytes 8 p)

/-- The pages of a chain. -/
def State.chain (s : State) (n i : Nat) : List Nat := s.chainPages ((s.seq n).home i) maxPages (s.chainHead n i)

/-- The key of the pool that a page belongs to: its home's cb pool, or its partition's dv, host or peer pages. -/
def poolKey (part col p : Nat) : Nat :=
  let sp := p / 2 ^ 60 % 16
  if sp ≤ 8 then col else if sp = 10 then 16 + part else if sp = 14 then 32 + part else 48 + part * 4 + (sp - 10)

/-- Take a page from a pool. -/
def State.takeFrom (s : State) (key : Nat) : Option (Nat × State) :=
  match FMap.get [] s.pools key with
  | [] => none
  | p :: r => some (p, { s with pools := FMap.set [] s.pools key r })

/-- A new page for a chain: the home's cb pool while TIER is 0, else the partition's dv pool (11 R323). -/
def State.takePage (s : State) (n i : Nat) : Option (Nat × State) :=
  let q := s.seq n
  match (if q.tier = 0 then s.takeFrom (q.home i) else none) with
  | some r => some r
  | none => s.takeFrom (16 + q.part)

/-- Return a page at once to its pool. -/
def State.poolPage (s : State) (key p : Nat) : State := { s with pools := FMap.modify [] s.pools key (· ++ [p]) }

/-- A page leaves a chain: its SHARE falls, and at 0 it returns to its pool when the chain's readers have left (11 R331). -/
def State.releasePage (s : State) (n i p : Nat) : State :=
  let q := s.seq n
  let col := q.home i
  let pg := s.loadPage col p
  let key := poolKey q.part col p
  let rs := (s.readers.filter (fun r => r.2.2 = i && r.2.1 = n)).map (·.1)
  if 1 < pg.share then
    let s := s.pageWrite col p 16 (leBytes 2 (pg.share - 1))
    if rs.isEmpty then s else { s with leaving := s.leaving ++ [(key + sharedKey, p, rs)] }
  else
    let all := rs ++ (s.leaving.filter (fun l => l.1 = key + sharedKey && l.2.1 = p)).flatMap (·.2.2)
    if all.isEmpty then s.poolPage key p
    else { s with leaving := s.leaving ++ [(key, p, all)] }

/-- The node keeps the deferred fault with the lowest chain, the first recorded for equal chains (11 R345). -/
def Sequence.defer (q : Sequence) (f : NodeFault) : Sequence :=
  match q.faults.find? (fun o => o.gen = f.gen && o.node = f.node) with
  | none => { q with faults := q.faults ++ [f] }
  | some o => if f.chain < o.chain then { q with faults := q.faults.map (fun x => if x = o then f else x) } else q

/-- The provisional slots of a page whose data cannot be read: the slot, its word, and why (11 R345). -/
def State.softFaults (s : State) (col : Nat) (pg : Page) : List (Nat × Nat × DvErr) :=
  let n := pg.d * fmtBytes pg.fmt
  (pg.slots.zipIdx.filter (fun p => slotState p.1 = 2)).filterMap (fun p =>
    (match s.pageErr col pg.ptr (keyOff pg.d pg.fmt p.2) n false with
      | some e => some e
      | none => s.pageErr col pg.ptr (valOff pg.d pg.ptok pg.fmt p.2) n false).map (fun e => (p.2, p.1, e)))

/-- The slot words of a page that a step copies: a provisional slot whose data could not be read takes the cause (11 R345). -/
def Page.copied (pg : Page) (bad : List (Nat × Nat × DvErr)) : List Nat :=
  pg.slots.zipIdx.map (fun p => match bad.find? (fun b => b.1 = p.2) with
    | some b => p.1 - slotFault p.1 * 2 ^ 16 + b.2.2.cause * 2 ^ 16
    | none => p.1)

/-- The faults that a step met in reading provisional slots are deferred for their nodes (11 R345). -/
def State.deferFaults (s : State) (n i : Nat) (bad : List (Nat × Nat × DvErr)) : State :=
  bad.foldl (fun s b => s.modSeq n (fun q =>
    if q.live.contains (slotGen b.2.1) then q.defer ⟨slotGen b.2.1, slotNode b.2.1, b.2.2.cause, i⟩ else q)) s

/-- A report on its way that names a slot of a page of a chain finds the slot where the page has gone (11 R345; log entry 135). -/
def State.moveReports (s : State) (n i old new : Nat) : State :=
  { s with agenda := s.agenda.map (fun it => match it.work with
    | .event ⟨.faultReport, a⟩ =>
      if a.seq = n && a.chain = i && a.addr = old then { it with work := .event ⟨.faultReport, { a with addr := new }⟩ } else it
    | _ => it) }

/-- Copy a page whole for sequence `n`; what its reading or writing meets, as a code, but for the data of provisional slots, whose faults are
deferred (11 R328, R345). -/
def State.copyPage (s : State) (n i old new next : Nat) : KResult :=
  let col := (s.seq n).home i
  let pg := s.loadPage col old
  let bad := s.softFaults col pg
  let size := pg.d * fmtBytes pg.fmt
  match s.pageFault col pg, s.pageErr col new 0 65536 true with
  | some e, _ => .error (e.code kRange)
  | none, some e => .error (e.code kRange)
  | none, none =>
    let t := if bad.isEmpty then s.pageWrite col new 0 (s.pageRead col old 0 65536)
      else ((List.range pg.slots.length).filter (fun j => !bad.any (fun b => b.1 = j))).foldl (fun t j =>
        [keyOff pg.d pg.fmt j, valOff pg.d pg.ptok pg.fmt j].foldl (fun t o => t.pageWrite col new o (s.pageRead col old o size)) t) s
    .ok (((t.pageWrite col new 0 ({ pg with ptr := new, next := next, seq := n, chain := i, share := 1, slots := pg.copied bad }).bytes).deferFaults
      n i bad).moveReports n i old new)

/-- Point the link after the pages `before` (nearest first) of a chain at a page; a shared page is copied first, and the link
to it with it (11 R343). -/
def State.relink (s : State) (n i : Nat) : List Nat → Nat → KResult
  | [], p => .ok (s.setChainHead n i p)
  | b :: rest, p =>
    let col := (s.seq n).home i
    if (s.loadPage col b).share ≤ 1 then .ok (s.pageWrite col b 0 (leBytes 8 p))
    else
      match s.takePage n i with
      | none => .error kPool
      | some (c, s) => (s.copyPage n i b c p).bind (fun s => (s.releasePage n i b).relink n i rest c)

/-- Unlink the page at a place of a chain (11 R331, R343). -/
def State.unlinkAt (s : State) (n i j : Nat) : KResult :=
  let ps := s.chain n i
  match ps[j]? with
  | none => .ok s
  | some p =>
    let next := (s.loadPage ((s.seq n).home i) p).next
    (s.relink n i (ps.take j).reverse next).map (fun s => s.releasePage n i p)

/-- A page of a chain that only this sequence links, copied if it is shared (11 R343). -/
def State.ownPage (s : State) (n i j : Nat) : Except Nat (Nat × State) :=
  let ps := s.chain n i
  match ps[j]? with
  | none => .error kPool
  | some p =>
    let pg := s.loadPage ((s.seq n).home i) p
    if pg.share ≤ 1 then .ok (p, s)
    else
      match s.takePage n i with
      | none => .error kPool
      | some (c, s) =>
        (s.copyPage n i p c pg.next).bind (fun s =>
          ((s.releasePage n i p).relink n i (ps.take j).reverse c).map (fun s => (c, s)))

/-- Rewrite the slot words of a chain. -/
def State.mapSlots (s : State) (n i : Nat) (f : Nat → Nat) : KResult :=
  let col := (s.seq n).home i
  (List.range (s.chain n i).length).foldl (fun (acc : KResult) j =>
    acc.bind (fun s =>
      match (s.chain n i)[j]? with
      | none => .ok s
      | some p =>
        let old := (s.loadPage col p).slots
        let new := old.map f
        if new = old then .ok s
        else (s.ownPage n i j).map (fun r => r.2.pageWrite col r.1 256 (new.flatMap (leBytes 8))))) (.ok s)

/-- Unlink every page of a chain whose slots are all FREE (11 R323); `fuel` bounds the pages. -/
def State.unlinkFree (s : State) (n i : Nat) : Nat → KResult
  | 0 => .ok s
  | fuel + 1 =>
    let col := (s.seq n).home i
    match ((s.chain n i).zipIdx).find? (fun p => (s.loadPage col p.1).slots.all (fun w => slotState w = 0)) with
    | none => .ok s
    | some p => (s.unlinkAt n i p.2).bind (fun s => s.unlinkFree n i fuel)

/-- Apply an operation to every chain of a sequence. -/
def State.everyChain (s : State) (n : Nat) (f : State → Nat → KResult) : KResult :=
  (List.range (s.seq n).nchain).foldl (fun (acc : KResult) i => acc.bind (fun s => f s i)) (.ok s)

/-- What the chain table or a page of a chain in device memory meets when it is read, as a code (11 R328). -/
def State.chainErr (s : State) (n i : Nat) : Option Nat :=
  let q := s.seq n
  let table := if q.forked then none else s.dvErr (q.home 0) (q.ctab + 8 * i) 8 false
  match table with
  | some e => some (e.code kRange)
  | none => ((s.chain n i).findSome? (fun p => s.pageErr (q.home i) p 0 768 false)).map (fun e => e.code kRange)

/-- The first error of a sequence's chains. -/
def State.chainsErr (s : State) (n : Nat) : Option Nat :=
  (List.range (s.seq n).nchain).findSome? (fun i => s.chainErr n i)

/-- A step over the chains: it fails on the first error of one. -/
def State.overChains (s : State) (n : Nat) (k : KResult) : KResult :=
  match s.chainsErr n with
  | some e => .error e
  | none => k

/-- Where a node of a generation has its slot in a chain: the page and the slot. -/
def State.nodeSlot (s : State) (n i gen node : Nat) : Option (Nat × Nat) :=
  let col := (s.seq n).home i
  (s.chain n i).findSome? (fun p =>
    ((s.loadPage col p).slots.findIdx? (fun w => slotState w = 2 && slotGen w = gen && slotNode w = node)).map (fun j => (p, j)))

/-! ### The feature buffer (11 R347) -/

/-- Where entry `e` of a feature page stands, as a row pointer. -/
def featPtr (fw page e : Nat) : Nat := if tierOf page = 1 then page + e * fw * 256 else page + e * fw

/-- The entries of a sequence in use. -/
def Sequence.featUsed (q : Sequence) : List Nat :=
  (q.fc :: (q.live.map (fun g => (q.genRec g).cfc) ++ q.feats.map (·.2))).filter (· ≠ 0)

/-- The entries of a feature page. -/
def Sequence.featEntries (q : Sequence) (page : Nat) : List Nat := (List.range (256 / q.fw)).map (featPtr q.fw page)

/-- Return the feature pages that hold no entry in use. -/
def State.trimFeats (s : State) (n : Nat) : State :=
  let q := s.seq n
  let used := q.featUsed
  let idle := q.fpages.filter (fun p => !(q.featEntries p).any used.contains)
  idle.foldl (fun s p => s.poolPage (poolKey q.part (q.home 0) p) p)
    (s.setSeq n { q with fpages := q.fpages.filter (fun p => !idle.contains p) })

/-- A free entry, in a new page of the first home's pools when none is left. -/
def State.newFeat (s : State) (n : Nat) : Option (Nat × State) :=
  let q := s.seq n
  match (q.fpages.flatMap q.featEntries).find? (fun e => !q.featUsed.contains e) with
  | some e => some (e, s)
  | none => (s.takePage n 0).map (fun r =>
      (featPtr q.fw r.1 0, r.2.modSeq n (fun q => { q with fpages := q.fpages ++ [r.1] })))

/-- The key of a node's entry. -/
def featKey (gen node : Nat) : Nat := gen * 64 + node

/-! ### Generations (11 R324 to R326, R338) -/

/-- The live generations from one on: it and every younger. -/
def Sequence.fromGen (q : Sequence) (g : Nat) : List Nat := q.live.dropWhile (· ≠ g)

/-- Squash generations (11 R338): their provisional slots are freed, their records, deferred faults and feature entries
cleared, and pages left all FREE unlinked. -/
def State.squash (s : State) (n : Nat) (gs : List Nat) : KResult :=
  if gs.isEmpty then .ok s
  else
    let s := s.modSeq n (fun q => { q with
      live := q.live.filter (fun g => !gs.contains g),
      gens := q.gens.filter (fun p => !gs.contains p.1),
      faults := q.faults.filter (fun f => !gs.contains f.gen),
      feats := q.feats.filter (fun p => !gs.contains (p.1 / 64)) })
    (s.everyChain n (fun s i =>
      (s.mapSlots n i (fun w => if slotState w = 2 && gs.contains (slotGen w) then 0 else w)).bind (fun s =>
        s.unlinkFree n i maxPages))).map (fun s => s.trimFeats n)

/-- A generation becomes the open window: its checkpoint is taken (11 R325). -/
def Sequence.open_ (q : Sequence) (g : Nat) : Sequence :=
  { q with gens := FMap.modify {} q.gens g (fun r => { r with base := 0xFF, clen := q.len, cfc := q.fc }) }

/-! ### Operands (11 R327, R332) -/

/-- Bits [hi:lo] of a card's operand. -/
def JobCard.bits (c : JobCard) (hi lo : Nat) : Nat := bitsOf c.operand.toNat hi lo

/-- The sequence a card names. -/
def JobCard.seq (c : JobCard) : Nat := c.bits 63 56

/-- `n` rows from a row of ASPACE, operand [47:44] (11 R327). -/
def State.cardRows (s : State) (c : JobCard) (row n : Nat) : Option EngineRow :=
  if 8 < c.bits 47 44 then none else s.rowArea c.core (c.bits 47 44 * 2 ^ 60 + row) n

/-- The argument row. -/
def State.argument (s : State) (c : JobCard) : Option Row :=
  (s.cardRows c (c.bits 12 0) 1).bind (fun r => s.readEngine c.core r 0 256)

/-- A step that reads its argument row. -/
def State.withArg (s : State) (c : JobCard) (k : Row → KResult) : KResult :=
  match s.argument c with
  | none => .error kOperand
  | some d => k d

/-! ### The steps -/

/-- KNEW.seq (11 R334). -/
def doKnewSeq (s : State) (c : JobCard) (part : Nat) : KResult :=
  let n := c.seq; let q := s.seq n
  s.withArg c (fun d =>
    let nchain := leAt d 0 2; let dim := leAt d 2 2; let ptok := leAt d 4 1; let fmt := leAt d 5 1
    let fw := leAt d 6 2; let tier := leAt d 8 1; let h := leAt d 9 1; let ctab := leAt d 32 8
    let homes := (List.range h).map (fun i => leAt d (16 + i) 1)
    let bad := c.bits 55 48 ≠ 0 || c.bits 43 13 ≠ 0 || nchain = 0 || 1024 < nchain || dim < 16 || 256 < dim || dim % 16 ≠ 0 ||
      6 < ptok || !isKvFmt fmt || 64512 < 2 * 2 ^ ptok * dim * fmtBytes fmt || fw = 0 || 128 < fw || 1 < tier ||
      h = 0 || 12 < h || homes.any (11 < ·) || leAt d 28 4 ≠ 0 || ctab % 256 ≠ 0 || 2 ^ 52 ≤ ctab
    kChecks [(bad, kOperand), (q.isOpen, kBusy)]
      (match s.dvErr (homes.headD 0) ctab (8 * nchain) true with
        | some e => .error (e.code kRange)
        | none =>
          let new : Sequence := {
            isOpen := true, nchain := nchain, d := dim, ptok := ptok, kvfmt := fmt, fw := fw, tier := tier, homes := homes,
            ctab := ctab, err := q.err, errop := q.errop, part := part, opened := s.ctr }
          let s : State := { s with ctr := s.ctr + 1 }
          .ok ((List.range nchain).foldl (fun s i => s.setChainHead n i noPage) (s.setSeq n new))))

/-- KNEW (11 R334). -/
def doKnew (s : State) (c : JobCard) : KResult :=
  let n := c.seq; let q := s.seq n
  let base := c.bits 55 48; let g := q.gcnt % 4
  let young := q.genRec (q.live.getLast?.getD 0)
  kChecks [(c.bits 47 0 ≠ 0, kOperand), (4 ≤ q.live.length || q.live.contains g, kGens),
           (base = 0xFF && !q.live.isEmpty, kNogen), (base ≠ 0xFF && q.live.isEmpty, kNogen),
           (base ≠ 0xFF && young.nodes ≤ base, kTree), (2 ^ 24 < q.len + 64, kRange)]
    (let q1 := { q with live := q.live ++ [g], gcnt := (q.gcnt + 1) % 2 ^ 32,
                        gens := FMap.set {} q.gens g { base := base } }
     .ok (s.setSeq n (if q.live.isEmpty then q1.open_ g else q1)))

/-- The ancestors of a node, itself among them, as a word (07 R221, 11 R335). -/
def ancestorWord (parents : List Nat) : Nat → Nat → Nat
  | 0, _ => 0
  | fuel + 1, j =>
    let p := parents[j]?.getD 0xFF
    2 ^ j + (if p = 0xFF then 0 else ancestorWord parents fuel p)

/-- The depth of a node, a root's being 1. -/
def depthOf (parents : List Nat) : Nat → Nat → Nat
  | 0, _ => 0
  | fuel + 1, j =>
    let p := parents[j]?.getD 0xFF
    if p = 0xFF then 1 else 1 + depthOf parents fuel p

/-- Whether a parent array is a tree: each node a root or below a smaller node, none deeper than 16 (11 R335). -/
def treeOk (parents : List Nat) : Bool :=
  parents.zipIdx.all (fun p => p.1 = 0xFF || p.1 < p.2) &&
    (List.range parents.length).all (fun j => depthOf parents 64 j ≤ 16)

/-- KTREE (11 R335). -/
def doKtree (s : State) (c : JobCard) : KResult :=
  let n := c.seq; let q := s.seq n; let g := c.bits 55 54; let nodes := c.bits 53 48 + 1
  let gen := q.genRec g
  match s.cardRows c (c.bits 43 31) 2 with
  | none => .error kOperand
  | some img =>
    s.withArg c (fun d =>
      let parents := (List.range nodes).map (fun j => leAt d j 1)
      kChecks [(c.bits 30 13 ≠ 0, kOperand), (!q.live.contains g, kNogen), (!treeOk parents, kTree),
               (gen.nodes ≠ 0 && gen.parents ≠ parents, kTree)]
        (let words := (List.range 64).map (fun j => if j < nodes then ancestorWord parents 64 j else 0)
         let depth := ((List.range nodes).map (depthOf parents 64)).foldl max 0
         let s := s.writeEngine c.core img 0 (words.flatMap (leBytes 8))
         .ok (s.modSeq n (fun q => { q with gens := FMap.modify {} q.gens g (fun r =>
           { r with nodes := nodes, depth := depth, parents := parents }) }))))

/-- The deferred cause of what kept a page from being linked (11 R345). -/
def deferredCause (code : Nat) : Nat :=
  if code = kPool then 0x40 else if code = kRange then 0x0A else if code = kRange + 1 then 0x0B
  else if code = kRange + 2 then 0x0E else 0x41

/-- Write one provisional entry (11 R336): its slot is rewritten, found free in the tail page, or in a new page; what it meets
is deferred. -/
def State.putNode (s : State) (n i gen node : Nat) (key val : List Byte) : State :=
  let q := s.seq n; let col := q.home i; let fmt := q.fmtOf i
  let deferIt (s : State) (cause : Nat) : State := s.modSeq n (fun q => q.defer ⟨gen, node, cause, i⟩)
  let write (s : State) (p j : Nat) : State :=
    let err := match s.pageErr col p (keyOff q.d fmt j) key.length true with
      | some e => some e
      | none => s.pageErr col p (valOff q.d q.ptok fmt j) val.length true
    let word (f : Nat) (s : State) : State := s.pageWrite col p (256 + 8 * j) (leBytes 8 (provisionalSlot gen node f))
    match err with
    | some e => word e.cause (deferIt s e.cause)
    | none => word 0 ((s.pageWrite col p (keyOff q.d fmt j) key).pageWrite col p (valOff q.d q.ptok fmt j) val)
  let ps := s.chain n i
  match ps.findSome? (fun p => s.pageErr col p 0 768 false) with
  | some e => deferIt s e.cause
  | none =>
    match s.nodeSlot n i gen node with
    | some (p, j) =>
      if tierOf p = 2 then (deferIt s 0x41).pageWrite col p (256 + 8 * j + 2) (leBytes 1 0x41) else write s p j
    | none =>
      let tail := ps.getLast?.map (fun p => s.loadPage col p)
      match tail.bind (fun t =>
          if tierOf t.ptr ≠ 2 && t.share ≤ 1 then (t.slots.findIdx? (fun w => slotState w = 0)).map (fun j => (t.ptr, j))
          else none) with
      | some (p, j) => write s p j
      | none =>
        match s.takePage n i with
        | none => deferIt s 0x40
        | some (p, s1) =>
          match s1.pageErr col p 0 65536 true with
          | some e => deferIt s e.cause
          | none =>
            let pg : Page := { ptr := p, next := noPage, d := q.d, ptok := q.ptok, fmt := fmt, seq := n, chain := i, share := 1,
                               slots := List.replicate (2 ^ q.ptok) 0 }
            match (s1.pageWrite col p 0 pg.bytes).relink n i ps.reverse p with
            | .error e => deferIt s (deferredCause e)
            | .ok s2 => write s2 p 0

/-- KPUT (11 R336). -/
def doKput (s : State) (c : JobCard) : KResult :=
  let n := c.seq; let q := s.seq n
  s.withArg c (fun d =>
    let i := leAt d 0 2; let first := leAt d 2 1; let count := leAt d 3 1 + 1; let g := leAt d 4 1
    let ks := leAt d 8 8; let vs := leAt d 16 8
    let gen := q.genRec g
    let size := q.d * fmtBytes (q.fmtOf i)
    let rows := ceilDiv (count * size) 256
    let area (p : Nat) : Option EngineRow := if inRows p then s.rowArea c.core p rows else none
    kChecks [(c.bits 55 48 ≠ 0 || c.bits 43 13 ≠ 0 || 3 < g || q.nchain ≤ i, kOperand), (!q.live.contains g, kNogen),
             (gen.nodes = 0 || gen.nodes < first + count, kTree)]
      (match area ks, area vs with
        | some kr, some vr =>
          match if q.forked then none else s.dvErr (q.home 0) (q.ctab + 8 * i) 8 false with
          | some e => .ok ((List.range count).foldl (fun s j => s.modSeq n (fun q => q.defer ⟨g, first + j, e.cause, i⟩)) s)
          | none =>
            .ok ((List.range count).foldl (fun s j =>
              s.putNode n i g (first + j) ((s.readEngine c.core kr (j * size) size).getD [])
                ((s.readEngine c.core vr (j * size) size).getD [])) s)
        | _, _ => .error kOperand))

/-- Whether a path is a run from a root to a descendant (11 R337). -/
def pathOk (parents : List Nat) : Option Nat → List Nat → Bool
  | _, [] => true
  | prev, j :: r =>
    j < parents.length && (parents[j]?.getD 0xFF) = prev.getD 0xFF && pathOk parents (some j) r

/-- The fault of a path node: deferred, or 0x42 when it lacks a slot in a chain. -/
def State.nodeFault (s : State) (n gen node : Nat) : Option (Nat × Nat) :=
  let q := s.seq n
  match q.faults.find? (fun f => f.gen = gen && f.node = node) with
  | some f => some (f.cause, f.chain)
  | none => ((List.range q.nchain).find? (fun i => (s.nodeSlot n i gen node).isNone)).map (fun i => (0x42, i))

/-- TVAL of SPEC_FAULT (11 R346). -/
def specTval (cause seq node gen chain len : Nat) : Nat :=
  cause * 2 ^ 56 + seq * 2 ^ 48 + node * 2 ^ 42 + gen * 2 ^ 40 + chain % 1024 * 2 ^ 30 + len % 2 ^ 24

/-- KCOMMIT (11 R326, R337): the state after it, and the TVAL of the SPEC_FAULT it raises. -/
def doKcommit (s : State) (c : JobCard) : Except Nat (State × Option Nat) :=
  let n := c.seq; let q := s.seq n; let w := c.bits 55 54
  match s.argument c with
  | none => .error kOperand
  | some d =>
    let count := leAt d 0 1
    let path := (List.range (min count 16)).map (fun j => leAt d (1 + j) 1)
    let gen := q.genRec w
    let bad := [(c.bits 53 48 ≠ 0 || c.bits 43 13 ≠ 0 || 16 < count, kOperand), (q.openGen ≠ some w, kNogen),
                (!pathOk gen.parents none path, kPath)]
    match bad.find? (·.1), s.chainsErr n with
    | some p, _ => .error p.2
    | none, some e => .error e
    | none, none =>
      let k := (path.findIdx? (fun j => (s.nodeFault n w j).isSome)).getD count
      let done := path.take k
      let slot (x : Nat) : Nat :=
        if slotState x = 2 && slotGen x = w then
          match done.findIdx? (· = slotNode x) with
          | some j => committedSlot (q.len + j)
          | none => 0
        else x
      let next := q.live.drop 1
      let q1 := { q with
        len := q.len + k,
        fc := match done.getLast? with | some j => FMap.get 0 q.feats (featKey w j) | none => q.fc,
        live := next, gens := FMap.set {} q.gens w ({} : Gen),
        faults := q.faults.filter (fun f => f.gen ≠ w), feats := q.feats.filter (fun p => p.1 / 64 ≠ w) }
      let keep := match next with
        | v :: _ => 1 ≤ k && k = count && path.getLast? = some (q.genRec v).base
        | [] => false
      let q2 := if keep then q1.open_ (next.headD 0) else q1
      let s1 := ((s.setSeq n q2).everyChain n (fun s i => s.mapSlots n i slot)).bind (fun s =>
        (if keep then .ok s else s.squash n next).bind (fun s =>
          (s.everyChain n (fun s i => s.unlinkFree n i maxPages)).map (fun s => s.trimFeats n)))
      match s1 with
      | .error e => .error e
      | .ok s1 =>
        let fault := if k < count then
            (path[k]?).bind (fun j => (s.nodeFault n w j).map (fun f => specTval f.1 n j w f.2 (q.len + k)))
          else none
        .ok (s1, fault)

/-- KSQUASH (11 R338). -/
def doKsquash (s : State) (c : JobCard) : KResult :=
  let n := c.seq; let q := s.seq n; let g := c.bits 55 54
  kChecks [(c.bits 53 0 ≠ 0, kOperand), (!q.live.contains g, kNogen)]
    (s.overChains n (s.squash n (q.fromGen g)))

/-- KSQUASH.seq (11 R334): every page leaves and the sequence closes. -/
def doKsquashSeq (s : State) (c : JobCard) : KResult :=
  let n := c.seq; let q := s.seq n
  kChecks [(c.bits 55 0 ≠ 0, kOperand)]
    (s.overChains n
      (let s1 := (List.range q.nchain).foldl (fun s i =>
          ((s.chain n i).foldl (fun s p => s.releasePage n i p) s).setChainHead n i noPage) s
       let s2 := q.fpages.foldl (fun s p => s.poolPage (poolKey q.part (q.home 0) p) p) s1
       let s3 := { s2 with copies := s2.copies.map (fun (x : PageCopy) => if x.seq = n then { x with page := noPage } else x) }
       .ok (s3.modSeq n (fun q => { q with
          isOpen := false, live := [], gens := [], faults := [], feats := [], fc := 0, fpages := [] }))))

/-- Copy for a fork what it keeps of a page: its header and the slots that `keep` names; what their reading meets, as a code (11 R328, R342). -/
def State.forkPage (s : State) (dst i old new next : Nat) (keep : Nat → Bool) : KResult :=
  let col := (s.seq dst).home i
  let pg := s.loadPage col old
  let n := pg.d * fmtBytes pg.fmt
  let kept := (pg.slots.zipIdx.filter (fun p => keep p.1)).flatMap (fun p => [keyOff pg.d pg.fmt p.2, valOff pg.d pg.ptok pg.fmt p.2])
  match kept.findSome? (fun o => s.pageErr col old o n false), s.pageErr col new 0 65536 true with
  | some e, _ => .error (e.code kRange)
  | none, some e => .error (e.code kRange)
  | none, none =>
    let s := if (s.pageErr col old 0 65536 false).isNone then s.pageWrite col new 0 (s.pageRead col old 0 65536)
      else kept.foldl (fun s o => s.pageWrite col new o (s.pageRead col old o n)) s
    .ok (s.pageWrite col new 0 ({ pg with next := next, seq := dst, chain := i, share := 1,
                                          slots := pg.slots.map (fun w => if keep w then w else 0) }).bytes)

/-- One chain of a KFORK (11 R342): from its last page back, a page is linked where its NEXT can stay, copied where it must
change or holds slots that DST does not keep, and left out when it holds none; a page off the device cannot be copied. -/
def State.forkChain (s : State) (n dst flen i : Nat) : Except Nat (Nat × State) :=
  let col := (s.seq n).home i
  (s.chain n i).reverse.foldl (fun (acc : Except Nat (Nat × State)) p =>
    acc.bind (fun a =>
      let s := a.2; let next := a.1
      let pg := s.loadPage col p
      let below := pg.slots.any (fun w => slotState w = 1 && slotPos w < flen)
      let whole := pg.slots.all (fun w => slotState w ≠ 2 && !(slotState w = 1 && flen ≤ slotPos w))
      if whole && pg.next = next then .ok (p, s.pageWrite col p 16 (leBytes 2 (pg.share + 1)))
      else if !(below || whole) then .ok (next, s)
      else if tierOf p = 2 then .error kRemote
      else
        match s.takePage dst i with
        | none => .error kPool
        | some r =>
          (r.2.forkPage dst i p r.1 next (fun w => slotState w = 1 && slotPos w < flen)).map (fun s => (r.1, s)))) (.ok (noPage, s))

/-- KFORK (11 R342). -/
def doKfork (s : State) (c : JobCard) (part : Nat) : KResult :=
  let n := c.seq; let q := s.seq n; let dst := c.bits 55 48; let flen := c.bits 47 24
  kChecks [(c.bits 23 0 ≠ 0 || q.len < flen, kOperand), (!(s.part part).seqs.contains dst, kUnbound),
           ((s.seq dst).isOpen, kBusy)]
    (s.overChains n
      (let w := s.freshWord
        let old := s.seq dst
        let new : Sequence := { q with
          len := flen, gcnt := 0, live := [], gens := [], heads := [], faults := [], feats := [], fpages := [], fc := 0,
          forked := true, ctab := w.1.toNat % 2 ^ 52, err := old.err, errop := old.errop, part := part, opened := s.ctr }
        let s1 := (List.range q.nchain).foldl (fun (acc : KResult) i =>
          acc.bind (fun s => (s.forkChain n dst flen i).map (fun r => r.2.setChainHead dst i r.1))) (.ok (w.2.setSeq dst new))
        s1.bind (fun s =>
          if flen = q.len && q.fc ≠ 0 then
            match s.pageErr (q.home 0) q.fc 0 (q.fw * 256) false, s.newFeat dst with
            | some e, _ => .error (e.code kRange)
            | none, none => .error kPool
            | none, some r =>
              match r.2.pageErr (q.home 0) r.1 0 (q.fw * 256) true with
              | some e => .error (e.code kRange)
              | none =>
                let d := s.pageRead (q.home 0) q.fc 0 (q.fw * 256)
                .ok ((r.2.pageWrite (q.home 0) r.1 0 d).modSeq dst (fun x => { x with fc := r.1 }))
          else .ok s)))

/-- KPIN. -/
def doKpin (s : State) (c : JobCard) : KResult :=
  kChecks [(c.bits 47 0 ≠ 0, kOperand)] (.ok (s.modSeq c.seq (fun q => { q with pin := c.bits 55 48 })))

/-- Slide one chain (11 R344): while the oldest page after the sink pages holds no provisional slot and the pages after it hold
at least KEEP committed slots, it is unlinked. -/
def State.slideChain (s : State) (n i keep : Nat) : Nat → KResult
  | 0 => .ok s
  | fuel + 1 =>
    let q := s.seq n; let col := q.home i
    let slots (p : Nat) : List Nat := (s.loadPage col p).slots
    match (s.chain n i).drop q.pin with
    | [] => .ok s
    | p :: rest =>
      if (slots p).any (fun w => slotState w = 2) then .ok s
      else if (rest.flatMap slots).countP (fun w => slotState w = 1) < keep then .ok s
      else (s.unlinkAt n i q.pin).bind (fun s => s.slideChain n i keep fuel)

/-- Slide a sequence: what KSLIDE does, and the time and ingest engine (11 R344, 13 R391). -/
def State.slide (s : State) (n keep : Nat) : KResult :=
  let q := s.seq n
  s.overChains n
    (if (List.range q.nchain).any (fun i => ((s.chain n i).drop q.pin).any (fun p => tierOf p = 2)) then .error kRemote
     else s.everyChain n (fun s i => s.slideChain n i keep maxPages))

/-- KSLIDE. -/
def doKslide (s : State) (c : JobCard) : KResult :=
  kChecks [(c.bits 55 48 ≠ 0 || c.bits 23 0 ≠ 0, kOperand)] (s.slide c.seq (c.bits 47 24))

/-- The tier and pool of a copy's destination (11 R332, R339). -/
def copyDest (q : Sequence) (i : Nat) : Instr → Option (Nat × Nat × Bool)
  | .kdemote _ .dv => some (1, 16 + q.part, true)
  | .kdemote _ .host => some (2, 32 + q.part, true)
  | .kdemote _ .pe1 => some (2, 48 + q.part * 4 + 1, true)
  | .kdemote _ .pe2 => some (2, 48 + q.part * 4 + 2, true)
  | .kdemote _ .pe3 => some (2, 48 + q.part * 4 + 3, true)
  | .kpromote _ .cb => some (0, q.home i, false)
  | .kpromote _ .dv => some (1, 16 + q.part, false)
  | _ => none

/-- KDEMOTE and KPROMOTE: a copy starts, into a page taken from the destination (11 R339). -/
def doKmove (s : State) (c : JobCard) : KResult :=
  let n := c.seq; let q := s.seq n; let i := c.bits 55 46; let j := c.bits 45 30
  match copyDest q i c.op with
  | none => .error kOperand
  | some (tier, pool, down) =>
    if c.bits 29 0 ≠ 0 || q.nchain ≤ i then .error kOperand
    else
      match s.chainErr n i, (s.chain n i)[j]? with
      | some e, _ => .error e
      | none, none => .error kOperand
      | none, some p =>
        if (if down then tier ≤ tierOf p else tierOf p ≤ tier) then .error kOperand
        else
          match s.takeFrom pool with
          | none => .error kPool
          | some (t, s1) =>
            if !s.pageGranted (s.inst c.inst).part t || !s.pageGranted (s.inst c.inst).part p then .error kOperand
            else .ok { s1 with copies := s1.copies ++ [⟨c.serial, n, i, p, [t], none, c, q.opened, [pool]⟩] }

/-- KREQ: a requantisation starts; a page for each page of the chain (11 R341). -/
def doKreq (s : State) (c : JobCard) : KResult :=
  let n := c.seq; let q := s.seq n; let i := c.bits 55 46; let fmt := c.bits 45 38
  if c.bits 37 0 ≠ 0 || q.nchain ≤ i || !isKvFmt fmt || 64512 < 2 * 2 ^ q.ptok * q.d * fmtBytes fmt then .error kOperand
  else
    match s.chainErr n i with
    | some e => .error e
    | none =>
      let ps := s.chain n i
      if ps.any (fun p => tierOf p = 2) then .error kRemote
      else
        match ps.foldl (fun (acc : Option (List Nat × State)) _ =>
            acc.bind (fun a => (a.2.takePage n i).map (fun r => (a.1 ++ [r.1], r.2)))) (some ([], s)) with
        | none => .error kPool
        | some r => .ok { r.2 with copies := r.2.copies ++
            [⟨c.serial, n, i, noPage, r.1, some fmt, c, q.opened, r.1.map (poolKey q.part (q.home i))⟩] }

/-- KFEAT (11 R347). -/
def doKfeat (s : State) (c : JobCard) (rd comm : Bool) : KResult :=
  let n := c.seq; let q := s.seq n; let g := c.bits 55 54; let node := c.bits 53 48
  let col := q.home 0; let size := q.fw * 256
  match s.cardRows c (c.bits 12 0) q.fw with
  | none => .error kOperand
  | some r =>
    kChecks [(c.bits 43 13 ≠ 0 || (comm && (g ≠ 0 || node ≠ 0)), kOperand), (!comm && !q.live.contains g, kNogen),
             (!comm && (q.genRec g).nodes ≤ node, kTree)]
      (let e := if comm then q.fc else FMap.get 0 q.feats (featKey g node)
       if rd then
         if e = 0 then .ok (s.writeEngine c.core r 0 (List.replicate size 0))
         else match s.pageErr col e 0 size false with
           | some x => .error (x.code kRange)
           | none => .ok (s.writeEngine c.core r 0 (s.pageRead col e 0 size))
       else
         let d := (s.readEngine c.core r 0 size).getD []
         let shared := comm && q.live.any (fun h => (q.genRec h).cfc = e)
         match if e = 0 || shared then s.newFeat n else some (e, s) with
         | none => .error kPool
         | some (e1, s1) =>
           match s1.pageErr col e1 0 size true with
           | some x =>
             if comm then .error (x.code kRange)
             else .ok (s.modSeq n (fun q => q.defer ⟨g, node, x.cause, 0⟩))
           | none =>
             let s2 := s1.pageWrite col e1 0 d
             .ok ((s2.modSeq n (fun q =>
               if comm then { q with fc := e1 } else { q with feats := FMap.set 0 q.feats (featKey g node) e1 })).trimFeats n))

/-- KFROLL (11 R338). -/
def doKfroll (s : State) (c : JobCard) : KResult :=
  let n := c.seq; let q := s.seq n; let g := c.bits 55 54
  let gs := q.fromGen g
  kChecks [(c.bits 53 0 ≠ 0, kOperand), (!q.live.contains g, kNogen)]
    (.ok ((s.modSeq n (fun q => { q with
      fc := (q.genRec g).cfc, feats := q.feats.filter (fun p => !gs.contains (p.1 / 64)) })).trimFeats n))

/-- The record row (11 R322). -/
def Sequence.record (q : Sequence) : Row :=
  let live := q.live.foldl (fun m g => m + 2 ^ g) 0
  let gen (g : Nat) : List Byte :=
    let r := q.genRec g
    padTo 16 (leBytes 1 r.base ++ leBytes 1 r.nodes ++ leBytes 2 r.depth ++ leBytes 4 r.clen ++ leBytes 8 r.cfc)
  padTo 256
    (padTo 64 (leBytes 4 q.len ++ leBytes 4 q.gcnt ++ leBytes 1 live ++ leBytes 1 (q.openGen.getD 0xFF) ++ leBytes 1 q.pin ++
      leBytes 1 (if q.isOpen then 1 else 0) ++ leBytes 2 q.nchain ++ leBytes 2 q.d ++ leBytes 2 q.ptok ++ leBytes 2 q.fw ++
      leBytes 1 q.err ++ leBytes 3 q.errop ++ leBytes 8 q.fc ++ leBytes 8 q.ctab) ++
     (List.range 4).flatMap gen)

/-- KQUERY (11 R338). -/
def doKquery (s : State) (c : JobCard) : KResult :=
  let n := c.seq
  match s.cardRows c (c.bits 12 0) 1 with
  | none => .error kOperand
  | some r =>
    kChecks [(c.bits 55 48 ≠ 0 || c.bits 43 13 ≠ 0, kOperand)]
      (.ok ((s.writeEngine c.core r 0 (s.seq n).record).modSeq n (fun q => { q with err := 0 })))

/-- KQUERY.heads (11 R338). -/
def doKqueryHeads (s : State) (c : JobCard) : KResult :=
  let n := c.seq; let q := s.seq n; let first := c.bits 41 32
  match s.cardRows c (c.bits 12 0) 1 with
  | none => .error kOperand
  | some r =>
    kChecks [(c.bits 55 48 ≠ 0 || c.bits 43 42 ≠ 0 || c.bits 31 13 ≠ 0, kOperand)]
      (match if q.forked then none else s.dvErr (q.home 0) (q.ctab + 8 * first) (8 * min 32 (q.nchain - first)) false with
        | some e => .error (e.code kRange)
        | none =>
          .ok (s.writeEngine c.core r 0 ((List.range 32).flatMap (fun j =>
            leBytes 8 (if first + j < q.nchain then s.chainHead n (first + j) else noPage)))))

/-! ### Cards and their steps -/

def execKnew (c : Card) (s : State) : Host.Outcome State Fault Refusal := sendCard .stacks c (.knew c) s
def execKnewSeq (c : Card) (s : State) : Host.Outcome State Fault Refusal := sendCard .stacks c (.knewSeq c) s
def execKput (c : Card) (s : State) : Host.Outcome State Fault Refusal := sendCard .stacks c (.kput c) s
def execKtree (c : Card) (s : State) : Host.Outcome State Fault Refusal := sendCard .stacks c (.ktree c) s
def execKcommit (c : Card) (s : State) : Host.Outcome State Fault Refusal := sendCard .stacks c (.kcommit c) s
def execKsquash (c : Card) (s : State) : Host.Outcome State Fault Refusal := sendCard .stacks c (.ksquash c) s
def execKsquashSeq (c : Card) (s : State) : Host.Outcome State Fault Refusal := sendCard .stacks c (.ksquashSeq c) s
def execKfork (c : Card) (s : State) : Host.Outcome State Fault Refusal := sendCard .stacks c (.kfork c) s
def execKpin (c : Card) (s : State) : Host.Outcome State Fault Refusal := sendCard .stacks c (.kpin c) s
def execKslide (c : Card) (s : State) : Host.Outcome State Fault Refusal := sendCard .stacks c (.kslide c) s
def execKdemote (c : Card) (dst : DemoteTo) (s : State) : Host.Outcome State Fault Refusal :=
  sendCard .stacks c (.kdemote c dst) s
def execKpromote (c : Card) (dst : PromoteTo) (s : State) : Host.Outcome State Fault Refusal :=
  sendCard .stacks c (.kpromote c dst) s
def execKfeat (c : Card) (committed : Bool) (s : State) : Host.Outcome State Fault Refusal :=
  sendCard .stacks c (.kfeat c committed) s
def execKfeatRd (c : Card) (committed : Bool) (s : State) : Host.Outcome State Fault Refusal :=
  sendCard .stacks c (.kfeatRd c committed) s
def execKfroll (c : Card) (s : State) : Host.Outcome State Fault Refusal := sendCard .stacks c (.kfroll c) s
def execKquery (c : Card) (s : State) : Host.Outcome State Fault Refusal := sendCard .stacks c (.kquery c) s
def execKqueryHeads (c : Card) (s : State) : Host.Outcome State Fault Refusal := sendCard .stacks c (.kqueryHeads c) s
def execKreq (c : Card) (s : State) : Host.Outcome State Fault Refusal := sendCard .stacks c (.kreq c) s

/-- The opcode of a Stacks card, for ERROP (11 R332). -/
def stacksOpcode : Instr → Nat
  | .knew _ => 0x18 | .knewSeq _ => 0x18 | .kput _ => 0x19 | .ktree _ => 0x1A | .kcommit _ => 0x1B | .ksquash _ => 0x1C
  | .ksquashSeq _ => 0x1C | .kfork _ => 0x1D | .kpin _ => 0x1E | .kslide _ => 0x1F | .kdemote _ _ => 0x20
  | .kpromote _ _ => 0x21 | .kfeat _ _ => 0x22 | .kfeatRd _ _ => 0x22 | .kfroll _ => 0x23 | .kquery _ => 0x24
  | .kqueryHeads _ => 0x24 | .kreq _ => 0x25 | _ => 0

/-- A card's step: the state after it and a SPEC_FAULT's TVAL, or a code (11 R328). -/
def State.stacksStep (s : State) (c : JobCard) : Except Nat (State × Option Nat) :=
  let part := (s.inst c.inst).part
  let n := c.seq; let q := s.seq n
  let plain (r : KResult) : Except Nat (State × Option Nat) := match r with | .ok s => .ok (s, none) | .error e => .error e
  let opened : Bool := match c.op with | .knewSeq _ => true | _ => q.isOpen
  if !(s.part part).seqs.contains n || !opened then .error kUnbound
  else
    match c.op with
    | .knew _ => plain (doKnew s c)
    | .knewSeq _ => plain (doKnewSeq s c part)
    | .kput _ => plain (doKput s c)
    | .ktree _ => plain (doKtree s c)
    | .kcommit _ => doKcommit s c
    | .ksquash _ => plain (doKsquash s c)
    | .ksquashSeq _ => plain (doKsquashSeq s c)
    | .kfork _ => plain (doKfork s c part)
    | .kpin _ => plain (doKpin s c)
    | .kslide _ => plain (doKslide s c)
    | .kdemote _ _ => plain (doKmove s c)
    | .kpromote _ _ => plain (doKmove s c)
    | .kfeat _ comm => plain (doKfeat s c false comm)
    | .kfeatRd _ comm => plain (doKfeat s c true comm)
    | .kfroll _ => plain (doKfroll s c)
    | .kquery _ => plain (doKquery s c)
    | .kqueryHeads _ => plain (doKqueryHeads s c)
    | .kreq _ => plain (doKreq s c)
    | _ => .ok (s, none)

/-- A failing card's code in the sequence's record (11 R328). -/
def State.stacksFail (s : State) (c : JobCard) (e : Nat) : State :=
  if (s.part (s.inst c.inst).part).seqs.contains c.seq then
    s.modSeq c.seq (fun q => { q with err := e, errop := stacksOpcode c.op })
  else s

/-- Entries of a sequence's chain table; a fork keeps its own heads (log entry 22). -/
def State.tableArea (s : State) (n i k : Nat) : List Area :=
  let q := s.seq n
  if q.forked then [] else [⟨q.home 0, .dv (q.ctab + 8 * i), 8 * k⟩]

/-- What a step over a chain reads: the chain's entry, and of each page its header and slot words, or, where it may be copied, all of it. -/
def State.chainArea (s : State) (n i : Nat) : List Area :=
  let col := (s.seq n).home i
  s.tableArea n i 1 ++ (s.chain n i).flatMap (fun p => pageArea col p 0 (if 1 < (s.loadPage col p).share then 65536 else 768))

/-- What a step over every chain of a sequence reads. -/
def State.seqAreas (s : State) (n : Nat) : List Area := (List.range (s.seq n).nchain).flatMap (s.chainArea n)

/-- What a card's step reads: its argument rows, the chain table and the pages' headers of the chains it goes over, whole the pages that it may
copy, and the feature entry that it returns or copies (11 R323, R327, R342, R343). -/
def State.stacksAreas (s : State) (c : JobCard) : List Area :=
  let n := c.seq; let q := s.seq n
  let rows (row k : Nat) : List Area := if 8 < c.bits 47 44 then [] else s.areaAt c.core (c.bits 47 44 * 2 ^ 60 + row) (256 * k)
  let arg := rows (c.bits 12 0) 1
  let table (i k : Nat) : List Area := s.tableArea n i k
  let chain (i : Nat) : List Area := s.chainArea n i
  let all := s.seqAreas n
  match c.op with
  | .knewSeq _ => arg
  | .ktree _ => arg
  | .kput _ =>
    match s.argument c with
    | none => []
    | some d =>
      let size := (leAt d 3 1 + 1) * (q.d * fmtBytes (q.fmtOf (leAt d 0 2)))
      arg ++ chain (leAt d 0 2) ++ s.areaAt c.core (leAt d 8 8) size ++ s.areaAt c.core (leAt d 16 8) size
  | .kcommit _ => arg ++ all
  | .ksquash _ => all
  | .ksquashSeq _ => all
  | .kfork _ =>
    (List.range q.nchain).flatMap (fun i => table i 1 ++ (s.chain n i).flatMap (fun p => pageArea (q.home i) p 0 65536)) ++
      (if c.bits 47 24 = q.len && q.fc ≠ 0 then pageArea (q.home 0) q.fc 0 (q.fw * 256) else [])
  | .kslide _ => all
  | .kdemote _ _ => chain (c.bits 55 46)
  | .kpromote _ _ => chain (c.bits 55 46)
  | .kreq _ => chain (c.bits 55 46)
  | .kfeat _ _ => rows (c.bits 12 0) q.fw
  | .kfeatRd _ comm =>
    let e := if comm then q.fc else FMap.get 0 q.feats (featKey (c.bits 55 54) (c.bits 53 48))
    if e = 0 then [] else pageArea (q.home 0) e 0 (q.fw * 256)
  | .kqueryHeads _ => table (c.bits 41 32) (min 32 (q.nchain - c.bits 41 32))
  | _ => []

/-- The copy that a card started. -/
def State.copyOf (s : State) (serial : Nat) : Option PageCopy := s.copies.find? (fun x => x.id = serial)

/-- STACKS_STEP (11 R329): the card takes effect as one step; a card that started a copy completes at its landing; a SPEC_FAULT
is raised at the report cycle. -/
def execStacksStep (s : State) : Host.Outcome State Fault Refusal :=
  let q := s.ev.q
  s.withCard State.stacksAreas (fun s c =>
    if (s.copyOf c.serial).isSome then .next s
    else
      let d := s.reportDelay
      match d.2.stacksStep c with
      | .error e => .next ((d.2.stacksFail c e).finishCard q c d.1)
      | .ok (s1, fault) =>
        match s1.copyOf c.serial with
        | some x =>
          let w := s1.freshSlack
          .next (w.2.eventAt (s.wall + 1 + w.1)
            (if x.newFmt.isSome then .requantisationLanding else .copyLanding) { q := q, index := c.serial })
        | none =>
          let s2 := s1.finishCard q c d.1
          match fault with
          | none => .next s2
          | some v =>
            .next (s2.eventAt (s.wall + d.1) .specFault { inst := c.inst, col := c.logical, core := c.core, value := v, lines := c.signal }))

/-! ### Landings (11 R339 to R341) -/

/-- Return the pages that a copy had taken to the pools they came from. -/
def State.giveBack (s : State) (x : PageCopy) : State :=
  (List.zip x.keys x.dests).foldl (fun s p => s.poolPage p.1 p.2) s

/-- A copy is over: its card completes, with a code when it failed. -/
def State.endCopy (s : State) (x : PageCopy) (code : Option Nat) : State :=
  let s := { s with copies := s.copies.filter (fun y => y.id ≠ x.id) }
  let s := match code with | some e => s.stacksFail x.card e | none => s
  let q : QueueRef := queueFor x.card.core .stacks (match x.card.op with
    | .kdemote c _ => c.queue | .kpromote c _ => c.queue | .kreq c => c.queue | _ => 0)
  let d := s.reportDelay
  d.2.finishCard q x.card d.1

/-- The landing of a copy (11 R339, R340): the page stands at the destination with its slots as they stand now, the link before it is
rewritten and the source unlinked; a source that has left its chain, or holds only FREE slots, cancels the copy. -/
def State.landCopy (s : State) (x : PageCopy) : State :=
  let col := (s.seq x.seq).home x.chain
  let t := x.dests.headD noPage
  let ps := s.chain x.seq x.chain
  match (if (s.seq x.seq).opened = x.opened then ps.findIdx? (· = x.page) else none) with
  | none => (s.giveBack x).endCopy x none
  | some j =>
    let pg := s.loadPage col x.page
    if pg.slots.all (fun w => slotState w = 0) then (s.giveBack x).endCopy x none
    else if !s.pageGranted (s.seq x.seq).part t || !s.pageGranted (s.seq x.seq).part x.page then (s.giveBack x).endCopy x (some kOperand)
    else
      match (s.copyPage x.seq x.chain x.page t pg.next).bind (fun s => s.relink x.seq x.chain (ps.take j).reverse t) with
      | .error e => (s.giveBack x).endCopy x (some e)
      | .ok s1 => (s1.releasePage x.seq x.chain x.page).endCopy x none

/-- What a copy reads: its source pages, and the chain table and headers of the chain that it relinks. -/
def State.copyAreas (s : State) (x : PageCopy) : List Area :=
  let col := (s.seq x.seq).home x.chain
  let q := s.seq x.seq
  let ps := s.chain x.seq x.chain
  (if q.forked then [] else [⟨q.home 0, .dv (q.ctab + 8 * x.chain), 8⟩]) ++
    ps.flatMap (fun p => pageArea col p 0 (if x.newFmt.isSome || p = x.page || 1 < (s.loadPage col p).share then 65536 else 768))

/-- A landing goes through the home's reserved slots and its open port; it takes every row as it stands then, since it copies again what has been
written since the transfer read it (11 R323, R339, R341). -/
def State.landVia (s : State) (x : PageCopy) (op : Instr) (k : State → State) : Host.Outcome State Fault Refusal :=
  let s0 := (s.asRead s.ev.run).beginWork x.card.workKey (s.wall + 1)
  let areas := s0.copyAreas x
  s.viaPort x.card.workKey (s.wall + 1) false (areaRows areas) (s0.areaUnits areas) (fun s => .next (k s)) ⟨op, s.ev⟩

/-- The traffic of a copy to or from peer memory: its page goes out, or is asked for, before what cards send (14 R419). -/
def State.sendCopy (s : State) (x : PageCopy) : State :=
  let t := x.dests.headD noPage
  let what (p k a : Nat) : List Nat := [((s.link p).peerOf (s.seq x.seq).part).getD 0, k, a % 2 ^ 52, 256]
  match pagePort t, pagePort x.page with
  | some p, _ =>
    let d := s.pageRead ((s.seq x.seq).home x.chain) x.page 0 65536
    s.sendMessages p true (what p 0 t) ((List.range 256).map (fun i => (d.drop (256 * i)).take 256))
  | none, some p => s.sendMessages p true (what p 1 x.page) []
  | none, none => s

/-- COPY_LANDING: the transfer and the landing of a demotion or promotion (11 R339); one to or from peer memory waits until its port is UP and
paired for the sequence's partition (14 R403, R419; log entry 126). -/
def execCopyLanding (s : State) : Host.Outcome State Fault Refusal :=
  match s.copyOf s.ev.index with
  | none => .next s
  | some x =>
    if ((x.page :: x.dests).filterMap pagePort).any (fun p => !s.portReady p (s.seq x.seq).part) then
      .next (s.eventAt (s.wall + 11) .copyLanding s.ev)
    else s.landVia x .copyLanding (fun s => (s.sendCopy x).landCopy x)

/-- A page with its elements in another format, but for the data of provisional slots that cannot be read, whose faults are deferred (11 R341,
R345; 03 R90 to R92). -/
def State.requantise (s : State) (n i old new fmt next : Nat) : State :=
  let q := s.seq n; let col := q.home i
  let pg := s.loadPage col old
  let conv (off : Nat) : List Byte :=
    let b := fmtBytes pg.fmt
    let src := s.pageRead col old off (q.d * b)
    (List.range q.d).flatMap (fun j =>
      match elemFmt pg.fmt, elemFmt fmt with
      | some f, some t => leBytes (fmtBytes fmt) (convertNum t false .rne (f.value (leAt src (j * b) b))).1
      | _, _ => [])
  let bad := s.softFaults col pg
  let s0 := ((s.pageWrite col new 0 ({ pg with ptr := new, next := next, fmt := fmt, seq := n, chain := i, share := 1,
                                               slots := pg.copied bad }).bytes).deferFaults n i bad).moveReports n i old new
  ((List.range pg.slots.length).filter (fun j => !bad.any (fun b => b.1 = j))).foldl (fun s1 j =>
    (s1.pageWrite col new (keyOff q.d fmt j) (conv (keyOff q.d pg.fmt j))).pageWrite col new
      (valOff q.d q.ptok fmt j) (conv (valOff q.d q.ptok pg.fmt j))) s0

/-- Take or return pages so that there is one for each page of the chain. -/
def State.fitPages (s : State) (x : PageCopy) (want : Nat) : Option (List Nat × State) :=
  if want ≤ x.dests.length then
    some (x.dests.take want, s.giveBack { x with keys := x.keys.drop want, dests := x.dests.drop want })
  else (List.range (want - x.dests.length)).foldl (fun (acc : Option (List Nat × State)) _ =>
    acc.bind (fun a => (a.2.takePage x.seq x.chain).map (fun r => (a.1 ++ [r.1], r.2)))) (some (x.dests, s))

/-- The landing of a requantisation (11 R341): the new chain, with every slot word as it stands now, replaces the old at once. -/
def State.landRequant (s : State) (x : PageCopy) : State :=
  let n := x.seq; let i := x.chain; let col := (s.seq n).home i
  let fmt := x.newFmt.getD 0
  let ps := s.chain n i
  let fail (e : Nat) : State := (s.giveBack x).endCopy x (some e)
  if !(s.seq n).isOpen || (s.seq n).opened ≠ x.opened then (s.giveBack x).endCopy x none
  else if ps.any (fun p => tierOf p = 2) then fail kRemote
  else
    match ps.findSome? (fun p => s.pageFault col (s.loadPage col p)), s.fitPages x ps.length with
    | some e, _ => fail (e.code kRange)
    | none, none => fail kPool
    | none, some (ds, s1) =>
      match ds.findSome? (fun p => s1.pageErr col p 0 65536 true) with
      | some e => fail (e.code kRange)
      | none =>
        let pairs := (List.zip ps ds).zipIdx
        let s2 := pairs.foldl (fun s p => s.requantise n i p.1.1 p.1.2 fmt ((ds[p.2 + 1]?).getD noPage)) s1
        let s3 := s2.setChainHead n i (ds.headD noPage)
        let s4 := ps.foldl (fun s p => s.releasePage n i p) s3
        (s4.modSeq n (fun q => { q with fmts := FMap.set q.kvfmt q.fmts i fmt })).endCopy x none

/-- REQUANTISATION_LANDING: the transfer and the landing of a requantisation (11 R341). -/
def execRequantisationLanding (s : State) : Host.Outcome State Fault Refusal :=
  match s.copyOf s.ev.index with
  | none => .next s
  | some x => s.landVia x .requantisationLanding (fun s => s.landRequant x)

/-! ### Reports and refusals (11 R326, R345) -/

/-- A report of a deferred fault (11 R345): the node keeps the fault and its slot takes the cause; a slot since committed takes it too; else it
is discarded. -/
def doFaultReport (s : State) : State :=
  let n := s.ev.seq; let i := s.ev.chain; let q := s.seq n; let g := s.ev.gen; let node := s.ev.node
  let col := q.home i
  let mark (s : State) (p j : Nat) : State :=
    match (s.chain n i).findIdx? (· = p) with
    | none => s
    | some k =>
      match s.ownPage n i k with
      | .error _ => s
      | .ok (p, s) => s.pageWrite col p (256 + 8 * j + 2) (leBytes 1 s.ev.value)
  if !q.isOpen || q.nchain ≤ i then s
  else if q.live.contains g && (s.nodeSlot n i g node).isSome then
    match s.nodeSlot n i g node with
    | some (p, j) => mark (s.modSeq n (fun q => q.defer ⟨g, node, s.ev.value, i⟩)) p j
    | none => s
  else
    let w := ((s.loadPage col s.ev.addr).slots[s.ev.index]?).getD 0
    if (s.chain n i).contains s.ev.addr && slotState w = 1 then mark s s.ev.addr s.ev.index else s

/-- FAULT_REPORT: the report of a reader takes its place in the sequence order, through the home's reserved slots and open port (11 R323, R345). -/
def execFaultReport (s : State) : Host.Outcome State Fault Refusal :=
  let since := max 1 s.ev.count
  let s0 := (s.asRead s.ev.run).beginWork (eventKey since) since
  let areas := if s.ev.chain < (s.seq s.ev.seq).nchain then s0.chainArea s.ev.seq s.ev.chain else []
  s.throughPort since (areaRows areas) (s0.areaUnits areas) (fun s => .next (doFaultReport s)) ⟨.faultReport, s.ev⟩

/-- A refusal of a node (11 R326): the pending generation based on it is squashed, with every younger one. -/
def doRefusal (s : State) (n gen node : Nat) : State :=
  let q := s.seq n
  match q.fromGen gen with
  | _ :: v :: _ =>
    if q.isOpen && (q.genRec v).base = node then (match s.squash n (q.fromGen v) with | .ok t => t | .error _ => s) else s
  | _ => s

end Sys2Proof.Machine
end

