-- ==== Sys2Proof/Machine/Sampling.lean ====
section
/-! DEFINITION. Sampling and acceptance (spec 12): softmax, prefix sums and draws, acceptance over a tree, run-ahead work,
steering the Catalogue, publishing tokens, seeds and statistics. Each card takes effect as one step, or fails (R355, R356). -/

namespace Sys2Proof.Machine

/-! ### Codes and statistics (12 R356, R372) -/

def gOperand : Nat := 1
def gUnbound : Nat := 2
def gRange : Nat := 3
def gZero : Nat := 6
def gTree : Nat := 7
def gNotdone : Nat := 8
def gFull : Nat := 9

/-- What a card's step gives: the state after it, or its code. -/
abbrev GResult := Except Nat State

/-- The instance of a sampling card. -/
def sampInst : Instr → Nat
  | .gseedSeq i _ => i.val | .gseedObj i _ => i.val | .gsoft i _ => i.val | .gsoftTopk i _ => i.val | .gcdf i _ => i.val
  | .gpick i _ => i.val | .gpickTopk i _ => i.val | .gaccept i _ => i.val | .gacceptGreedy i _ => i.val
  | .gresid i _ => i.val | .gnext i _ => i.val | .gparamAssume i _ => i.val | .gparamClear i _ => i.val
  | .gpub i _ => i.val | .gstat i _ => i.val | .gstatClr i _ => i.val | _ => 0

/-- The partition of a card. -/
def State.cardPart (s : State) (c : JobCard) : Nat := (s.inst c.inst).part

/-- The key of a card's statistics: instance and partition. -/
def State.sampKey (s : State) (c : JobCard) : Nat := s.cardPart c * 2 + sampInst c.op

/-- The statistics a card adds to. -/
def State.sampOf (s : State) (c : JobCard) : SampStats := FMap.get {} s.samp (s.sampKey c)
def State.modSamp (s : State) (c : JobCard) (f : SampStats → SampStats) : State :=
  { s with samp := FMap.modify {} s.samp (s.sampKey c) f }

/-- The statistics as a row (12 R372). -/
def SampStats.row (x : SampStats) : Row :=
  padTo 256
    ((List.range 8).flatMap (fun q => leBytes 4 (FMap.get 0 x.completed q) ++ leBytes 4 (FMap.get 0 x.codes q)) ++
     leBytes 8 x.words ++ leBytes 8 x.lastS ++ leBytes 8 x.lastC ++ leBytes 8 x.refusals ++ leBytes 8 x.abandons ++
     leBytes 8 x.fallbacks)

/-- Count the words a card drew, with the last word's stream and counter. -/
def State.drew (s : State) (c : JobCard) (n stream ctr : Nat) : State :=
  if n = 0 then s else s.modSamp c (fun x => { x with words := x.words + n, lastS := stream, lastC := ctr })

/-! ### Keyed draws (12 R350, R351) -/

/-- The stream of a purpose (12 R351). -/
def drawStream (purpose seq seedspace : Nat) : Nat := purpose * 2 ^ 28 + seq * 2 ^ 16 + seedspace

/-- The counter of a draw (12 R351). -/
def drawCounter (step depth attempt element : Nat) : Nat :=
  step % 2 ^ 24 * 2 ^ 40 + depth % 32 * 2 ^ 35 + attempt % 64 * 2 ^ 29 + element % 2 ^ 29

/-- The uniform value of a word (12 R350). -/
def uniform (w : Nat) : Nat := w / 2 ^ 40 % 2 ^ 24

/-- SEEDSPACE of a card's object. -/
def State.seedspace (s : State) (c : JobCard) : Nat := (s.inst c.inst).object.seedspace

/-- The purposes of picks, acceptances and residuals (12 R351). -/
def purPick : Nat := 8
def purAccept : Nat := 9
def purResid : Nat := 10

/-! ### Pointers and rows (12 R353) -/

/-- `n` rows from a G row pointer; none when out of range. -/
def State.gArea (s : State) (c : JobCard) (p n : Nat) : Option EngineRow :=
  let sp := p / 2 ^ 60 % 16
  if 1 ≤ sp && sp ≤ 8 then
    if p / 2 ^ 13 % 2 ^ 43 ≠ 0 then none
    else (s.physOf c.inst (p / 2 ^ 56 % 16)).bind (fun col => s.rowArea (col * 8) (sp * 2 ^ 60 + p % 2 ^ 13) n)
  else s.rowArea c.core p n

/-- Read bytes through a G row pointer, with the code of a failure. -/
def State.gRead (s : State) (c : JobCard) (p off n : Nat) : Except Nat (List Byte) :=
  match s.gArea c p (ceilDiv (off + n) 256) with
  | none => .error gOperand
  | some r =>
    match s.fetch c.col r off n with
    | .ok d => .ok d
    | .error e => .error (e.code gRange)

/-- Where a card may write `n` bytes: the place, or the code of a failure. -/
def State.gDest (s : State) (c : JobCard) (p n : Nat) : Except Nat EngineRow :=
  match s.gArea c p (ceilDiv n 256) with
  | none => .error gOperand
  | some (.row r) => .ok (.row r)
  | some (.dv x) =>
    match s.dvErr c.col x n true with
    | some e => .error (e.code gRange)
    | none => .ok (.dv x)

/-- `n` f32 entries from a pointer. -/
def State.gFloats (s : State) (c : JobCard) (p rowOff n : Nat) : Except Nat (List Nat) :=
  match s.gRead c p (rowOff * 256) (4 * n) with
  | .ok d => .ok ((List.range n).map (fun i => leAt d (4 * i) 4))
  | .error e => .error e

/-- Entries as whole rows, zero after the last. -/
def floatRows (l : List Nat) : List Byte := padTo (ceilDiv l.length 64 * 256) (l.flatMap (leBytes 4))

/-- Whether every byte of a row outside the named fields is zero (12 R353). -/
def onlyFields (d : Row) (fields : List (Nat × Nat)) : Bool :=
  (List.range 256).all (fun i => fields.any (fun f => f.1 ≤ i && i < f.1 + f.2) || (d[i]?.getD 0) = 0)

/-! ### f32 arithmetic of the engine -/

/-- An exact quotient of exact values, sticky where it does not end. -/
def Exact.div (x y : Exact) : Exact :=
  let r := ratio (x.neg != y.neg) x.m y.m
  { r with e := r.e + x.e - y.e, sticky := r.sticky || x.sticky }

/-- f32 division to nearest even (03 R83). -/
def divF32 (a b : Nat) : Nat :=
  match f32F.value a, f32F.value b with
  | .nan, _ => f32F.nanBits
  | _, .nan => f32F.nanBits
  | .inf _, .inf _ => f32F.nanBits
  | .inf x, .fin y => f32F.signBit (x != y.neg) + f32F.infBits
  | .fin x, .inf y => f32F.signBit (x.neg != y)
  | .fin x, .fin y =>
    if y.m = 0 then (if x.m = 0 then f32F.nanBits else f32F.signBit (x.neg != y.neg) + f32F.infBits)
    else if x.m = 0 then f32F.signBit (x.neg != y.neg)
    else rneF32 (x.div y)

/-- f32 one, zero, and the infinities. -/
def f32One : Nat := 0x3F800000
def f32Inf : Nat := 0x7F800000
def f32NegInf : Nat := 0xFF800000

/-- max(0, a − b) rounded (12 R362, R364). -/
def posDiff (a b : Nat) : Nat :=
  let d := (f32F.sub .rne a b).1
  match f32F.value d with
  | .fin x => if x.neg then 0 else d
  | .inf n => if n then 0 else d
  | .nan => 0

/-- exp of a difference of two f32 values, rounded: 0 for −∞ (12 R357). -/
def expDiff (y mx : Nat) : Nat :=
  match f32F.value y, f32F.value mx with
  | .fin a, .fin b =>
    let d := a.add { b with neg := !b.neg }
    if d.neg && 110 < -(d.ceil) then 0 else rneF32 d.exp
  | _, _ => 0

/-- Whether a value is NaN. -/
def isNan32 (x : Nat) : Bool := match f32F.value x with | .nan => true | _ => false

/-- The maximum of a vector without NaNs. -/
def maxF32 (l : List Nat) : Nat := l.foldl (fun m x => if (f32F.value m).lt (f32F.value x) then x else m) f32NegInf

/-- The unnormalised weights of a softmax; none when no entry is above −∞ (12 R357). -/
def softWeights (z : List Nat) (it : Nat) : Option (List Nat) :=
  let y := z.map (fun v => let t := mulF32 v it; if isNan32 t then f32NegInf else t)
  let mx := maxF32 y
  if mx = f32NegInf then none
  else some (y.map (fun v => if mx = f32Inf then (if v = f32Inf then f32One else 0) else expDiff v mx))

/-- EXACT softmax of one vector (12 R357). -/
def softmax (z : List Nat) (it : Nat) : Option (List Nat) :=
  (softWeights z it).map (fun e =>
    let sm := (tree addF32 e).getD 0
    e.map (fun v => divF32 v sm))

/-- The runs of a prefix, shortest first: one element more (03 R96). -/
def pushRun (op : Nat → Nat → Nat) : Nat → Nat → List (Nat × Nat) → List (Nat × Nat)
  | n, v, (m, w) :: r => if n = m then pushRun op (2 * n) (op w v) r else (n, v) :: (m, w) :: r
  | n, v, [] => [(n, v)]

/-- Inclusive prefix sums as 03 R96 forms them. -/
def prefixSums (l : List Nat) : List Nat :=
  (l.foldl (fun (acc : List Nat × List (Nat × Nat)) v =>
    let runs := pushRun addF32 1 v acc.2
    (acc.1 ++ [(foldRuns addF32 (runs.reverse.map (·.2))).getD 0], runs)) ([], [])).1

/-- A draw from a prefix vector (12 R360); none when its total is not finite and positive. -/
def drawFrom (f : List Nat) (u : Nat) : Option Nat :=
  match f32F.value (f.getLast?.getD 0) with
  | .fin t =>
    if t.neg || t.m = 0 then none
    else f.findIdx? (fun x => match f32F.value x with
      | .fin v => ((intExact u 0).mul t).lt ((intExact (2 ^ 24) 0).mul v)
      | .inf neg => !neg
      | _ => false)
  | _ => none

/-- Whether every value is a probability: not negative, NaN or infinite (12 R356). -/
def probsOk (l : List Nat) : Bool :=
  l.all (fun x => match f32F.value x with | .fin v => !v.neg || v.m = 0 | _ => false)

/-- A finite positive f32. -/
def positive32 (x : Nat) : Bool := match f32F.value x with | .fin v => !v.neg && v.m ≠ 0 | _ => false

/-! ### Softmax and prefix sums (12 R357 to R359) -/

/-- Apply an operation to COUNT vectors of N entries and write them where DST says; every vector is read before any is
written. -/
def State.mapVectors (s : State) (c : JobCard) (src dst n count : Nat) (f : List Nat → Except Nat (List Nat)) : GResult :=
  let nr := ceilDiv n 64
  let out := (List.range count).foldl (fun (acc : Except Nat (List Byte)) v =>
    match acc, s.gFloats c src (v * nr) n with
    | .error e, _ => .error e
    | .ok _, .error e => .error e
    | .ok o, .ok z => match f z with | .ok p => .ok (o ++ floatRows p) | .error e => .error e) (.ok [])
  match out with
  | .error e => .error e
  | .ok d =>
    match s.gDest c dst d.length with
    | .error e => .error e
    | .ok r => .ok (s.storeAt c.col r 0 d)

/-- GSOFT, EXACT. -/
def doGsoft (s : State) (c : JobCard) : GResult :=
  let d := c.arg
  let n := leAt d 32 4; let it := leAt d 36 4; let count := leAt d 48 2
  if c.bits 63 48 ≠ 0 || c.bits 43 13 ≠ 0 || !onlyFields d [(0, 16), (32, 8), (48, 2)] || n = 0 || 262144 < n ||
      count = 0 || 64 < count || !positive32 it then .error gOperand
  else s.mapVectors c (leAt d 0 8) (leAt d 8 8) n count (fun z =>
    match softmax z it with | some p => .ok p | none => .error gZero)

/-- exp(v) / (s·2^e) rounded to f32, far beyond whose range the quotient is told by its leading bit (12 R358; log entry 14). -/
def expOver (v sv : Exact) (e : Int) : Nat :=
  let q := v.exp.div { sv with e := sv.e + e }
  let top : Int := q.e + Nat.log2 q.m
  if top < -300 then f32F.signBit q.neg else if 300 < top then f32F.signBit q.neg + f32Inf else rneF32 q

/-- The probability of a candidate x under a pair (s, e) (12 R358); where x or s is no number the rule states no quotient, and it is a free value
(log entry 112). -/
def State.candidate (s : State) (x sv : Nat) (e : Int) : Nat × State :=
  match f32F.value x, f32F.value sv with
  | .fin a, .fin b => (expOver a b e, s)
  | _, _ => (s.freshWord.1.toNat % 2 ^ 32, s.freshWord.2)

/-- GSOFT, TOPK (12 R358). -/
def doGsoftTopk (s : State) (c : JobCard) : GResult :=
  let d := c.arg
  let k := leAt d 32 4; let h := leAt d 40 1
  if c.bits 63 48 ≠ 0 || c.bits 43 13 ≠ 0 || !onlyFields d [(0, 24), (32, 9), (48, 2)] || k = 0 || 64 < k ||
      leAt d 48 2 ≠ 1 || 63 < h || leAt d 36 4 ≠ f32One then .error gOperand
  else
    match s.gRead c (leAt d 0 8) 0 512, s.gRead c (leAt d 16 8) (8 * h) 8, s.gDest c (leAt d 8 8) 768 with
    | .error e, _, _ => .error e
    | .ok _, .error e, _ => .error e
    | .ok _, .ok _, .error e => .error e
    | .ok heap, .ok pair, .ok r =>
      if leAt pair 0 4 % 2 ^ 31 = 0 then .error gZero
      else
        let used (j : Nat) : Bool := leAt heap (8 * j) 4 ≠ f32NegInf
        let out := (List.range k).foldl (fun (a : List Nat × State) j =>
          let v := if used j then a.2.candidate (leAt heap (8 * j) 4) (leAt pair 0 4) (signedOf 32 (leAt pair 4 4)) else (0, a.2)
          (a.1 ++ [v.1], v.2)) ([], s)
        let p := out.1
        let ids := (List.range k).map (fun j => if used j then leAt heap (8 * j + 4) 4 else 0xFFFFFFFF)
        let tail := posDiff f32One ((tree addF32 p).getD 0)
        .ok (out.2.storeAt c.col r 0 (padTo 512 ((p ++ [tail]).flatMap (leBytes 4)) ++ padTo 256 (ids.flatMap (leBytes 4))))

/-- GCDF (12 R359). -/
def doGcdf (s : State) (c : JobCard) : GResult :=
  let d := c.arg
  let n := leAt d 32 4; let count := leAt d 48 2
  if c.bits 63 48 ≠ 0 || c.bits 43 13 ≠ 0 || !onlyFields d [(0, 16), (32, 4), (48, 2)] || n = 0 || 262144 < n ||
      count = 0 || 64 < count then .error gOperand
  else s.mapVectors c (leAt d 0 8) (leAt d 8 8) n count (fun z => .ok (prefixSums z))

/-! ### Picks (12 R360 to R362) -/

/-- The pick row (12 R361). -/
def pickRow (token : Nat) (fallback : Bool) (ctr stream : Nat) : Row :=
  padTo 256 (leBytes 4 token ++ leBytes 1 1 ++ leBytes 3 (if fallback then 1 else 0) ++ leBytes 8 ctr ++ leBytes 4 stream)

/-- Write a pick row and count the words drawn. -/
def State.writePick (s : State) (c : JobCard) (out token words stream ctr : Nat) (fallback : Bool) : GResult :=
  match s.gDest c out 256 with
  | .error e => .error e
  | .ok r =>
    let s := (s.storeAt c.col r 0 (pickRow token fallback ctr stream)).drew c words stream ctr
    .ok (s.modSamp c (fun x => { x with fallbacks := x.fallbacks + (if fallback then 1 else 0) }))

/-- A word of a card's key. -/
def JobCard.word (c : JobCard) (stream ctr : Nat) : Nat := randomWord c.key.toNat stream ctr

/-- Whether STEP, DEPTH and ATTEMPT at their places are in range (12 R360). -/
def drawFieldsOk (d : Row) : Bool := leAt d 43 1 = 0 && leAt d 44 1 ≤ 31 && leAt d 45 1 ≤ 63

/-- The counter of the draw of an argument row. -/
def drawFieldsCtr (d : Row) (element : Nat) : Nat := drawCounter (leAt d 40 3) (leAt d 44 1) (leAt d 45 1) element

/-- GPICK, EXACT (12 R360). -/
def doGpick (s : State) (c : JobCard) : GResult :=
  let d := c.arg
  let n := leAt d 32 4
  let st := drawStream purPick c.seq (s.seedspace c); let ct := drawFieldsCtr d 0
  if c.bits 55 48 ≠ 0 || c.bits 43 13 ≠ 0 || !onlyFields d [(0, 16), (32, 4), (40, 6)] || n = 0 || 262144 < n ||
      !drawFieldsOk d then .error gOperand
  else
    match s.gFloats c (leAt d 0 8) 0 n with
    | .error e => .error e
    | .ok f =>
      match drawFrom f (uniform (c.word st ct)) with
      | none => .error gZero
      | some i => s.writePick c (leAt d 8 8) i 1 st ct false

/-- GPICK, TOPK (12 R360): a candidate, or the tail's EXACT pass over the logits without the candidates. -/
def doGpickTopk (s : State) (c : JobCard) : GResult :=
  let d := c.arg
  let n := leAt d 32 4; let v := leAt d 48 4; let it := leAt d 36 4
  let st := drawStream purPick c.seq (s.seedspace c)
  if c.bits 55 48 ≠ 0 || c.bits 43 13 ≠ 0 || !onlyFields d [(0, 46), (48, 4)] || n < 2 || 65 < n || v = 0 || 262144 < v ||
      !positive32 it || !drawFieldsOk d then .error gOperand
  else
    match s.gFloats c (leAt d 0 8) 0 n, s.gFloats c (leAt d 16 8) 0 (n - 1) with
    | .error e, _ => .error e
    | .ok _, .error e => .error e
    | .ok f, .ok ids =>
      match drawFrom f (uniform (c.word st (drawFieldsCtr d 0))) with
      | none => .error gZero
      | some i =>
        if i + 1 < n then
          if v ≤ ids[i]?.getD 0 then .error gOperand
          else s.writePick c (leAt d 8 8) (ids[i]?.getD 0) 1 st (drawFieldsCtr d 0) false
        else
          match s.gFloats c (leAt d 24 8) 0 v with
          | .error e => .error e
          | .ok z =>
            match softWeights z it with
            | none => .error gZero
            | some e =>
              let e := (List.range e.length).map (fun j => if ids.contains j then 0 else e[j]?.getD 0)
              match drawFrom (prefixSums e) (uniform (c.word st (drawFieldsCtr d 1))) with
              | none => .error gZero
              | some t => s.writePick c (leAt d 8 8) t 2 st (drawFieldsCtr d 1) true

/-- GRESID (12 R362). -/
def doGresid (s : State) (c : JobCard) : GResult :=
  let d := c.arg
  let v := leAt d 32 4
  let st := drawStream purResid c.seq (s.seedspace c); let ct := drawFieldsCtr d 0
  if c.bits 55 48 ≠ 0 || c.bits 43 13 ≠ 0 || !onlyFields d [(0, 24), (32, 4), (40, 6)] || v = 0 || 262144 < v ||
      !drawFieldsOk d then .error gOperand
  else
    match s.gFloats c (leAt d 0 8) 0 v, s.gFloats c (leAt d 8 8) 0 v with
    | .error e, _ => .error e
    | .ok _, .error e => .error e
    | .ok t, .ok q =>
      if !probsOk t || !probsOk q then .error gOperand
      else
        let res := List.zipWith posDiff t q
        let z := (tree addF32 res).getD 0
        match drawFrom (prefixSums (if z = 0 then t else res)) (uniform (c.word st ct)) with
        | none => .error gZero
        | some i => s.writePick c (leAt d 16 8) i 1 st ct false

/-! ### Acceptance (12 R363 to R366) -/

/-- Where an acceptance stands: the position (0 the prefix, j + 1 node j), its depth, the working target, the path and tokens,
the refused nodes, and the words drawn with the last counter. -/
structure AcceptRun where
  pos : Nat := 0
  depth : Nat := 1
  t : List Nat := []
  path : List Nat := []
  toks : List Nat := []
  refused : List Nat := []
  words : Nat := 0
deriving DecidableEq, Repr

/-- The lowest index of the largest value. -/
def argmax (l : List Nat) : Nat := (l.findIdx? (fun x => (f32F.value x).eqv (f32F.value (maxF32 l)))).getD 0

/-- Read a position's distribution. -/
def State.position (s : State) (c : JobCard) (p v pos : Nat) : Except Nat (List Nat) :=
  match s.gFloats c p (pos * ceilDiv v 64) v with
  | .error e => .error e
  | .ok l => if probsOk l then .ok l else .error gOperand

/-- Try the children of a position in turn (12 R364): the accepted one, and the run after it. -/
def tryChildren (c : JobCard) (greedy : Bool) (stream step : Nat) (q tokens : List Nat) :
    List Nat → Nat → AcceptRun → Option Nat × AcceptRun
  | [], _, r => (none, r)
  | ch :: rest, a, r =>
    let x := tokens[ch]?.getD 0
    let no (r : AcceptRun) : AcceptRun := { r with refused := r.refused ++ [ch] }
    if greedy then
      if x = argmax r.t then (some ch, r) else tryChildren c greedy stream step q tokens rest (a + 1) (no r)
    else
      let u := uniform (c.word stream (drawCounter step r.depth a 0))
      let r := { r with words := r.words + 1 }
      let num (y : Nat) : Exact := match f32F.value y with | .fin v => v | _ => intExact 0 0
      if ((intExact u 0).mul (num (q[x]?.getD 0))).lt ((intExact (2 ^ 24) 0).mul (num (r.t[x]?.getD 0))) then (some ch, r)
      else
        let res := List.zipWith posDiff r.t q
        let z := (tree addF32 res).getD 0
        let r := if z ≠ 0 then { r with t := res.map (fun y => divF32 y z) } else r
        tryChildren c greedy stream step q tokens rest (a + 1) (no r)

/-- The acceptance loop (12 R364). -/
def State.acceptLoop (s : State) (c : JobCard) (greedy : Bool) (stream step pptr qptr v : Nat) (parents tokens : List Nat) :
    Nat → AcceptRun → Except Nat AcceptRun
  | 0, r => .ok r
  | fuel + 1, r =>
    match s.position c pptr v r.pos with
    | .error e => .error e
    | .ok t =>
      let want := if r.pos = 0 then 0xFF else r.pos - 1
      let kids := (List.range parents.length).filter (fun j => parents[j]?.getD 0 = want)
      match if kids.isEmpty || greedy then .ok [] else s.position c qptr v r.pos with
      | .error e => .error e
      | .ok q =>
        match tryChildren c greedy stream step q tokens kids 0 { r with t := t } with
        | (none, r) => .ok r
        | (some ch, r) =>
          s.acceptLoop c greedy stream step pptr qptr v parents tokens fuel
            { r with path := r.path ++ [ch], toks := r.toks ++ [tokens[ch]?.getD 0], pos := ch + 1, depth := r.depth + 1 }

/-- The result row (12 R366). -/
def resultRow (r : AcceptRun) (gen step : Nat) (greedy : Bool) : Row :=
  let b0 := leBytes 1 r.path.length ++ padTo 16 (r.path.flatMap (leBytes 1))
  let b1 := leBytes 1 1 ++ leBytes 1 gen ++ leBytes 2 (if greedy then 1 else 0) ++ leBytes 4 step
  padTo 256 (padTo 24 b0 ++ b1 ++ padTo 96 (r.toks.flatMap (leBytes 4)) ++
    leBytes 8 (r.refused.foldl (fun m j => m + 2 ^ j) 0) ++ leBytes 4 r.words)

/-- The logical colonnades of the group that holds one (02 R77). -/
def Inst.groupWith (i : Inst) (logical : Nat) : List Nat := (i.object.groups.find? (fun g => g.contains logical)).getD [logical]

/-- The group that holds a logical colonnade of an instance gets an abandonment request (12 R368), or its record while it is
pre-empted. -/
def State.askAbandon (s : State) (i logical entry : Nat) : State :=
  match s.placeOf i logical with
  | some col =>
    let g := (s.col col).group
    let s := (s.group g).cols.foldl (fun s c => s.modCol c (fun co => { co with abandon := none })) s
    if (s.liveCores g).isEmpty then s
    else s.modCol col (fun co => { co with abandon := some entry, abandonAt := (s.group g).sched })
  | none =>
    let n := s.inst i
    s.setInst i { n with saved := n.saved.map (fun p =>
      if p.1 % 16 ≠ 0 || !(n.groupWith logical).contains (p.1 / 16) then p
      else (p.1, patchBytes p.2 0xF28 (if p.1 = logical * 16 then leBytes 1 1 ++ leBytes 1 entry else [0, 0]))) }

/-- Judge assumptions against an outcome (12 R367): a group whose node is not the last of the path is asked to abandon. -/
def State.judge (s : State) (c : JobCard) (l : List Assumption) (last : Option Nat) : State :=
  l.foldl (fun s a =>
    if last = some a.node then s
    else (s.askAbandon a.inst a.col a.entry).modSamp c (fun x => { x with abandons := x.abandons + 1 })) s

/-- The key of a sequence's last outcome. -/
def outcomeKey (part seq : Nat) : Nat := part * 256 + seq

/-- GACCEPT (12 R363 to R365). -/
def doGaccept (s : State) (c : JobCard) (greedy : Bool) : GResult :=
  let d := c.arg.take 256; let tk := c.arg.drop 256
  let v := leAt d 24 4; let step := leAt d 28 4; let nodes := leAt d 32 1; let gen := leAt d 33 1
  let parents := (List.range nodes).map (fun j => leAt d (64 + j) 1)
  let tokens := (List.range nodes).map (fun j => leAt tk (4 * j) 4)
  let part := s.cardPart c
  let st := drawStream purAccept c.seq (s.seedspace c)
  if c.bits 55 48 ≠ 0 || c.bits 43 13 ≠ 0 || tk.length < 256 || !onlyFields d [(0, 34), (64, 64)] || v = 0 || 262144 < v ||
      2 ^ 24 ≤ step || nodes = 0 || 64 < nodes || 3 < gen || tokens.any (v ≤ ·) || !inRows (leAt d 16 8) then .error gOperand
  else if !treeOk parents then .error gTree
  else
    match s.gDest c (leAt d 16 8) 256 with
    | .error e => .error e
    | .ok out =>
      match s.acceptLoop c greedy st step (leAt d 0 8) (leAt d 8 8) v parents tokens 17 {} with
      | .error e => .error e
      | .ok r =>
        let rs := drawStream purResid c.seq (s.seedspace c); let rc := drawCounter step r.depth 0 0
        match if greedy then some (argmax r.t) else drawFrom (prefixSums r.t) (uniform (c.word rs rc)) with
        | none => .error gZero
        | some bonus =>
          let r := { r with toks := r.toks ++ [bonus], words := if greedy then 0 else r.words + 1 }
          let s1 := s.storeAt c.col out 0 (resultRow r gen step greedy)
          let s2 := r.refused.foldl (fun s j => doRefusal s c.seq gen j) s1
          let last := r.path.getLast?
          let s3 := { s2 with outcomes := FMap.set {} s2.outcomes (outcomeKey part c.seq) ⟨gen, last, true⟩ }
          let hits := s3.assumptions.filter (fun a => a.part = part && a.seq = c.seq && a.gen = gen)
          let s4 := { s3 with assumptions := s3.assumptions.filter (fun a => !hits.contains a) }
          let s5 := s4.judge c hits last
          .ok ((s5.drew c r.words rs rc).modSamp c (fun x => { x with refusals := x.refusals + r.refused.length }))

/-- What a failing GACCEPT writes: STATUS = 0x80 + code and K = 0, when OUT is in range (12 R366). -/
def State.acceptFailed (s : State) (c : JobCard) (code : Nat) : State :=
  let p := leAt c.arg 16 8
  if c.arg.isEmpty || !inRows p then s
  else
    match s.gDest c p 256 with
    | .ok r => s.storeAt c.col r 0 (padTo 256 (List.replicate 24 0 ++ leBytes 1 (0x80 + code)))
    | .error _ => s

/-! ### Run-ahead work, steering and publishing (12 R367 to R371) -/

/-- GPARAM.assume (12 R367). -/
def doAssume (s : State) (c : JobCard) : GResult :=
  let part := s.cardPart c; let gen := c.bits 55 54; let col := c.bits 43 40
  let a : Assumption := { inst := c.inst, seq := c.seq, gen := gen, node := c.bits 53 48, col := col, entry := c.bits 39 32, part := part }
  let o := FMap.get ({} : LastOutcome) s.outcomes (outcomeKey part c.seq)
  if c.bits 47 44 ≠ 0 || c.bits 31 0 ≠ 0 || (s.physOf c.inst col).isNone then .error gOperand
  else if o.valid && o.gen = gen then .ok (s.judge c [a] o.node)
  else if 16 ≤ (s.assumptions.filter (fun x => x.part = part)).length then .error gFull
  else .ok { s with assumptions := s.assumptions ++ [a] }

/-- GPARAM.clear (12 R367). -/
def doClearAssume (s : State) (c : JobCard) : GResult :=
  let col := c.bits 43 40
  if c.bits 63 44 ≠ 0 || c.bits 39 0 ≠ 0 || (s.physOf c.inst col).isNone then .error gOperand
  else .ok { s with assumptions := s.assumptions.filter (fun a => !(a.inst = c.inst && a.col = col)) }

/-- GNEXT (12 R369): the index, or a code. -/
def gnextIndex (s : State) (c : JobCard) : Except Nat Nat :=
  let status := leAt c.arg 24 1; let k := leAt c.arg 0 1; let base := c.bits 43 36
  let index := if status = 1 then base + k else base + 17
  if c.bits 63 56 ≠ 0 || c.bits 51 48 ≠ 0 || c.bits 35 13 ≠ 0 || c.arg.isEmpty then .error gOperand
  else if status = 0 then .error gNotdone
  else if (status ≠ 1 && status < 0x80) || 255 < index || (s.physOf c.inst (c.bits 55 52)).isNone then .error gOperand
  else .ok index

/-- A GNEXT's write of FRAGSEL of the group that holds a logical colonnade, after any KWR of the same cycle (05 R135, 12 R369); a pre-empted
group's is written in its saved records. -/
def State.writeFragsel (s : State) (i logical index : Nat) : State :=
  if (s.inst i).status.isSome then s
  else
    match s.placeOf i logical with
    | some p => s.modGroup (s.col p).group (fun gr => { gr with fragValid := true, fragIndex := index, gnextAt := s.wall + 1 })
    | none => ((s.inst i).groupWith logical).foldl (fun s l =>
        s.modRecord i l (fun d => patchBytes d 0xF10 (leBytes 1 index ++ leBytes 1 1))) s

/-- GNEXT: FRAGSEL is written before the card's signal, which comes `d` wall cycles from now, at most 24 (12 R355, R369). -/
def doGnext (s : State) (c : JobCard) (d : Nat) : GResult :=
  match gnextIndex s c with
  | .error e => .error e
  | .ok index =>
    let w := s.freshSlack
    .ok (w.2.atWall (s.wall + 1 + w.1 % d) (.fragselWrite c.inst (c.bits 55 52) index))

/-- Where a token ring lies: rows of the device, or granted host memory (12 R353, R370). -/
def State.ringPlace (s : State) (c : JobCard) (p n : Nat) : Option EngineRow :=
  if p / 2 ^ 60 = 14 then
    let a := p % 2 ^ 52
    if p / 2 ^ 52 % 2 ^ 8 = 0 && a % 256 = 0 && s.hostGranted (s.cardPart c) a (n * 256) then some (.row ⟨14, 0, hostAddr a⟩) else none
  else s.gArea c p n

/-- Where in a token ring the next `n` entries stand (12 R370, R371). -/
def gpubSpots (count cap n : Nat) : List Nat := (List.range n).map (fun i => 256 + 4 * ((count + i) % cap))

/-- GPUB (12 R371; 04 R126): the entries first, then the count; for a dv ring the count is released, so the colonnade's dirty lines of the
entries are written back before it (04 R117). -/
def doGpub (s : State) (c : JobCard) : GResult :=
  let d := c.arg
  if c.bits 55 48 ≠ 0 || c.bits 43 13 ≠ 0 || !onlyFields d [(0, 16)] then .error gOperand
  else
    let p := leAt d 0 8
    match s.ringPlace c p 1, s.gRead c (leAt d 8 8) 0 256 with
    | none, _ => .error gOperand
    | some _, .error e => .error e
    | some r, .ok res =>
      match (match r with
        | .row h => if s.hostFails h.addr then Except.error DvErr.mcheck else s.fetch c.col r 0 256
        | .dv _ => s.fetch c.col r 0 256) with
      | .error e => .error (e.code gRange)
      | .ok h =>
        let count := leAt h 0 8; let cap := leAt h 8 4; let read := leAt h 16 8
        let n := leAt res 0 1 + 1
        let toks := (List.range n).map (fun i => leAt res (32 + 4 * i) 4)
        if leAt res 24 1 ≠ 1 then .error gNotdone
        else if cap = 0 || 2 ^ 20 < cap || 2 ^ Nat.log2 cap ≠ cap || leAt h 12 4 ≠ 0 || !allZero (h.drop 24) || 17 < n ||
            toks.any (2 ^ 18 ≤ ·) then .error gOperand
        else if read + cap < count + n then .error gFull
        else
          match s.ringPlace c p (1 + ceilDiv cap 64) with
          | none => .error gOperand
          | some r =>
            let spots := gpubSpots count cap n
            let err : Option Nat := match r with
              | .dv x => (spots ++ [0]).findSome? (fun o => (s.dvErr c.col (x + o) (if o = 0 then 8 else 4) true).map (DvErr.code gRange))
              | .row _ => none
            match err with
            | some e => .error e
            | none =>
              let s0 := match r with
                | .dv x => s.flushRegions c.col (spots.map (fun o => (10, (x + o) / 256, 1)))
                | .row _ => s
              let s1 := (spots.zip toks).foldl (fun (s : State) p => s.storeAt c.col r p.1 (leBytes 4 (p.2 + c.seq * 2 ^ 24))) s0
              .ok (s1.storeAt c.col r 0 (leBytes 8 (count + n)))

/-! ### Seeds and statistics (12 R372) -/

/-- GSEED. -/
def doGseed (s : State) (c : JobCard) (obj : Bool) : GResult :=
  let part := s.cardPart c; let p := s.part part
  let v := BitVec.ofNat 64 (leAt c.arg 0 8)
  if c.bits 55 48 ≠ 0 || c.bits 43 13 ≠ 0 || (obj && c.seq ≠ 0) || c.arg.isEmpty || !onlyFields (c.arg.take 256) [(0, 8)] then
    .error gOperand
  else if obj then .ok (s.setPart part { p with objSeed := v })
  else .ok (s.setPart part { p with seeds := FMap.set 0 p.seeds c.seq v })

/-- GSTAT: the statistics as they stood at the card's start. -/
def doGstat (s : State) (c : JobCard) (clear : Bool) : GResult :=
  match s.argRow c.core c.operand with
  | none => .error gOperand
  | some r =>
    if c.bits 63 48 ≠ 0 || c.bits 43 13 ≠ 0 then .error gOperand
    else
      let s := s.writeEngine c.core (.row r) 0 (c.arg.take 256)
      .ok (if clear then s.modSamp c (fun _ => {}) else s)

/-! ### Cards -/

def execGseedSeq (inst : Fin 2) (c : Card) (s : State) : Host.Outcome State Fault Refusal :=
  sendCard (if inst = 0 then .samp0 else .samp1) c (.gseedSeq inst c) s
def execGseedObj (inst : Fin 2) (c : Card) (s : State) : Host.Outcome State Fault Refusal :=
  sendCard (if inst = 0 then .samp0 else .samp1) c (.gseedObj inst c) s
def execGsoft (inst : Fin 2) (c : Card) (s : State) : Host.Outcome State Fault Refusal :=
  sendCard (if inst = 0 then .samp0 else .samp1) c (.gsoft inst c) s
def execGsoftTopk (inst : Fin 2) (c : Card) (s : State) : Host.Outcome State Fault Refusal :=
  sendCard (if inst = 0 then .samp0 else .samp1) c (.gsoftTopk inst c) s
def execGcdf (inst : Fin 2) (c : Card) (s : State) : Host.Outcome State Fault Refusal :=
  sendCard (if inst = 0 then .samp0 else .samp1) c (.gcdf inst c) s
def execGpick (inst : Fin 2) (c : Card) (s : State) : Host.Outcome State Fault Refusal :=
  sendCard (if inst = 0 then .samp0 else .samp1) c (.gpick inst c) s
def execGpickTopk (inst : Fin 2) (c : Card) (s : State) : Host.Outcome State Fault Refusal :=
  sendCard (if inst = 0 then .samp0 else .samp1) c (.gpickTopk inst c) s
def execGaccept (inst : Fin 2) (c : Card) (s : State) : Host.Outcome State Fault Refusal :=
  sendCard (if inst = 0 then .samp0 else .samp1) c (.gaccept inst c) s
def execGacceptGreedy (inst : Fin 2) (c : Card) (s : State) : Host.Outcome State Fault Refusal :=
  sendCard (if inst = 0 then .samp0 else .samp1) c (.gacceptGreedy inst c) s
def execGresid (inst : Fin 2) (c : Card) (s : State) : Host.Outcome State Fault Refusal :=
  sendCard (if inst = 0 then .samp0 else .samp1) c (.gresid inst c) s
def execGnext (inst : Fin 2) (c : Card) (s : State) : Host.Outcome State Fault Refusal :=
  sendCard (if inst = 0 then .samp0 else .samp1) c (.gnext inst c) s
def execGparamAssume (inst : Fin 2) (c : Card) (s : State) : Host.Outcome State Fault Refusal :=
  sendCard (if inst = 0 then .samp0 else .samp1) c (.gparamAssume inst c) s
def execGparamClear (inst : Fin 2) (c : Card) (s : State) : Host.Outcome State Fault Refusal :=
  sendCard (if inst = 0 then .samp0 else .samp1) c (.gparamClear inst c) s
def execGpub (inst : Fin 2) (c : Card) (s : State) : Host.Outcome State Fault Refusal :=
  sendCard (if inst = 0 then .samp0 else .samp1) c (.gpub inst c) s
def execGstat (inst : Fin 2) (c : Card) (s : State) : Host.Outcome State Fault Refusal :=
  sendCard (if inst = 0 then .samp0 else .samp1) c (.gstat inst c) s
def execGstatClr (inst : Fin 2) (c : Card) (s : State) : Host.Outcome State Fault Refusal :=
  sendCard (if inst = 0 then .samp0 else .samp1) c (.gstatClr inst c) s

/-- Whether a card names a sequence, which its partition must hold (12 R353). -/
def sampNamesSeq : Instr → Bool
  | .gseedSeq _ _ => true | .gpick _ _ => true | .gpickTopk _ _ => true | .gaccept _ _ => true | .gacceptGreedy _ _ => true
  | .gresid _ _ => true | .gparamAssume _ _ => true | .gpub _ _ => true | _ => false

/-- A card's step, or its code (12 R354); its signal comes `d` wall cycles after it. -/
def State.sampStep (s : State) (c : JobCard) (d : Nat) : GResult :=
  if sampNamesSeq c.op && !(s.part (s.cardPart c)).seqs.contains c.seq then .error gUnbound
  else
    match c.op with
    | .gseedSeq _ _ => doGseed s c false
    | .gseedObj _ _ => doGseed s c true
    | .gnext _ _ => doGnext s c d
    | .gparamAssume _ _ => doAssume s c
    | .gparamClear _ _ => doClearAssume s c
    | .gstat _ _ => doGstat s c false
    | .gstatClr _ _ => doGstat s c true
    | op =>
      if c.arg.isEmpty then .error gOperand
      else match op with
        | .gsoft _ _ => doGsoft s { c with arg := c.arg.take 256 }
        | .gsoftTopk _ _ => doGsoftTopk s { c with arg := c.arg.take 256 }
        | .gcdf _ _ => doGcdf s { c with arg := c.arg.take 256 }
        | .gpick _ _ => doGpick s { c with arg := c.arg.take 256 }
        | .gpickTopk _ _ => doGpickTopk s { c with arg := c.arg.take 256 }
        | .gaccept _ _ => doGaccept s c false
        | .gacceptGreedy _ _ => doGaccept s c true
        | .gresid _ _ => doGresid s { c with arg := c.arg.take 256 }
        | .gpub _ _ => doGpub s { c with arg := c.arg.take 256 }
        | _ => .ok s

/-- Bytes from an offset of a pointer in a card's argument row; nothing where it is out of range. -/
def State.gReach (s : State) (c : JobCard) (o off n : Nat) : List Area :=
  if 2 ^ 26 < n || n = 0 then []
  else match s.gArea c (leAt c.arg o 8) (ceilDiv (off + n) 256) with
    | some (.row r) => [⟨c.col, .row { r with addr := r.addr + off }, n⟩]
    | some (.dv x) => [⟨c.col, .dv (x + off), n⟩]
    | none => []

/-- The rows that an acceptance reads: the target's, and the draft's where a child is tried, of each position that it reaches (12 R363); of one
that fails, those up to the position at which it fails. -/
def State.acceptAreas (s : State) (c : JobCard) (greedy : Bool) : List Area :=
  let d := c.arg.take 256; let tk := c.arg.drop 256
  let v := leAt d 24 4; let nodes := leAt d 32 1
  let parents := (List.range nodes).map (fun j => leAt d (64 + j) 1)
  let tokens := (List.range nodes).map (fun j => leAt tk (4 * j) 4)
  let run (fuel : Nat) : Option (List Nat) :=
    match s.acceptLoop c greedy (drawStream purAccept c.seq (s.seedspace c)) (leAt d 28 4) (leAt d 0 8) (leAt d 8 8) v parents tokens
      fuel {} with
    | .ok r => some (0 :: r.path.map (· + 1))
    | .error _ => none
  if v = 0 || 262144 < v || nodes = 0 || 64 < nodes || !treeOk parents then []
  else
    (((List.range 18).reverse.findSome? run).getD [0]).flatMap (fun p =>
      let at_ (o : Nat) : List Area := s.gReach c o (p * ceilDiv v 64 * 256) (4 * v)
      at_ 0 ++ (if greedy || !parents.contains (if p = 0 then 0xFF else p - 1) then [] else at_ 8))

/-- Whether a GPICK over candidates draws the tail, and so reads its logits (12 R360). -/
def State.tailDrawn (s : State) (c : JobCard) : Bool :=
  let d := c.arg; let n := leAt d 32 4
  match if n < 2 || 65 < n then .error gOperand else s.gFloats c (leAt d 0 8) 0 n with
  | .ok f => drawFrom f (uniform (c.word (drawStream purPick c.seq (s.seedspace c)) (drawFieldsCtr d 0))) = some (n - 1)
  | .error _ => false

/-- What the refusals of an acceptance read of the pages of its sequence, when a generation may be squashed (11 R323, R326). -/
def State.refusalAreas (s : State) (c : JobCard) : List Area :=
  if (s.seq c.seq).isOpen && 1 < (s.seq c.seq).live.length then s.seqAreas c.seq else []

/-- The rows that a card's step reads beside its argument rows (12 R353). -/
def State.sampAreas (s : State) (c : JobCard) : List Area :=
  let d := c.arg
  let at_ (o n : Nat) : List Area := s.gReach c o 0 n
  let n := leAt d 32 4
  match c.op with
  | .gsoft _ _ => at_ 0 (256 * ceilDiv n 64 * leAt d 48 2)
  | .gcdf _ _ => at_ 0 (256 * ceilDiv n 64 * leAt d 48 2)
  | .gsoftTopk _ _ => at_ 0 512 ++ s.gReach c 16 (8 * leAt d 40 1) 8
  | .gpick _ _ => at_ 0 (4 * n)
  | .gpickTopk _ _ => at_ 0 (4 * n) ++ at_ 16 (4 * (n - 1)) ++ (if s.tailDrawn c then at_ 24 (4 * leAt d 48 4) else [])
  | .gaccept _ _ => s.acceptAreas c false ++ s.refusalAreas c
  | .gacceptGreedy _ _ => s.acceptAreas c true ++ s.refusalAreas c
  | .gresid _ _ => at_ 0 (4 * n) ++ at_ 8 (4 * n)
  | .gpub _ _ => at_ 0 256 ++ at_ 8 256
  | _ => []

/-- The rows that a card's step writes. -/
def State.sampDests (s : State) (c : JobCard) : List Area :=
  let d := c.arg
  let all : List Area := s.gReach c 8 0 (256 * ceilDiv (leAt d 32 4) 64 * leAt d 48 2)
  match c.op with
  | .gsoft _ _ => all
  | .gcdf _ _ => all
  | .gsoftTopk _ _ => s.gReach c 8 0 768
  | .gpick _ _ => s.gReach c 8 0 256
  | .gpickTopk _ _ => s.gReach c 8 0 256
  | .gresid _ _ => s.gReach c 16 0 256
  | .gpub _ _ =>
    (s.gReach c 0 0 256).flatMap (fun a => match s.fetch a.col a.place 0 256 with
      | .ok h => (gpubSpots (leAt h 0 8) (leAt h 8 4) ((match s.gRead c (leAt d 8 8) 0 1 with | .ok k => leNat k | .error _ => 0) + 1)).flatMap
          (fun o => s.gReach c 0 o 4)
      | .error _ => []) ++ s.gReach c 0 0 8
  | _ => []

/-- What a sampling card reads at its start: its argument rows, its key, and, for GSTAT, the statistics (12 R353, R372). -/
def State.sampStart (s : State) (c : JobCard) : JobCard :=
  let p := s.part (s.cardPart c)
  let rows := (s.argRow c.core c.operand).map (fun r =>
    (s.beginWork c.workKey c.claimed).portBytes r.addr (if (s.rowArea c.core (c.bits 47 44 * 2 ^ 60 + c.bits 12 0) 2).isSome then 512 else 256))
  let stats : Bool := match c.op with | .gstat _ _ => true | .gstatClr _ _ => true | _ => false
  { c with arg := if stats then (s.sampOf c).row else rows.getD [], key := FMap.get 0 p.seeds c.seq }

/-- SAMPLING_CARD_COMPLETION (12 R355, R356): the card takes effect as one step, or records its code; it signals in either
case. -/
def execSamplingCardCompletion (s : State) : Host.Outcome State Fault Refusal :=
  let q := s.ev.q
  s.withCard State.sampAreas (fun s c =>
    let d := s.reportDelay
    let r : State × Nat := match d.2.sampStep c d.1 with
      | .ok s1 => (s1, 0)
      | .error e => (match c.op with
        | .gaccept _ _ => d.2.acceptFailed c e
        | .gacceptGreedy _ _ => d.2.acceptFailed c e
        | _ => d.2, e)
    let told := if r.2 = gRange + 1 then r.1.tellAbsent c.inst (s.sampAreas c ++ s.sampDests c) else r.1
    let s2 := told.modSamp c (fun x => { x with
      completed := FMap.modify 0 x.completed q.queue (fun n => (n + 1) % 2 ^ 32),
      codes := if r.2 = 0 then x.codes else FMap.set 0 x.codes q.queue r.2 })
    .next (s2.finishCard q c d.1))

end Sys2Proof.Machine
end

