-- ==== Sys2Proof/Machine/TimeIngest.lean ====
section
/-! DEFINITION. Time, ticks and ingest (spec 13): device time, ticks and their pulses, the steering of frames, streams and
their decisions, deadlines, and the cards of the time and ingest engine. -/

namespace Sys2Proof.Machine

/-! ### Device time (R375, R376) -/

/-- Device time in units of 2^-32 ns. -/
def State.dtTotal (s : State) : Nat := (s.dtSec * 10 ^ 9 + s.dtNs) * 2 ^ 32 + s.dtFrac

/-- The device nanosecond count DN. -/
def State.dn (s : State) : Nat := (s.dtSec * 10 ^ 9 + s.dtNs) % 2 ^ 64

/-- DN at the start of the wall cycle `k` cycles back, as device time and INC were then (R378). -/
def State.dnBack (s : State) (k : Nat) : Nat :=
  let w := s.wall - k
  let p := ((s.dtPast.takeWhile (fun p => w < p.1)).getLast?).getD (s.wall, s.dtTotal, s.inc)
  (p.2.1 + 2 ^ 128 - (p.1 - w) * p.2.2) / 2 ^ 32 % 2 ^ 64

/-- Device time or INC is about to change: what they were is kept for as long as a frame may be on the wire (R378). -/
def State.keepTime (s : State) : State :=
  { s with dtPast := (s.wall, s.dtTotal, s.inc) :: s.dtPast.takeWhile (fun p => s.wall < p.1 + 4096) }

/-- Set device time from a count of nanoseconds. -/
def State.setDt (s : State) (ns : Nat) : State :=
  { s with dtSec := ns / 10 ^ 9 % 2 ^ 48, dtNs := ns % 10 ^ 9 }

/-- Device time one core cycle on. -/
def State.tickDt (s : State) : State :=
  let f := s.dtFrac + s.inc
  ({ s with dtFrac := f % 2 ^ 32 }).setDt (s.dtSec * 10 ^ 9 + s.dtNs + f / 2 ^ 32)

/-- The signed distance from one instant to another (R375). -/
def dnDiff (a b : Nat) : Int := signedOf 64 ((a + 2 ^ 64 - b % 2 ^ 64) % 2 ^ 64)

/-- Whether an instant is at or past another. -/
def dnLe (a b : Nat) : Bool := decide (0 ≤ dnDiff b a)

/-! ### Who holds what (R374) -/

/-- The colonnades a partition places on: its own that are not lent, and those lent to it (15 R433). -/
def State.colsOf (s : State) (p : Nat) : List Nat :=
  (List.range Config.nCols).filter (fun c =>
    match (s.col c).lentTo with
    | some b => b = p
    | none => (s.part p).cols.contains c)

/-- The partition that holds a tick. -/
def State.tickPart (s : State) (n : Nat) : Option Nat := (s.parts.find? (fun p => p.2.ticks.contains n)).map (·.1)

def State.tick (s : State) (n : Nat) : Tick := FMap.get {} s.ticks n
def State.modTick (s : State) (n : Nat) (f : Tick → Tick) : State := { s with ticks := FMap.modify {} s.ticks n f }
def State.stream (s : State) (n : Nat) : Stream := FMap.get {} s.streams n
def State.modStream (s : State) (n : Nat) (f : Stream → Stream) : State := { s with streams := FMap.modify {} s.streams n f }
def State.watch (s : State) (n : Nat) : Watch := FMap.get {} s.watches n
def State.modWatch (s : State) (n : Nat) (f : Watch → Watch) : State := { s with watches := FMap.modify {} s.watches n f }
def State.ethPort (s : State) (n : Nat) : EthPort := FMap.get {} s.ports n
def State.modPort (s : State) (n : Nat) (f : EthPort → EthPort) : State := { s with ports := FMap.modify {} s.ports n f }

/-! ### Ticks and watches in time (R379 to R381, R392) -/

/-- The first instant of a grid at or after a DN value. -/
def firstInstant (phase period dn : Nat) : Nat :=
  (dn + (dnDiff phase dn % (period : Int)).toNat) % 2 ^ 64

/-- The group of a logical colonnade of an instance that runs or is pre-empted. -/
def State.instGroup (s : State) (i logical : Nat) : Option Nat :=
  if (s.inst i).status.isSome then none
  else (s.physOf i logical).bind (fun c => (s.inst i).groups.find? (fun g => (s.group g).cols.contains c))

/-- Whether every core of a group has arrived at a FRAG or has halted. -/
def State.atEnd (s : State) (i g : Nat) : Bool :=
  (s.inst i).placed && (s.group g).coreList.all (fun k => (s.core k).mode = .atFrag || (s.core k).mode = .halted)

/-- An open watch closes as met (R392). -/
def State.watchMet (s : State) (n : Nat) : State :=
  let w := s.watch n
  let met := match s.instGroup w.inst w.col with
    | some g => s.atEnd w.inst g
    | none => (s.inst w.inst).status = some 0
  if w.isOpen && met then s.modWatch n (fun w => { w with isOpen := false, met := n64 w.met 1 }) else s

/-- An open watch closes as missed: IPEND.DEADLINE is set in every core of the group (R392; 05 R134). -/
def State.watchMissed (s : State) (n : Nat) : State :=
  let w := s.watch n
  if !w.isOpen then s
  else
    let s := (s.modWatch n (fun w => { w with isOpen := false, missed := n64 w.missed 1, lastMissed := w.deadline })).tell
      (.missed n w.deadline)
    match s.instGroup w.inst w.col with
    | some g => if (s.inst w.inst).placed then (s.group g).coreList.foldl (fun s k => s.raiseIrq k 2) s else s
    | none => s

/-- A watch of a tick at one of its instants: still open, it closes as missed; it opens when its group's current fragment is the
one it names (R392). -/
def State.watchInstant (s : State) (n t : Nat) : State :=
  let s := s.watchMissed n
  let w := s.watch n
  match s.instGroup w.inst w.col with
  | some g =>
    if w.armed && (s.group g).started && (w.entry = 0x100 || w.entry = (s.group g).lastEntry) then
      s.modWatch n (fun w => { w with isOpen := true, opened := n64 w.opened 1, deadline := (t + w.offset) % 2 ^ 64 })
    else s
  | none => s

/-- The watches of a tick at one of its instants (R392). -/
def State.watchesAt (s : State) (n t : Nat) : State :=
  (s.watches.filter (fun p => p.2.armed && p.2.tick = n)).foldl (fun s p => s.watchInstant p.1 t) s

/-- The next instant of an armed tick, when it has come: the events it causes, the decisions of its streams in order of their
numbers, and the instant after it. Before `from_` the tick does not fire, but its watches open and decisions fall due (R379, R389, R392). -/
def State.tickDue (s : State) (n : Nat) : List Event × State :=
  let k := s.tick n
  if k.armed && dnLe k.next s.dn then
    let t := k.next
    let fires := k.from_ ≤ s.wall
    let ds := (List.range 64).filter (fun i =>
      let x := s.stream i
      x.bound && x.tick = n && decide (((x.next * x.period : Nat) : Int) ≤ dnDiff t x.first))
    ((if fires then [⟨.tick, { index := n, addr := t }⟩] else []) ++ ds.map (fun i => ⟨.decision, { index := i, addr := t }⟩),
     (if fires then s else s.watchesAt n t).modTick n (fun k => { k with next := (t + k.period) % 2 ^ 64, last := if fires then some t else k.last }))
  else ([], s)

/-- The start of a wall cycle for the time unit: watches met, deadlines, and the instants that have come, before any other work
of the cycle (R376, R388, R389, R392). -/
def State.timeCycle (s : State) : State :=
  let s := (s.watches.map (·.1)).foldl State.watchMet s
  let late := (s.watches.filter (fun p => p.2.isOpen && dnLe p.2.deadline s.dn)).map (fun p =>
    (⟨.watchDeadline, { index := p.1 }⟩ : Event))
  let r := (s.ticks.map (·.1)).foldl (fun (a : List Event × State) n =>
    let d := a.2.tickDue n
    (a.1 ++ d.1, d.2)) (late, s)
  { r.2 with agenda := r.1.map (fun e => ⟨r.2.wall, 0, 0, 0, .event e⟩) ++ r.2.agenda }

/-- TICK (R379, R380, R392): the pulse is counted 60 cycles after the instant-cycle in every colonnade of the partition, and the
tick's watches open. -/
def execTick (s : State) : Host.Outcome State Fault Refusal :=
  let n := s.ev.index
  let cols := match s.tickPart n with | some p => s.colsOf p | none => []
  let s1 := cols.foldl (fun s c => s.atWall (s.wall + 60) (.pulse c (72 + n) 1)) s
  .next (s1.watchesAt n s.ev.addr)

/-- WATCH_DEADLINE (R392). -/
def execWatchDeadline (s : State) : Host.Outcome State Fault Refusal := .next (s.watchMissed s.ev.index)

/-- Step device time by a signed number of nanoseconds: forward, the instants passed over fire from this cycle on, one each
cycle; backward, a tick that has fired goes on from its last instant (R381). -/
def State.stepTime (s : State) (forward : Bool) (ns : Nat) : State :=
  let now := s.dtSec * 10 ^ 9 + s.dtNs
  let s := s.keepTime
  if forward then (s.setDt (now + ns)).timeCycle
  else
    let s := s.setDt ((now + 2 ^ 48 * 10 ^ 9 - ns % (2 ^ 48 * 10 ^ 9)) % (2 ^ 48 * 10 ^ 9))
    { s with ticks := s.ticks.map (fun p =>
        (p.1, if p.2.armed && p.2.last.isNone then { p.2 with next := firstInstant p.2.phase p.2.period s.dn } else p.2)) }

/-- TIME_STEP (R381): forward by `value` ns when the flag is set, else backward. -/
def execTimeStep (s : State) : Host.Outcome State Fault Refusal := .next (s.stepTime s.ev.flag s.ev.value)

/-- MASTER_LOST (R376): the clock state goes from LOCKED to HOLDOVER, INC held. -/
def execMasterLost (s : State) : Host.Outcome State Fault Refusal :=
  .next (if s.clock = 1 then { s with clock := 2 } else s)

/-! ### Parsing a frame (R383, R384) -/

/-- What the rules look at in a frame: each header that the frame holds whole. Offsets count from the destination address; the
frame's bytes leave out its check sequence. -/
structure Parsed where
  data : List Byte
  tci : Option Nat := none
  etype : Option Nat := none
  eth : Nat := 0
  mtype : Option Nat := none
  pcid : Option Nat := none
  seqid : Nat := 0
  oran : Option (List Byte) := none
  udp : Option Nat := none
  udpEnd : Nat := 0
deriving DecidableEq, Repr

/-- A big-endian field of a frame; none where the frame is too short. -/
def beAt (d : List Byte) (i n : Nat) : Option Nat :=
  if i + n ≤ d.length then some (leNat ((d.drop i).take n).reverse) else none

/-- Whether a tag protocol stands at an offset. -/
def tagAt (d : List Byte) (i : Nat) : Bool :=
  i + 4 ≤ d.length && (beAt d i 2 = some 0x8100 || beAt d i 2 = some 0x88A8)

/-- The UDP header's offset in a packet at `o` (R384). -/
def udpAt (d : List Byte) (etype o : Nat) : Option Nat :=
  if etype = 0x0800 && o + 20 ≤ d.length then
    let b := leAt d o 1
    if b / 16 = 4 && 5 ≤ b % 16 && leAt d (o + 9) 1 = 17 then some (o + 4 * (b % 16)) else none
  else if etype = 0x86DD && o + 40 ≤ d.length && leAt d (o + 6) 1 = 17 then some (o + 40)
  else none

/-- Read a frame's headers. -/
def parseFrame (d : List Byte) : Parsed :=
  let tags := if tagAt d 12 then (if tagAt d 16 then 2 else 1) else 0
  let o := 14 + 4 * tags
  match beAt d (o - 2) 2 with
  | none => { data := d, tci := if tags = 0 then none else beAt d 14 2 }
  | some et =>
    let ecpri := et = 0xAEFE && o + 4 ≤ d.length && leAt d o 1 / 16 = 1
    let mt := leAt d (o + 1) 1
    let iq := ecpri && (mt = 0 || mt = 2)
    let u := (udpAt d et o).bind (fun u => if u + 8 ≤ d.length then some u else none)
    { data := d, tci := if tags = 0 then none else beAt d 14 2, etype := some et, eth := o,
      mtype := if ecpri then some mt else none,
      pcid := if iq && o + 8 ≤ d.length then beAt d (o + 4) 2 else none,
      seqid := if iq && o + 8 ≤ d.length then (beAt d (o + 6) 2).getD 0 else 0,
      oran := if iq && o + 12 ≤ d.length then some ((d.drop (o + 8)).take 4) else none,
      udp := u.bind (fun u => beAt d (u + 2) 2),
      udpEnd := match u with | some u => u + 8 | none => 0 }

/-- Whether a frame's payload is longer than a port takes (16 R449). -/
def Parsed.tooLong (p : Parsed) : Bool := p.eth + 9216 < p.data.length

/-- Where a LAYER starts; none where the frame does not hold the header. -/
def Parsed.layer (p : Parsed) (l : Nat) : Option Nat :=
  match l with
  | 0 => p.etype.map (fun _ => p.eth)
  | 1 => p.mtype.map (fun _ => p.eth + 4)
  | 2 => p.oran.map (fun _ => p.eth + 12)
  | _ => p.udp.map (fun _ => p.udpEnd)

/-- Whether a rule's row matches a frame of a port (R383, R384). -/
def ruleMatches (r : Row) (port : Nat) (p : Parsed) : Bool :=
  let key (i : Nat) : Bool := bitOf (leAt r 1 1) i
  bitOf (leAt r 0 1) port &&
  (!key 0 || (6 ≤ p.data.length && p.data.take 6 = (r.drop 8).take 6)) &&
  (!key 1 || p.tci.map (· % 4096) = some (leAt r 14 2)) &&
  (!key 2 || p.etype = some (leAt r 16 2)) &&
  (!key 3 || p.mtype = some (leAt r 18 1)) &&
  (!key 4 || (match p.pcid with | some x => (x ^^^ leAt r 20 2) &&& leAt r 22 2 = 0 | none => false)) &&
  (!key 5 || p.oran.map (fun d => leAt d 0 1 / 128) = some (leAt r 19 1)) &&
  (!key 6 || p.udp = some (leAt r 24 2)) &&
  (p.layer (leAt r 3 1)).isSome

/-- Whether a frame is the precision time protocol's (R377). -/
def Parsed.isClock (p : Parsed) : Bool := p.etype = some 0x88F7 || p.udp = some 319 || p.udp = some 320

/-- The first installed rule that matches (R382). -/
def State.firstRule (s : State) (port : Nat) (p : Parsed) : Option (Nat × Rule) :=
  s.rules.find? (fun e => e.2.installed && ruleMatches e.2.row port p)

/-- Change a rule's counters. -/
def State.modRule (s : State) (n : Nat) (f : Rule → Rule) : State :=
  { s with rules := FMap.modify {} s.rules n f }

/-! ### Entries of a ring from an untimed producer (R385, R386; 06 R193) -/

/-- Reserve room for `rows` in a ring: they go through the open port from a wall cycle on, and are published at `pub` or, where the port
delays them, once they are written; a peer's delivery is then acknowledged on its port (`reply`, one more). None where the ring lacks
room. -/
def State.produce (s : State) (col g : Nat) (rows : List Row) (at_ pub reply : Nat) : Option State :=
  let r := (s.col col).ring g
  let n := rows.length
  if r.e < n || r.room < n then none
  else some ((s.modRing col g (fun r => { r with res := mod20 (r.res + n) })).atWall at_ (.place col g r.res rows 0 pub reply))

/-- Write reserved entries of a ring from a count on. -/
def State.writeEntries (s : State) (col g start : Nat) (rows : List Row) : State :=
  let r := (s.col col).ring g
  (List.range rows.length).foldl (fun (s : State) i => s.openWrite (r.entry col (mod20 (start + i))) (rows[i]?.getD [])) s

/-- The free entries of a ring in a saved colonnade record (15 R430; 06 R190). -/
def savedRoom (d : List Byte) (g : Nat) : Nat :=
  let o := 0x40 + 24 * g
  bitsOf (leAt d (o + 8) 8) 36 24 - mod20 (leAt d (o + 16) 8 + 2 ^ 20 - leAt d o 8 / 2 ^ 40 % 2 ^ 20)

/-- Deliver one entry to a ring of an instance: into the ring, or, while the instance is pre-empted, held for its restore
(R389, R398); none where there is no room. -/
def State.deliverEntry (s : State) (i col g : Nat) (row : Row) : Option State :=
  match s.placeOf i col with
  | some c => s.produce c g [row] (s.wall + 1) (s.wall + 60) 0
  | none =>
    if (s.inst i).status.isSome then none
    else
      let waiting := s.deliveries.countP (fun d => d.inst = i && d.col = col && d.g = g)
      match (s.inst i).saved.find? (fun p => p.1 = col * 16) with
      | some p => if waiting < savedRoom p.2 g then some { s with deliveries := s.deliveries ++ [⟨i, col, g, row⟩] } else none
      | none => none

/-- Entries held for an instance enter their rings when it is restored. -/
def State.deliverHeld (s : State) (i : Nat) : State :=
  let mine := s.deliveries.filter (fun d => d.inst = i)
  mine.foldl (fun s d =>
    match s.placeOf i d.col with
    | some c => (s.produce c d.g [d.row] (s.wall + 1) (s.wall + 1) 0).getD s
    | none => s) { s with deliveries := s.deliveries.filter (fun d => d.inst ≠ i) }

/-! ### Streams (R387 to R391) -/

/-- Most tokens of one interval (R388). -/
def Stream.maxTokens (x : Stream) : Nat := 192 / (4 * x.tw)

/-- A frame's tokens join what is staged for an interval; the excess is counted (R388). -/
def Stream.stage (x : Stream) (j : Nat) (toks : List (List Byte)) (last : Bool) (ts : Nat) : Stream :=
  let old : Staged := (x.staged.find? (fun e => e.interval = j)).getD { interval := j }
  let all := old.tokens ++ toks
  let new : Staged := { old with
    tokens := all.take x.maxTokens, complete := old.complete || last, arr := if last && !old.complete then ts else old.arr }
  { x with staged := x.staged.filter (fun e => e.interval ≠ j) ++ [new], overTok := n64 x.overTok (all.length - x.maxTokens) }

/-- A stream frame's payload (R387, R388): none where its header or its length is wrong. -/
def Stream.take (x : Stream) (pay : List Byte) (ts : Nat) : Option Stream :=
  let nt := leAt pay 8 2
  let fl := leAt pay 10 1
  let w := 4 * x.tw
  if !x.bound || pay.length < 16 || 2 ≤ fl || leAt pay 11 5 ≠ 0 || pay.length < 16 + w * nt then none
  else
    let d := dnDiff (leAt pay 0 8) ((x.first + 2 ^ 65 - x.grace - x.period) % 2 ^ 64)
    let j := (d / (x.period : Int)).toNat
    if d < 0 || j < x.next then some { x with latePkt := n64 x.latePkt 1 }
    else if x.next + 3 < j then some { x with earlyPkt := n64 x.earlyPkt 1 }
    else some (x.stage j ((List.range nt).map (fun i => (pay.drop (16 + w * i)).take w)) (fl = 1) ts)

/-- Send a KSLIDE or a KPIN of a stream to the Stacks (R391). -/
def State.sendSlide (s : State) (n : Nat) (pin : Option Nat) : State :=
  let x := s.stream n
  if x.seq = 0xFF then s
  else
    let r := s.freshSlack
    let at_ := max x.slideAt (s.wall + 1 + r.1)
    (r.2.modStream n (fun x => { x with slideAt := at_ })).atWall at_ (.slide n x.seq x.keep pin)

/-- A stream's step of a sequence: a failing one counts in SLIDEFAIL and has no other effect (R391). -/
def doSlide (s : State) (n q keep : Nat) (pin : Option Nat) : State :=
  let ok : Bool := (s.seq q).isOpen && (s.part (s.inst (s.stream n).inst).part).seqs.contains q
  let r : KResult :=
    if !ok then .error kUnbound
    else match pin with
      | some p => .ok (s.modSeq q (fun x => { x with pin := p }))
      | none => s.slide q keep
  match r with
  | .ok s => s
  | .error _ => s.modStream n (fun x => { x with slideFail := n64 x.slideFail 1 })

/-- A delivery entry (R390). -/
def deliveryRow (n tw t k status arr : Nat) (toks : List (List Byte)) : Row :=
  padTo 192 (toks.flatMap (padTo (4 * tw))) ++
  padTo 64 (leBytes 8 t ++ leBytes 4 k ++ leBytes 1 status ++ leBytes 1 toks.length ++ leBytes 2 n ++ leBytes 8 arr)

/-- The entry of a decision: its status, tokens and LASTARR; none under HOLD (R389). -/
def Stream.entryOf (x : Stream) (k : Nat) : Option (Nat × List (List Byte) × Nat) :=
  match x.staged.find? (fun e => e.interval = k && e.complete) with
  | some e => some (1, e.tokens, e.arr)
  | none =>
    let pads := (3, List.replicate x.npad x.pad, 0)
    match x.policy with
    | 0 => none
    | 1 => some (match x.lastEntry with | some l => (2, l, 0) | none => pads)
    | _ => some pads

/-- A stream after a decision at instant t, without its ring's part. -/
def Stream.decided (x : Stream) (t k : Nat) : Stream :=
  let staged := ((x.staged.find? (fun e => e.interval = k)).map (·.tokens.length)).getD 0
  let here := x.staged.any (fun e => e.interval = k && e.complete)
  let e := x.entryOf k
  { x with
    next := k + 1, staged := x.staged.filter (fun e => k < e.interval),
    late := if here then x.late else n64 x.late 1, dropTok := if here then x.dropTok else n64 x.dropTok staged,
    intervals := n64 x.intervals 1, arrived := if here then n64 x.arrived 1 else x.arrived,
    lastEntry := match e with | some p => some p.2.1 | none => x.lastEntry,
    lastDecision := t, lastInterval := k % 2 ^ 32, lastStatus := match e with | some p => p.1 | none => 0 }

/-- DECISION (R389): a stream's interval is decided at its instant. -/
def execDecision (s : State) : Host.Outcome State Fault Refusal :=
  let n := s.ev.index; let t := s.ev.addr
  let x := s.stream n
  let k := (dnDiff t x.first / (x.period : Int)).toNat
  if !x.bound || x.period = 0 || dnDiff t x.first < 0 || k < x.next then .next s
  else
    let s1 := (s.sendSlide n none).modStream n (fun x => x.decided t k)
    match x.entryOf k with
    | none => .next s1
    | some e =>
      match s1.deliverEntry x.inst x.col x.g (deliveryRow n x.tw t (k % 2 ^ 32) e.1 e.2.2 e.2.1) with
      | some s2 => .next s2
      | none => .next (s1.modStream n (fun x => { x with ringFull := n64 x.ringFull 1 }))

/-! ### Frames (R378, R382, R385; 16 R449) -/

/-- Cycles that a frame takes on the wire, its check sequence included, at 100 Gb/s (R378). -/
def wireCycles (len : Nat) : Nat := (len + 4) * 176 / 1000

/-- The rows of a placed frame (R385). -/
def frameRows (p : Parsed) (rule port ts : Nat) (pay : List Byte) (trunc : Bool) : List Row :=
  let rec_ := padTo 32 (leBytes 8 ts ++ leBytes 2 pay.length ++ leBytes 2 (p.data.length + 4) ++ leBytes 1 rule ++
    leBytes 1 (port % 4 + (if trunc then 128 else 0)) ++ leBytes 2 (p.tci.getD 0) ++ leBytes 2 (p.pcid.getD 0) ++
    leBytes 2 p.seqid ++ p.oran.getD [0, 0, 0, 0])
  let body := rec_ ++ pay
  (List.range (ceilDiv body.length 256)).map (fun i => padTo 256 (body.drop (256 * i)))

/-- A frame passed to the front end (R382). -/
def State.frameToFront (s : State) (port : Nat) (d : List Byte) : State :=
  s.modPort port (fun p => { p with toFront := n64 p.toFront 1, received := p.received ++ [d] })

/-- A frame that a rule takes. -/
def State.steer (s : State) (n : Nat) (r : Rule) (port : Nat) (p : Parsed) : State :=
  let s := s.modRule n (fun r => { r with matched := n64 r.matched 1 })
  let act := leAt r.row 2 1
  if act = 2 then s
  else if act = 3 then s.frameToFront port p.data
  else
    let all := p.data.drop ((p.layer (leAt r.row 3 1)).getD 0 + leAt r.row 26 1)
    let pay := all.take (leAt r.row 6 2)
    let trunc := decide (pay.length < all.length)
    let ts := s.dnBack (wireCycles p.data.length)
    let s := if trunc then s.modRule n (fun r => { r with trunc := n64 r.trunc 1 }) else s
    let g := leAt r.row 5 1
    if act = 1 then
      match (s.stream g).take pay ts with
      | some x => s.modStream g (fun _ => x)
      | none => s.modRule n (fun r => { r with noStream := n64 r.noStream 1 })
    else
      match (if (s.inst r.inst).status.isSome then none else s.placeOf r.inst (leAt r.row 4 1)) with
      | none => s.modRule n (fun r => { r with noRing := n64 r.noRing 1 })
      | some col =>
        let w := s.freshSlack
        let at_ := s.wall + 1 + w.1
        match w.2.produce col g (frameRows p n port ts pay trunc) at_ at_ 0 with
        | some s1 => s1
        | none => w.2.modRule n (fun r => { r with ringFull := n64 r.ringFull 1 })

/-- A received frame: counted, dropped on a bad check sequence, consumed by the clock where the port is in the protocol's
configuration, else steered (R382, R449). -/
def State.receive (s : State) (port : Nat) (d : List Byte) (bad : Bool) : State :=
  let e := s.ethPort port
  if (parseFrame d).tooLong then s
  else
  let s := s.modPort port (fun p => { p with
    frames := n64 p.frames 1, badFcs := if bad then n64 p.badFcs 1 else p.badFcs })
  let p := parseFrame d
  if bad then s
  else if e.ptp && p.isClock then
    let o := if p.etype = some 0x88F7 then p.eth else p.udpEnd
    let sync := o < d.length && leAt d o 1 % 16 = 0
    s.modPort port (fun q => { q with
      clock := n64 q.clock 1, lastSync := if sync then s.dnBack (wireCycles d.length) else q.lastSync })
  else if e.part.isNone then s
  else
    match s.firstRule port p with
    | some r => s.steer r.1 r.2 port p
    | none => s.frameToFront port d

/-- FRAME (R382): the frame's bytes from its destination address on, without its check sequence; the flag says that the check
sequence failed. -/
def execFrame (s : State) : Host.Outcome State Fault Refusal := .next (s.receive s.ev.port s.ev.bytes s.ev.flag)

/-- Send a frame on a port: an event message of the precision time protocol is timestamped (R378). -/
def State.transmit (s : State) (port : Nat) (d : List Byte) : State :=
  let p := parseFrame d
  let o := if p.etype = some 0x88F7 then p.eth else p.udpEnd
  let event := p.isClock && o < d.length && leAt d o 1 % 16 < 4
  s.modPort port (fun q => { q with sent := q.sent ++ [d], sentAt := if event then s.dn else q.sentAt })

/-- CLOCK_FRAME (R376, R377, R378, R396): a frame of the precision time protocol, with what the protocol makes of it: INC, held to 500 parts
in a million of its nominal value, and left as it is in HOLDOVER, the lock, the port's state, its mean path delay and its offset from the master,
and the frames that it sends. -/
def execClockFrame (s : State) : Host.Outcome State Fault Refusal :=
  let port := s.ev.port
  let used := (s.ethPort port).ptp && (parseFrame s.ev.bytes).isClock && !(parseFrame s.ev.bytes).tooLong && !s.ev.flag
  let s1 := s.receive port s.ev.bytes s.ev.flag
  if !used then .next s1
  else
    let band := Config.nominalInc / 2000
    let clock := match s.ev.lock with | some true => 1 | some false => if s.clock = 1 then 2 else s.clock | none => s.clock
    let inc := match s.ev.opt with
      | some x => if clock = 2 then s.inc else max (Config.nominalInc - band) (min (Config.nominalInc + band) x)
      | none => s.inc
    let s2 := s.ev.blocks.foldl (fun s d => s.transmit port d) (if inc = s.inc then s1 else s1.keepTime)
    .next (({ s2 with inc := inc, clock := clock }).modPort port (fun p => { p with
      portState := s.ev.index, meanPathDelay := s.ev.value, offset := s.ev.addr }))

/-! ### Cards (R393 to R398) -/

def wOperand : Nat := 1
def wUngranted : Nat := 2
def wBusy : Nat := 3
def wUnbound : Nat := 4

/-- What a card's step gives: the state after it, or its code. -/
abbrev WResult := Except Nat State

/-- A step's checks, lowest code first: the first that fails. -/
def wChecks (l : List (Bool × Nat)) (k : WResult) : WResult :=
  match l.find? (·.1) with
  | some p => .error p.2
  | none => k

/-- INDEX, KIND and the bits of an operand that an instruction names. -/
def JobCard.index (c : JobCard) : Nat := bitsOf c.operand.toNat 55 48
def JobCard.kind (c : JobCard) : Nat := bitsOf c.operand.toNat 15 13
def JobCard.namesOnly (c : JobCard) (index row kind : Bool) : Bool :=
  let v := c.operand.toNat
  bitsOf v 63 56 = 0 && (index || bitsOf v 55 48 = 0) && (row || (bitsOf v 47 44 = 0 && bitsOf v 12 0 = 0)) &&
    bitsOf v 43 16 = 0 && (kind || bitsOf v 15 13 = 0)

/-- The partition of a card's instance. -/
def State.timePart (s : State) (c : JobCard) : Partition := s.part (s.inst c.inst).part

/-- Write a card's row and go on. -/
def State.putRow (s : State) (c : JobCard) (d : Row) : WResult :=
  match s.argRow c.core c.operand with
  | none => .error wOperand
  | some r => .ok (s.openWrite r (padTo 256 d))

/-- WTIME (R396): the clock row, sampled at the completion. -/
def doWtime (s : State) (c : JobCard) : WResult :=
  let g := match s.instGroup c.inst c.logical with | some g => s.group g | none => s.groupOf c.core
  wChecks [(!c.namesOnly false true false, wOperand)]
    (s.putRow c (leBytes 8 s.dn ++ padTo 8 (leBytes 6 s.dtSec) ++ leBytes 4 s.dtNs ++ padTo 4 (leBytes 1 s.clock) ++
      leBytes 8 g.sched ++ padTo 8 (leBytes 1 (if g.phase = .run then 0 else 1)) ++ leBytes 8 s.inc))

/-- WTIME.port (R396). -/
def doWtimePort (s : State) (c : JobCard) : WResult :=
  let p := s.ethPort c.index
  wChecks [(!c.namesOnly true true false || 4 ≤ c.index, wOperand)]
    (s.putRow c (padTo 8 (leBytes 1 p.portState) ++ leBytes 8 p.meanPathDelay ++ leBytes 8 p.offset ++ leBytes 8 p.lastSync))

/-- Whether a tick is bound to a stream. -/
def State.tickBound (s : State) (n : Nat) : Bool := s.streams.any (fun p => p.2.bound && p.2.tick = n)

/-- WTICK (R379, R394): the row's arming replaces any earlier one; it fires from 2 µs on. -/
def doWtick (s : State) (c : JobCard) : WResult :=
  let n := c.index; let d := c.arg
  let period := leAt d 0 8; let phase := leAt d 8 8
  wChecks [(!c.namesOnly true true false || 16 ≤ n || d.isEmpty || period < 10000 || 2 ^ 40 < period || !allZero (d.drop 16),
      wOperand),
    (!(s.timePart c).ticks.contains n, wUngranted), (s.tickBound n, wBusy)]
    (.ok (s.modTick n (fun _ => { armed := true, period := period, phase := phase, from_ := s.wall + 4400,
                                  next := firstInstant phase period ((s.dn + 1) % 2 ^ 64) })))

/-- WTICK.off. -/
def doWtickOff (s : State) (c : JobCard) : WResult :=
  let n := c.index
  wChecks [(!c.namesOnly true false false || 16 ≤ n, wOperand), (!(s.timePart c).ticks.contains n, wUngranted),
    (s.tickBound n, wBusy)]
    (.ok (s.modTick n (fun _ => {})))

/-- Whether a logical colonnade is in the shape of a card's instance. -/
def State.inShape (s : State) (c : JobCard) (col : Nat) : Bool := (s.physOf c.inst col).isSome

/-- Whether a steering rule's row is in range (R383, R384). -/
def State.ruleOk (s : State) (c : JobCard) (d : Row) : Bool :=
  let keys := leAt d 1 1; let act := leAt d 2 1; let layer := leAt d 3 1; let g := leAt d 5 1
  let off (i a n : Nat) : Bool := bitOf keys i || leAt d a n = 0
  1 ≤ leAt d 0 1 && leAt d 0 1 < 16 && keys < 128 && act ≤ 3 && layer ≤ 3 &&
  1 ≤ leAt d 6 2 && leAt d 6 2 ≤ 9216 && leAt d 14 2 < 4096 && leAt d 19 1 < 2 && allZero (d.drop 27) &&
  off 0 8 6 && off 1 14 2 && off 2 16 2 && off 3 18 1 && off 4 20 4 && off 5 19 1 && off 6 24 2 &&
  (layer ≠ 1 || bitOf keys 3 || bitOf keys 4 || bitOf keys 5) && (layer ≠ 2 || bitOf keys 5) && (layer ≠ 3 || bitOf keys 6) &&
  (1 < act || g < 64) && (act ≠ 0 || s.inShape c (leAt d 4 1))

/-- WFLOW (R383, R394). -/
def doWflow (s : State) (c : JobCard) : WResult :=
  wChecks [(!c.namesOnly true true false || c.arg.isEmpty || !s.ruleOk c c.arg, wOperand),
    (!(s.timePart c).rules.contains c.index || (leAt c.arg 2 1 = 1 && !(s.timePart c).streams.contains (leAt c.arg 5 1)), wUngranted)]
    (.ok (s.modRule c.index (fun r => { r with
      installed := true, row := c.arg, inst := c.inst, part := (s.inst c.inst).part })))

/-- WFLOW.off. -/
def doWflowOff (s : State) (c : JobCard) : WResult :=
  wChecks [(!c.namesOnly true false false, wOperand), (!(s.timePart c).rules.contains c.index, wUngranted)]
    (.ok (s.modRule c.index (fun r => { r with installed := false, row := [] })))

/-- WBIND (R389, R391, R394). -/
def doWbind (s : State) (c : JobCard) : WResult :=
  let n := c.index; let d := c.arg
  let tick := leAt d 0 1; let col := leAt d 1 1; let g := leAt d 2 1; let tw := leAt d 3 1; let first := leAt d 16 8
  let k := s.tick tick
  let grid := k.armed && (dnDiff first k.phase % (k.period : Int) ≠ 0 || dnDiff first s.dn < 0)
  wChecks [(!c.namesOnly true true false || 64 ≤ n || d.isEmpty || 16 ≤ tick || 64 ≤ g || tw = 0 || 48 < tw ||
      !s.inShape c col || leAt d 6 2 ≠ 0 || leAt d 12 4 ≠ 0 || !allZero (d.drop 24) || grid, wOperand),
    (!(s.timePart c).streams.contains n || !(s.timePart c).ticks.contains tick, wUngranted),
    ((s.stream n).bound || s.streams.any (fun p => p.2.bound && p.2.inst = c.inst && p.2.col = col && p.2.g = g), wBusy),
    (!k.armed, wUnbound)]
    (let s1 := (s.modStream n (fun _ => { bound := true, inst := c.inst, tick := tick, period := k.period, col := col, g := g,
                                          tw := tw, seq := leAt d 4 1, keep := leAt d 8 4, first := first,
                                          slideAt := (s.stream n).slideAt,
                                          pad := List.replicate (4 * tw) 0 })).sendSlide n (some (leAt d 5 1))
     .ok (if first = s.dn then s1.eventAt s.wall .decision { index := n, addr := first } else s1))

/-- WBIND.off (R391, R394). -/
def doWbindOff (s : State) (c : JobCard) : WResult :=
  let n := c.index
  wChecks [(!c.namesOnly true false false || 64 ≤ n, wOperand), (!(s.timePart c).streams.contains n, wUngranted),
    (!(s.stream n).bound, wUnbound)]
    (.ok ((s.sendSlide n none).modStream n (fun x => { x with bound := false, staged := [] })))

/-- WLATE (R394). -/
def doWlate (s : State) (c : JobCard) : WResult :=
  let n := c.index; let d := c.arg; let x := s.stream n
  wChecks [(!c.namesOnly true true false || 64 ≤ n || d.isEmpty || 2 < leAt d 0 1 || leAt d 1 1 = 0 ||
      (x.bound && (x.maxTokens < leAt d 1 1 || x.period ≤ leAt d 4 4)) || leAt d 2 2 ≠ 0 || !allZero ((d.drop 8).take 56), wOperand),
    (!(s.timePart c).streams.contains n, wUngranted), (!x.bound, wUnbound)]
    (.ok (s.modStream n (fun x => { x with
      policy := leAt d 0 1, npad := leAt d 1 1, grace := leAt d 4 4, pad := (d.drop 64).take (4 * x.tw) })))

/-- WDEAD (R392, R394). -/
def doWdead (s : State) (c : JobCard) : WResult :=
  let n := c.index; let d := c.arg
  let col := leAt d 0 1; let tick := leAt d 1 1; let entry := leAt d 2 2; let offset := leAt d 4 4
  let k := s.tick tick
  wChecks [(!c.namesOnly true true false || 32 ≤ n || d.isEmpty || 16 ≤ tick || 0x100 < entry || offset = 0 ||
      (k.armed && k.period < offset) || !s.inShape c col || !allZero (d.drop 8), wOperand),
    (!(s.timePart c).watches.contains n || !(s.timePart c).ticks.contains tick, wUngranted), (!k.armed, wUnbound)]
    (.ok (s.modWatch n (fun w => { w with
      armed := true, inst := c.inst, col := col, tick := tick, entry := entry, offset := offset, isOpen := false })))

/-- WDEAD.off. -/
def doWdeadOff (s : State) (c : JobCard) : WResult :=
  let n := c.index
  wChecks [(!c.namesOnly true false false || 32 ≤ n, wOperand), (!(s.timePart c).watches.contains n, wUngranted)]
    (.ok (s.modWatch n (fun w => { w with armed := false, isOpen := false })))

/-- The row of a WSTAT (R397). -/
def State.timeStats (s : State) (c : JobCard) : Row :=
  let n := c.index
  let w (l : List Nat) : List Byte := l.flatMap (leBytes 8)
  padTo 256 (match c.kind with
    | 0 =>
      let x := s.stream n
      w [x.intervals, x.arrived, x.late, x.latePkt, x.earlyPkt, x.overTok, x.dropTok, x.ringFull, x.slideFail, x.lastDecision] ++
        leBytes 4 x.lastInterval ++ leBytes 1 x.lastStatus
    | 1 => let p := s.ethPort n; w [p.frames, p.badFcs, p.clock, p.toFront]
    | 2 =>
      let r : Rule := FMap.get {} s.rules n
      w [r.matched, r.ringFull, r.trunc, r.noStream, r.noRing]
    | 3 => let x := s.watch n; w [x.opened, x.met, x.missed, x.lastMissed]
    | _ => w ((List.range 4).map (fun q => FMap.get 0 s.timeQueues ((s.inst c.inst).part * 4 + q))))

/-- The counters of a WSTAT zeroed (R394, R397). -/
def State.clearStats (s : State) (c : JobCard) : State :=
  let n := c.index
  match c.kind with
  | 0 => s.modStream n (fun x => { x with
      intervals := 0, arrived := 0, late := 0, latePkt := 0, earlyPkt := 0, overTok := 0, dropTok := 0, ringFull := 0,
      slideFail := 0 })
  | 1 => s.modPort n (fun p => { p with frames := 0, badFcs := 0, clock := 0, toFront := 0 })
  | 2 => s.modRule n (fun r => { r with matched := 0, ringFull := 0, trunc := 0, noStream := 0, noRing := 0 })
  | 3 => s.modWatch n (fun x => { x with opened := 0, met := 0, missed := 0 })
  | _ => { s with timeQueues := (List.range 4).foldl (fun m q => FMap.set 0 m ((s.inst c.inst).part * 4 + q) 0) s.timeQueues }

/-- WSTAT (R397): the row as it stood at the card's start. -/
def doWstat (s : State) (c : JobCard) (clear : Bool) : WResult :=
  let n := c.index; let p := s.timePart c
  let bad := match c.kind with
    | 0 => 64 ≤ n | 1 => 4 ≤ n | 2 => false | 3 => 32 ≤ n | 4 => n ≠ 0 | _ => true
  let held := match c.kind with
    | 0 => p.streams.contains n | 2 => p.rules.contains n | 3 => p.watches.contains n | _ => true
  wChecks [(!c.namesOnly true true true || bad || (s.argRow c.core c.operand).isNone, wOperand), (!held, wUngranted)]
    (match s.putRow c c.arg with
      | .ok s => .ok (if clear then s.clearStats c else s)
      | .error e => .error e)

def execWtime (c : Card) (s : State) : Host.Outcome State Fault Refusal := sendCard .time c (.wtime c) s
def execWtimePort (c : Card) (s : State) : Host.Outcome State Fault Refusal := sendCard .time c (.wtimePort c) s
def execWtick (c : Card) (s : State) : Host.Outcome State Fault Refusal := sendCard .time c (.wtick c) s
def execWtickOff (c : Card) (s : State) : Host.Outcome State Fault Refusal := sendCard .time c (.wtickOff c) s
def execWflow (c : Card) (s : State) : Host.Outcome State Fault Refusal := sendCard .time c (.wflow c) s
def execWflowOff (c : Card) (s : State) : Host.Outcome State Fault Refusal := sendCard .time c (.wflowOff c) s
def execWbind (c : Card) (s : State) : Host.Outcome State Fault Refusal := sendCard .time c (.wbind c) s
def execWbindOff (c : Card) (s : State) : Host.Outcome State Fault Refusal := sendCard .time c (.wbindOff c) s
def execWlate (c : Card) (s : State) : Host.Outcome State Fault Refusal := sendCard .time c (.wlate c) s
def execWdead (c : Card) (s : State) : Host.Outcome State Fault Refusal := sendCard .time c (.wdead c) s
def execWdeadOff (c : Card) (s : State) : Host.Outcome State Fault Refusal := sendCard .time c (.wdeadOff c) s
def execWstat (c : Card) (s : State) : Host.Outcome State Fault Refusal := sendCard .time c (.wstat c) s
def execWstatClr (c : Card) (s : State) : Host.Outcome State Fault Refusal := sendCard .time c (.wstatClr c) s

/-- A card's step, or its code (R394). -/
def State.timeStep (s : State) (c : JobCard) : WResult :=
  match c.op with
  | .wtime _ => doWtime s c
  | .wtimePort _ => doWtimePort s c
  | .wtick _ => doWtick s c
  | .wtickOff _ => doWtickOff s c
  | .wflow _ => doWflow s c
  | .wflowOff _ => doWflowOff s c
  | .wbind _ => doWbind s c
  | .wbindOff _ => doWbindOff s c
  | .wlate _ => doWlate s c
  | .wdead _ => doWdead s c
  | .wdeadOff _ => doWdeadOff s c
  | .wstat _ => doWstat s c false
  | .wstatClr _ => doWstat s c true
  | _ => .ok s

/-- What a card reads at its start: its argument row, or the row a WSTAT writes (R394, R397). -/
def State.timeStart (s : State) (c : JobCard) : JobCard :=
  match c.op with
  | .wstat _ => { c with arg := s.timeStats c }
  | .wstatClr _ => { c with arg := s.timeStats c }
  | _ => { c with arg := match s.argRow c.core c.operand with | some r => (s.beginWork c.workKey c.claimed).portBytes r.addr 256 | none => [] }

/-- TIME_INGEST_CARD_COMPLETION (R395): the card takes effect as one step, or records its code; it signals in either case. -/
def execTimeIngestCardCompletion (s : State) : Host.Outcome State Fault Refusal :=
  let q := s.ev.q
  s.withCard (fun _ _ => []) (fun s c =>
    let d := s.reportDelay
    let r : State × Nat := match d.2.timeStep c with
      | .ok s1 => (s1, 0)
      | .error e => (d.2, e)
    let key := (s.inst c.inst).part * 4 + q.queue
    let count (v : Nat) : Nat := (v % 2 ^ 32 + 1) % 2 ^ 32 + (if r.2 = 0 then v / 2 ^ 32 else r.2) * 2 ^ 32
    let s2 : State := { r.1 with timeQueues := FMap.modify 0 r.1.timeQueues key count }
    .next (s2.finishCard q c d.1))

end Sys2Proof.Machine
end

