-- ==== Sys2Proof/Machine/Link.lean ====
section
/-! DEFINITION. The link engine (spec 14): ports and flits, messages served for a peer through the export table, the link cards
with what peers answer, reductions and barriers, and the accesses of ACQ and REL to homes outside the core (06 R201, R202). What
another module sends or answers comes in from outside. -/

namespace Sys2Proof.Machine

/-! ### Cards that a port going DOWN fails (R402, R409, R414) -/

/-- The port of a link card. -/
def linkPortOf : Instr → Nat
  | .nsend p _ => p.val | .nrecv p _ _ _ => p.val | .nred p _ => p.val | .nredArrival p _ => p.val | .nbar p _ => p.val
  | .nmode p _ => p.val | .nstat p _ => p.val | .nstatClr p _ => p.val | _ => 0

/-- The queue of a link card. -/
def JobCard.queueNo (c : JobCard) : Nat :=
  match c.op with
  | .nsend _ k => k.queue | .nred _ k => k.queue | .nredArrival _ k => k.queue | .nbar _ k => k.queue | _ => 0

/-- The opcode of a link card. -/
def linkOpcode : Instr → Nat
  | .nsend _ _ => 0x40 | .nrecv _ _ _ _ => 0x41 | .nred _ _ => 0x42 | .nredArrival _ _ => 0x42 | .nbar _ _ => 0x43
  | .nmode _ _ => 0x44 | _ => 0x45

/-- MEMBERS and ID of a card that joins modules (R414, R415). -/
def JobCard.linkMembers (c : JobCard) : Nat :=
  match c.op with | .nbar _ _ => bitsOf c.operand.toNat 35 32 | _ => leAt c.arg 28 1 % 16
def JobCard.linkId (c : JobCard) : Nat :=
  match c.op with
  | .nbar _ _ => bitsOf c.operand.toNat 31 0
  | .nred _ _ => leAt c.arg 24 4
  | .nredArrival _ _ => leAt c.arg 24 4
  | _ => 0

/-- Whether a card joins modules. -/
def joinsModules : Instr → Bool
  | .nred _ _ => true | .nredArrival _ _ => true | .nbar _ _ => true | _ => false

/-- The parts of the members that are here for a card that joins modules, by module and in the order of their arrival: those of the k-th match
of its identifier (R414, R415). -/
def State.partsFor (s : State) (c : JobCard) : List JoinPart :=
  let bar : Bool := match c.op with | .nbar _ _ => true | _ => false
  (s.part (s.inst c.inst).part).joins.filter (fun j => j.bar = bar && j.id = c.linkId && j.k + 1 = c.key.toNat && bitOf c.linkMembers j.module)

/-- A link card ends, with a code or 0: its port's statistics, its signal, and LINK under TRAP policy 1 (R409, R410, R421). -/
def State.endLinkCard (s : State) (q : QueueRef) (c : JobCard) (code : Nat) : State :=
  let p := linkPortOf c.op
  let part := (s.inst c.inst).part
  let d := s.reportDelay
  let trap := FMap.get false (s.link p).trap part
  let up (x : Nat) : Nat := n64 x 1
  let s0 := if joinsModules c.op && c.key ≠ 0 then
      let used := d.2.partsFor c
      d.2.setPart part { d.2.part part with joins := (d.2.part part).joins.filter (fun j => !used.contains j) }
    else d.2
  let s1 := (s0.modLink p (fun l =>
    if code = 0 then { l with completed := FMap.modify 0 l.completed part up }
    else { l with failed := FMap.modify 0 l.failed part up, codes := FMap.set 0 l.codes part code })).finishCard q c d.1
  if code ≠ 0 && trap then
    let tval := code * 2 ^ 56 + linkOpcode c.op * 2 ^ 48 + p * 2 ^ 40 + (if joinsModules c.op then c.linkId else 0)
    s1.eventAt (s.wall + d.1) .link { inst := c.inst, col := c.logical, core := c.core, value := tval, lines := c.signal }
  else s1

/-- Codes of R409. -/
def nOperand : Nat := 1
def nUngranted : Nat := 2
def nRange : Nat := 3
def nDown : Nat := 6
def nMismatch : Nat := 7
def nRoute : Nat := 8
def nRing : Nat := 9
def nBuffer : Nat := 10

/-- Whether a running card has sent its part and waits for a peer over a port. -/
def State.waitsOn (s : State) (p : Nat) (c : JobCard) : Bool :=
  c.key ≠ 0 && (match c.op with
    | .nsend q _ => q.val = p
    | op => joinsModules op && bitOf c.linkMembers (s.link p).peer && !(s.partsFor c).any (fun j => j.module = (s.link p).peer))

/-- A reservation of `n` entries from a count of a ring is given back: what an untimed producer has reserved behind it moves up, to be written
again; where other reservations stand behind it, none (log entry 125). -/
def State.unreserve (s : State) (col g start n : Nat) : Option State :=
  let res := ((s.col col).ring g).res
  let behind := mod20 (res + 2 ^ 20 - start)
  let later (it : Item) : Bool := match it.work with
    | .place c h st rows _ _ _ => c = col && h = g && !rows.isEmpty && mod20 (st + 2 ^ 20 - start) < behind && st ≠ start
    | _ => false
  let total := (s.agenda.map (fun it => if later it then (match it.work with | .place _ _ _ rows _ _ _ => rows.length | _ => 0) else 0)).foldl (· + ·) n
  if total ≠ behind then none
  else some { s.modRing col g (fun r => { r with res := mod20 (r.res + 2 ^ 20 - n) }) with
    agenda := s.agenda.map (fun it => if later it then { it with work := match it.work with
      | .place c h st rows _ pub reply => .place c h (mod20 (st + 2 ^ 20 - n)) rows 0 pub reply
      | w => w } else it) }

/-- The deliveries of a peer that are reserved and not published when its port goes DOWN come to nothing (R409, R422). -/
def State.dropDeliveries (s : State) (p : Nat) : State :=
  s.agenda.reverse.foldl (fun s it => match it.work with
    | .place c g start rows _ _ reply =>
      if reply ≠ p + 1 then s
      else if rows.isEmpty then { s with agenda := s.agenda.erase it }
      else match State.unreserve { s with agenda := s.agenda.erase it } c g start rows.length with
        | some t => t
        | none => s
    | _ => s) s

/-- A port goes DOWN: nothing waiting is served, published or acknowledged, its cards fail, what is asked for over it is to be asked again, and
the front end starts to train it. -/
def State.linkDown (s : State) (p : Nat) : State :=
  if (s.link p).up = 0 then s
  else
    let s0 := s.dropDeliveries p
    let s1 := ({ s0 with cores := s0.cores.map (fun c =>
        if c.2.acqAsked && c.2.acqPort = p && p ≠ 0 && c.2.acqData.isNone then (c.1, { c.2 with acqAsked := false, acqPort := 0 }) else c) } : State).modLink
      p (fun l => { l with
        up := 0, downs := n64 l.downs 1, window := [], out := [], urgent := [], rest := [], stream := [], waiting := [], replays := 0 })
    let s2 := s1.queues.foldl (fun s e =>
      match e.2.running with
      | some c => if s.waitsOn p c then s.endLinkCard (queueOfKey e.1) c nDown else s
      | none => s) s1
    let w := s2.freshSlack
    w.2.atWall (s.wall + 1 + w.1) (.train p)

/-- The front end trains a port that is DOWN (R402). -/
def doTrain (s : State) (p : Nat) : State := s.modLink p (fun l => if l.up = 0 then { l with up := 1 } else l)

/-- LINK_BRING_UP (R400, R402, R403): the flag says that the port trained at full width and rate; it is UP with its own and its
peer's module number, and its flits count from 0; else it is held DOWN. -/
def execLinkBringUp (s : State) : Host.Outcome State Fault Refusal :=
  let p := s.ev.port
  if !s.ev.flag then .next (s.modLink p (fun l => { l with up := 0 }))
  else
    let s1 := s.modLink p (fun l => { l with
      up := 2, peer := s.ev.value, sendSeq := 0, goodSeq := 0xFFF, acked := 0xFFF, window := [], replays := 0 })
    .next { s1 with modNum := s.ev.index }

/-- LOSS_OF_LINK (R402). -/
def execLossOfLink (s : State) : Host.Outcome State Fault Refusal := .next (s.linkDown s.ev.port)

/-- REPLAY_LIMIT (R402): a flit replayed 16 times without an ACK takes the port DOWN. -/
def execReplayLimit (s : State) : Host.Outcome State Fault Refusal :=
  .next (if 16 ≤ (s.link s.ev.port).replays then s.linkDown s.ev.port else s)

/-- ACK_TIMEOUT (R402): 10 µs without an ACK while flits are outstanding takes the port DOWN; else the wait goes on. -/
def execAckTimeout (s : State) : Host.Outcome State Fault Refusal :=
  let p := s.ev.port; let l := s.link p
  .next (if l.window.isEmpty || l.up ≠ 2 then s
    else if l.ackAt + 22000 < s.wall then s.linkDown p
    else s.eventAt (l.ackAt + 22001) .ackTimeout { port := p })

/-- NAK (R402): the acknowledged flits leave the window and the others are sent again; the 16th replay of a flit ends the port. -/
def execNak (s : State) : Host.Outcome State Fault Refusal :=
  let p := s.ev.port
  let n := (s.link p).window.length - (s.link p).ackedBy s.ev.value
  let s1 := s.takeAck p s.ev.value
  if n = 0 then .next s1
  else
    let s2 := s1.modLink p (fun l => { l with replays := l.replays + 1, replayed := n64 l.replayed n })
    .next (if 16 ≤ (s2.link p).replays then s2.eventAt s.wall .replayLimit { port := p } else s2)

/-- FLIT_RECEPTION (R401, R402): a flit with a good CRC brings its acknowledgement, and a data or control flit in its turn is taken;
a bad flit or a gap is answered with NAK. -/
def execFlitReception (s : State) : Host.Outcome State Fault Refusal :=
  let p := s.ev.port; let d := padTo 256 s.ev.bytes
  if (s.link p).up ≠ 2 then .next s
  else if crc64 (d.take 248) ≠ leAt d 248 8 then
    .next ((s.modLink p (fun l => { l with crcFail := n64 l.crcFail 1 })).sendAck p true)
  else
    let ty := leAt d 0 2 / 2 ^ 12; let seq := leAt d 0 2 % 4096; let ack := leAt d 2 2 % 4096
    let s1 := s.modLink p (fun l => { l with received := n64 l.received 1 })
    let s2 := if 2 ^ 15 ≤ leAt d 2 2 then s1.eventAt s.wall .nak { port := p, value := ack } else s1.takeAck p ack
    if ty = 0 then .next s2
    else if seq = ((s.link p).goodSeq + 1) % 4096 then
      .next ((s2.modLink p (fun l => { l with
        goodSeq := seq, stream := if ty = 1 then l.stream ++ (d.drop 4).take 240 else l.stream })).sendAck p false)
    else .next (s2.sendAck p true)

/-! ### Serving a peer (R404, R408, R412) -/

/-- A partition's exported address: its access unit through the export table (R404), the channels counted in the partition's
lowest colonnade (log entry 25). -/
def State.exportUnit (s : State) (part x : Nat) : Xlat :=
  let c : Core := { locked := (s.part part).exports }
  c.translate x

/-- The flat address of an exported access unit. -/
def State.exportAddr (s : State) (part x : Nat) : Option Nat :=
  match s.exportUnit part x with
  | .ok ch bank row column => some (unitAddr ((s.part part).cols.headD 0) ch bank row column)
  | _ => none

/-- What an access of exported memory meets, as a code of R409. -/
def State.exportErr (s : State) (part x n : Nat) (write : Bool) : Nat :=
  let us := List.range' (x / 128) ((x + n - 1) / 128 - x / 128 + 1)
  match us.find? (fun u => match s.exportUnit part (u * 128) with | .ok _ _ _ _ => false | _ => true) with
  | some u => (match s.exportUnit part (u * 128) with | .absent _ => 4 | _ => 3)
  | none =>
    if !write && us.any (fun u => (List.range 4).any (fun b =>
        match s.exportAddr part (u * 128) with
        | some a => s.burstState (a / 32 + b) = 2
        | none => false)) then 5 else 0

/-- Bytes of exported memory. -/
def State.readExport (s : State) (part x n : Nat) : List Byte :=
  let us := List.range' (x / 128) ((x + n - 1) / 128 - x / 128 + 1)
  ((us.flatMap (fun u => match s.exportAddr part (u * 128) with
    | some a => s.readArray a 128
    | none => List.replicate 128 0)).drop (x % 128)).take n

/-- Write bytes of exported memory. -/
def State.writeExport (s : State) (part x : Nat) (d : List Byte) : State :=
  (List.range' (x / 128) ((x + d.length - 1) / 128 - x / 128 + 1)).foldl (fun s u =>
    match s.exportAddr part (u * 128) with
    | some a =>
      let lo := max x (u * 128)
      s.writeArray (a + lo % 128) ((d.drop (lo - x)).take (u * 128 + 128 - lo))
    | none => s) s

/-- Write rows in ascending order; the first that fails ends the transfer (R409, R412). -/
def State.writeExportRows (s : State) (part : Nat) : Nat → List (List Byte) → State × Nat
  | _, [] => (s, 0)
  | x, d :: r =>
    match s.exportErr part x d.length true with
    | 0 => (s.writeExport part x d).writeExportRows part (x + 256) r
    | e => (s, e)

/-- The colonnade that a delivery names: a logical colonnade of the partition's lowest running instance that has it
(log entry 26). -/
def State.deliveryInst (s : State) (part col : Nat) : Option Nat :=
  (s.insts.find? (fun p => p.2.part = part && p.2.status.isNone && !p.2.groups.isEmpty && FMap.get 0 p.2.cols col ≠ 0)).map (·.1)

/-- The access units of exported memory that a message reads or writes. -/
def State.messageUnits (s : State) (m : Incoming) : List PortUnit :=
  let n := match m.kind with | 0 => 256 * m.rows.length | 1 => 256 * m.count | 2 => 0 | _ => 32
  if n = 0 then []
  else arrayUnits (m.kind = 0 || m.kind = 3)
    ((List.range' (m.addr / 128) ((m.addr + n - 1) / 128 - m.addr / 128 + 1)).filterMap (fun u => s.exportAddr m.part (u * 128)))

/-- The front end is told the first absent address of an export table in a range (R409). -/
def State.tellExport (s : State) (part x n code : Nat) : State :=
  match (if code = 4 then (List.range' (x / 128) ((x + n - 1) / 128 - x / 128 + 1)).find? (fun u =>
      match s.exportUnit part (u * 128) with | .absent _ => true | _ => false) else none) with
  | some u => s.tell (.absentExport part (u * 128))
  | none => s

/-- The key under which a partition counts the NBARs or NREDs of an identifier on a module, 4 for the own (R399, R414). -/
def joinKey (bar : Bool) (id module : Nat) : Nat := (id * 2 + (if bar then 1 else 0)) * 5 + module

/-- A member's part is kept until the own card with which it matches has started (R414, R415). -/
def State.keepPart (s : State) (part module : Nat) (bar : Bool) (id : Nat) (arrival : Bool) (data : List Byte) : State :=
  let p := s.part part
  let key := joinKey bar id module
  s.setPart part { p with
    counts := FMap.modify 0 p.counts key (· + 1), joins := p.joins ++ [⟨module, bar, id, FMap.get 0 p.counts key, arrival, data⟩] }

/-- A running card that joins modules, with the parts of every other member here, goes on (R414, R415). -/
def State.wakeJoins (s : State) : State :=
  s.queues.foldl (fun s e => match e.2.running with
    | some c =>
      let l := s.partsFor c
      if joinsModules c.op && c.key ≠ 0 && (List.range 4).all (fun m => m = s.modNum || !bitOf c.linkMembers m || l.any (fun j => j.module = m)) then
        s.eventAt (s.wall + 1) .linkCardCompletion { q := queueOfKey e.1 }
      else s
    | none => s) s

/-- Serve a message: the state after it; none while a delivery lacks room, while its instance is pre-empted, or while the channels that it
needs offer no reserved slot (R404; 09 R281). Its answer says with which code it ended (R409). -/
def State.serveMessage (s : State) (p : Nat) (m : Incoming) : Option State :=
  let ends (s : State) (n code : Nat) (rows : List (List Byte)) : State :=
    (s.tellExport m.part m.addr n code).sendMessages p (m.kind = 3 || m.kind = 4) [((s.link p).peerOf m.part).getD 0, 16 + m.kind, m.queue, code] rows
  if !s.served m.at_ (s.messageUnits m) then none
  else
  match m.kind with
  | 0 => let r := s.writeExportRows m.part m.addr m.rows; some (ends r.1 (256 * m.rows.length) r.2 [])
  | 1 =>
    match s.exportErr m.part m.addr (256 * m.count) false with
    | 0 => some (ends s 0 0 ((List.range m.count).map (fun i => s.readExport m.part (m.addr + 256 * i) 256)))
    | e => some (ends s (256 * m.count) e [])
  | 2 =>
    match s.deliveryInst m.part m.col with
    | none => some (ends s 0 nRing [])
    | some i =>
      match s.placeOf i m.col with
      | none => none
      | some c =>
        if ((s.col c).ring m.g).e < m.rows.length then some (ends s 0 nRing [])
        else
          let w := s.freshSlack
          let at_ := s.wall + 1 + w.1
          w.2.produce c m.g m.rows at_ at_ (p + 1)
  | 3 =>
    let d := (m.rows.headD [])
    match s.exportErr m.part m.addr d.length true with
    | 0 => some (ends (s.writeExport m.part m.addr d) 0 0 [])
    | e => some (ends s d.length e [])
  | 5 =>
    let d := m.rows.flatten
    some (s.keepPart m.part (s.link p).peer false (leAt d 24 4) (m.count = 1) d).wakeJoins
  | 6 => some (s.keepPart m.part (s.link p).peer true m.count false m.rows.flatten).wakeJoins
  | _ =>
    match s.exportErr m.part m.addr 32 false with
    | 0 => some (ends s 0 0 [padTo 256 (s.readExport m.part m.addr 32)])
    | e => some (ends s 32 e [])

/-- A peer gets its acknowledgement over a port given as one more; 0 is none. -/
def State.reply (s : State) (reply : Nat) : State := if reply = 0 then s else s.sendMessages (reply - 1) false [18] []

/-- A peer's delivery is acknowledged once its entries have been published (R412). -/
def State.replyPlaced (s : State) (col g start pub reply : Nat) : State :=
  if reply ≠ 0 && ((s.col col).ring g).unpublished start then s.atWall (max pub (s.wall + 1)) (.place col g start [] 0 pub reply) else s.reply reply

/-- The entries of an untimed producer are written one after the other, each in a cycle in which its bank is free, and, from their cycle on,
published; a peer's delivery is then acknowledged (R412; 13 R386; 04 R110). With no rows left only the acknowledgement is. -/
def doPlace (s : State) (col g start : Nat) (rows : List Row) (landed pub reply : Nat) : State :=
  let r := (s.col col).ring g
  let now := (List.range' landed (rows.length - landed)).takeWhile (fun i => !s.portBlocked ((r.entry col (mod20 (start + i))).addr / 256))
  if rows.isEmpty then s.replyPlaced col g start pub reply
  else
    let s1 := now.foldl (fun (s : State) i => s.openWrite (r.entry col (mod20 (start + i))) (rows[i]?.getD [])) s
    if landed + now.length < rows.length then s1.atWall (s.wall + 1) (.place col g start rows (landed + now.length) pub reply)
    else
      (if s.wall < pub then s1.atWall pub (.ringTail col g start rows.length false)
       else s1.publishRing col g start rows.length).replyPlaced col g start pub reply

/-- Serve the waiting messages of a queue in order, until one must wait (R408, R412). -/
def State.serveQueue (s : State) (p n : Nat) : Nat → State
  | 0 => s
  | fuel + 1 =>
    match (s.link p).waiting.find? (fun m => m.queue = n) with
    | none => s
    | some m =>
      match s.serveMessage p m with
      | none => (s.askUnits (eventKey m.at_) false (s.messageUnits m)).eventAt (s.wall + 1) .delivery { port := p, queue := n }
      | some s1 => ((s1.dropReqs (eventKey m.at_)).modLink p (fun l => { l with waiting := l.waiting.erase m })).serveQueue p n fuel

/-- MESSAGE (R401, R403, R404, R408, R412): a peer's message, whole, leaves the stream of the port and joins those of its queue; one for a
partition that is not paired on the port is not served. -/
def execMessage (s : State) : Host.Outcome State Fault Refusal :=
  let e := s.ev
  let m : Incoming := { queue := e.queue, part := e.part, kind := e.index, addr := e.addr, col := e.col, g := e.tag,
                        count := e.count, rows := if e.blocks.isEmpty then [e.bytes] else e.blocks, at_ := s.wall + 1 }
  let l := s.link e.port
  let stream := l.stream.drop (16 + 256 * m.rows.length)
  if l.up ≠ 2 then .next s
  else if (l.peerOf e.part).isNone then .next (s.modLink e.port (fun l => { l with stream := stream }))
  else
    let first := !l.waiting.any (fun m => m.queue = e.queue)
    let s1 := s.modLink e.port (fun l => { l with waiting := l.waiting ++ [m], stream := stream })
    .next (if first then s1.serveQueue e.port e.queue 4096 else s1)

/-- DELIVERY (R412): the head delivery of a queue is tried again, and the messages behind it after it. -/
def execDelivery (s : State) : Host.Outcome State Fault Refusal :=
  .next (s.serveQueue s.ev.port s.ev.queue 4096)

/-! ### Sending cards (R406, R413) -/

/-- Send a link card; a port outside 1 to 3 is UNREACHABLE. -/
def sendLink (port : Fin 4) (c : Card) (op : Instr) (s : State) : Host.Outcome State Fault Refusal :=
  match port.val with
  | 1 => sendCard .link1 c op s
  | 2 => sendCard .link2 c op s
  | 3 => sendCard .link3 c op s
  | _ => .next (takeTrap s s.unreachable s.here.bundle)

def execNsend (port : Fin 4) (c : Card) (s : State) : Host.Outcome State Fault Refusal := sendLink port c (.nsend port c) s
def execNred (port : Fin 4) (c : Card) (s : State) : Host.Outcome State Fault Refusal := sendLink port c (.nred port c) s
def execNredArrival (port : Fin 4) (c : Card) (s : State) : Host.Outcome State Fault Refusal :=
  sendLink port c (.nredArrival port c) s
def execNbar (port : Fin 4) (c : Card) (s : State) : Host.Outcome State Fault Refusal := sendLink port c (.nbar port c) s
def execNmode (port : Fin 4) (c : Card) (s : State) : Host.Outcome State Fault Refusal := sendLink port c (.nmode port c) s
def execNstat (port : Fin 4) (c : Card) (s : State) : Host.Outcome State Fault Refusal := sendLink port c (.nstat port c) s
def execNstatClr (port : Fin 4) (c : Card) (s : State) : Host.Outcome State Fault Refusal :=
  sendLink port c (.nstatClr port c) s

/-- The look-ahead of NRECV: a credit and n filled entries, both or neither (R413). -/
def lookRecv (q : QueueRef) (g : GReg) (n : Nat) (s : State) : Look :=
  match lookClaim g n false s with
  | .ok n s1 => (match lookCredit q s1 with | .ok _ s2 => .ok n s2 | .wait _ => .wait s | r => r)
  | .wait _ => .wait s
  | r => r

/-- The engine of a port. -/
def linkEngine (port : Nat) : Engine := match port with | 1 => .link1 | 2 => .link2 | _ => .link3

/-- NRECV (R413): the claim is made at look-ahead, as RCLAIM claims; the card carries the count it claimed from. -/
def execNrecv (port : Fin 4) (c : Card) (nc : Fin 4) (g : GReg) (s : State) : Host.Outcome State Fault Refusal :=
  let q := queueFor s.here.core (linkEngine port.val) c.queue
  let n := 4 ^ nc.val
  if port = 0 then .next (takeTrap s s.unreachable s.here.bundle)
  else
    match firstTrap [s.cardTrap (linkEngine port.val), trapIf ((s.myRing g).e < n) (s.overrun g.val n)] with
    | some t => .next (takeTrap s t s.here.bundle)
    | none => s.look (lookRecv q g n) (fun start s =>
        let k := s.ctr
        let s1 := s.postCard q c (.nrecv port c nc g)
        let mark (d : JobCard) : JobCard := if d.serial = k then { d with key := BitVec.ofNat 64 start } else d
        .next (s1.modQueue q (fun u => { u with transit := u.transit.map mark })))

/-! ### Cards: checks and first part -/

/-- What the first part of a card gives: a code, the state after a card that is done, or after one that waits for its peers. -/
inductive LinkPart where
  | failed (code : Nat)
  | done (s : State)
  | waits (s : State) (c : JobCard)

/-- The first failing check by its code, lowest first, else go on. -/
def nChecks (l : List (Bool × Nat)) (k : LinkPart) : LinkPart :=
  match l.find? (·.1) with
  | some p => .failed p.2
  | none => k

/-- The first code that is not 0. -/
def firstCode (l : List Nat) : Nat := (l.find? (· ≠ 0)).getD 0

/-- Whether an operand names only an argument row (R406). -/
def JobCard.onlyRow (c : JobCard) : Bool := bitsOf c.operand.toNat 63 48 = 0 && bitsOf c.operand.toNat 43 13 = 0

/-- What a local area meets, as a code of R409. -/
def State.areaErr (s : State) (col : Nat) (r : EngineRow) (n : Nat) (write : Bool) : Nat :=
  match r with
  | .row _ => 0
  | .dv x => match s.dvErr col x n write with | some e => e.code nRange | none => 0

/-- Bytes of a local area that meets no error. -/
def State.areaRead (s : State) (col : Nat) (r : EngineRow) (n : Nat) : List Byte :=
  match s.fetch col r 0 n with | .ok d => d | .error _ => List.replicate n 0

/-- Count the corrected bursts of a read of a local area (09 R292). -/
def State.countArea (s : State) (col : Nat) (r : EngineRow) (n : Nat) : State :=
  match r with | .row _ => s | .dv x => s.countDv col x n

/-- Rows of a byte list. -/
def rowsOfBytes (d : List Byte) : List (List Byte) := (List.range (ceilDiv d.length 256)).map (fun i => padTo 256 (d.drop (256 * i)))

/-- A pe row pointer of a port (R411). -/
def isPe (port p : Nat) : Bool := p / 2 ^ 60 = 10 + port && p / 2 ^ 52 % 2 ^ 8 = 0 && p % 256 = 0

/-- NSEND's argument row (R411). -/
structure SendArgs where
  src : Nat
  dst : Nat
  n : Nat
  kind : Nat
  to_ : Nat
  g : Nat
  off : Nat
  obj : Nat
  val : Nat
deriving DecidableEq, Repr

def sendArgs (a : List Byte) : SendArgs :=
  { src := leAt a 0 8, dst := leAt a 8 8, n := leAt a 16 2, kind := leAt a 18 1, to_ := leAt a 19 1, g := leAt a 20 1,
    off := leAt a 21 1, obj := leAt a 24 8, val := leAt a 32 8 }

/-- Whether NSEND's argument row is in range (R411). -/
def State.sendOk (s : State) (c : JobCard) (port : Nat) : Bool :=
  let x := sendArgs c.arg
  let local_ (p n : Nat) : Bool := (s.rowArea c.core p n).isSome
  !c.arg.isEmpty && c.onlyRow && onlyFields (c.arg.take 256) [(0, 22), (24, 16)] && 1 ≤ x.n && x.n ≤ 4096 && x.kind ≤ 2 &&
  x.off < 4 && x.g < 64 && (x.kind ≠ 1 || x.to_ ≤ 12) && (x.kind ≠ 2 || x.to_ ≤ 15) &&
  (if x.kind = 0 then
    (isPe port x.src && local_ x.dst x.n && (x.obj = 0 || (x.obj / 2 ^ 60 = x.dst / 2 ^ 60 && local_ x.obj 1))) ||
    (local_ x.src x.n && isPe port x.dst && (x.obj = 0 || isPe port x.obj))
   else local_ x.src x.n && x.obj = 0)

/-- The failure of a card that needs a port: not paired, or not UP (R403, R409). -/
def State.portErr (s : State) (c : JobCard) (port : Nat) : Nat :=
  if ((s.link port).peerOf (s.inst c.inst).part).isNone then nUngranted else if (s.link port).up ≠ 2 then nDown else 0

/-- NSEND's first part (R411, R412): the rows read and sent, or the rows asked for. -/
def State.startSend (s : State) (c : JobCard) (port : Nat) : LinkPart :=
  let x := sendArgs c.arg
  let stage := x.kind = 2
  let route := stage && leAt c.arg 256 1 ≠ (s.link port).peer + 1
  if !s.sendOk c port then .failed nOperand
  else
    let pull := isPe port x.src
    match s.rowArea c.core (if pull then x.dst else x.src) x.n with
    | none => .failed nOperand
    | some r =>
      let obj := match (if pull && x.obj ≠ 0 then s.rowArea c.core x.obj 1 else none) with | some o => s.areaErr c.col o 32 true | none => 0
      let area := firstCode [s.areaErr c.col r (256 * x.n) pull, obj]
      let pe := s.portErr c port
      let err := firstCode [if pe = nUngranted then pe else 0, area, pe, if route then nRoute else 0]
      if err ≠ 0 then .failed err
      else
        let d := if pull then [] else s.areaRead c.col r (256 * x.n)
        let s := match (if pull && x.obj ≠ 0 then some r else none) with
          | some (.dv y) => s.dropClean c.col [(10, y / 256, x.n)]
          | _ => s
        let what := [((s.link port).peerOf (s.inst c.inst).part).getD 0, if pull then 1 else if x.kind = 0 then 0 else 2, c.queueNo,
          if pull then x.src else x.dst, x.n, if stage then leAt c.arg 257 1 else x.to_, x.g, x.obj, x.off, x.val]
        .waits ((s.countArea c.col r (256 * x.n)).sendMessages port false what (rowsOfBytes d)) { c with arg := c.arg.take 256 ++ d, key := BitVec.ofNat 64 (s.wall + 1) }

/-- The ports that reach the other modules of MEMBERS: none for a module that no port reaches (R414). -/
def State.memberPorts (s : State) (members : Nat) : List (Option Nat) :=
  ((List.range 4).filter (fun m => m ≠ s.modNum && bitOf members m)).map (fun m =>
    [1, 2, 3].find? (fun p => (s.link p).peer = m))

/-- What MEMBERS meets (R414). -/
def State.membersErr (s : State) (c : JobCard) (members : Nat) : Nat :=
  let ps := s.memberPorts members
  let es := ps.map (fun p => match p with | some p => s.portErr c p | none => 0)
  if !bitOf members s.modNum || ps.any (·.isNone) then nOperand
  else if es.contains nUngranted then nUngranted
  else if es.contains nDown then nDown
  else 0

/-- Count a match of an identifier: how many came before, one more, and the count after (R414, R415). -/
def State.countMatch (s : State) (c : JobCard) (bar : Bool) : Nat × State :=
  let part := (s.inst c.inst).part
  let p := s.part part
  let key := joinKey bar c.linkId 4
  (FMap.get 0 p.counts key + 1, s.setPart part { p with counts := FMap.modify 0 p.counts key (· + 1) })

/-- Send a member's part to every other member. -/
def State.sendMembers (s : State) (c : JobCard) (members : Nat) (rows : List (List Byte)) : State :=
  let arrival := match c.op with | .nredArrival _ _ => 1 | _ => 0
  let what (p : Nat) : List Nat := [((s.link p).peerOf (s.inst c.inst).part).getD 0, 5, c.queueNo, linkOpcode c.op, c.linkId, members, arrival]
  (s.memberPorts members).foldl (fun s p => match p with | some p => s.sendMessages p false (what p) rows | none => s) s

/-! ### Reductions (R415 to R418) -/

/-- The fields of an NRED row that members compare, and its ranges. -/
structure RedArgs where
  ne : Nat
  ty : Nat
  op : Nat
  first : Nat
  nl : Nat
  id : Nat
  members : Nat
deriving DecidableEq, Repr

def redArgs (a : List Byte) : RedArgs :=
  { ne := leAt a 16 4, ty := leAt a 20 1, op := leAt a 21 1, first := leAt a 22 1, nl := leAt a 23 1, id := leAt a 24 4,
    members := leAt a 28 1 }

/-- Rows of one leaf. -/
def RedArgs.nr (x : RedArgs) : Nat := ceilDiv x.ne 64

/-- One member's part: its SUB, its row and its leaves in order. -/
structure RedPart where
  arrival : Bool
  args : RedArgs
  leaves : List (List Nat)
deriving DecidableEq, Repr

/-- The leaves in a member's rows. -/
def RedArgs.leaves (x : RedArgs) (d : List Byte) : List (List Nat) :=
  (List.range x.nl).map (fun i => (List.range x.ne).map (fun e => leAt d (256 * x.nr * i + 4 * e) 4))

/-- Combine two elements (R416). -/
def redOp (ty op a b : Nat) : Nat :=
  match ty, op with
  | 0, 0 => addF32 a b
  | 0, 1 => f32F.maxOf a b
  | 0, _ => f32F.minOf a b
  | _, 0 => (a + b) % 2 ^ 32
  | _, 1 => maxS 32 a b
  | _, _ => minS 32 a b

/-- The elements combined on the fixed tree of 64 leaves (R416; 03 R95). -/
def redFixed (parts : List RedPart) (x : RedArgs) : List Nat :=
  let leaf (i : Nat) : Option (List Nat) := parts.findSome? (fun p =>
    if p.args.first ≤ i && i < p.args.first + p.args.nl then p.leaves[i - p.args.first]? else none)
  let leaves := (List.range 64).map leaf
  (List.range x.ne).map (fun e =>
    (treeFold (redOp x.ty x.op) 64 (leaves.map (fun l => l.map (fun v => v[e]?.getD 0)))).getD 0)

/-- The elements combined in the order of arrival, the own leaves first (R417). -/
def redArrive (parts : List RedPart) (x : RedArgs) : List Nat :=
  match parts.flatMap (·.leaves) with
  | [] => List.replicate x.ne 0
  | l :: r => r.foldl (fun acc v => List.zipWith (redOp x.ty x.op) acc v) l

/-- Whether two members agree: SUB, NE, TYPE, OP, ID and MEMBERS (R415). -/
def RedPart.agrees (a b : RedPart) : Bool :=
  a.arrival = b.arrival && a.args.ne = b.args.ne && a.args.ty = b.args.ty && a.args.op = b.args.op && a.args.id = b.args.id &&
    a.args.members = b.args.members

/-- Whether the leaf ranges of the members overlap. -/
def rangesMeet : List RedPart → Bool
  | [] => false
  | a :: r => r.any (fun b => a.args.first < b.args.first + b.args.nl && b.args.first < a.args.first + a.args.nl) || rangesMeet r

/-- A reduction's outcome once every part is here, the own part first: a code, or the elements. -/
def redResolve (own : RedPart) (others : List RedPart) : Except Nat (List Nat) :=
  let all := own :: others
  let leaves := (all.map (·.args.nl)).foldl (· + ·) 0
  if others.any (fun p => !own.agrees p) || rangesMeet all then .error nMismatch
  else if !own.arrival && 262144 < 4 * own.args.ne * leaves then .error nBuffer
  else .ok (if own.arrival then redArrive all own.args else redFixed all own.args)

/-- Write a reduction's result, zero after the last element (R415). -/
def State.putRed (s : State) (c : JobCard) (x : RedArgs) (v : List Nat) : State :=
  match s.rowArea c.core (leAt c.arg 8 8) x.nr with
  | some r => s.storeAt c.col r 0 (padTo (256 * x.nr) (v.flatMap (leBytes 4)))
  | none => s

/-- Whether a card is an NRED.arrival. -/
def isArrival : Instr → Bool | .nredArrival _ _ => true | _ => false

/-- NRED's first part (R415, R418). -/
def State.startRed (s : State) (c : JobCard) : LinkPart :=
  let x := redArgs c.arg
  let ok := !c.arg.isEmpty && c.onlyRow && onlyFields (c.arg.take 256) [(0, 29)] && 1 ≤ x.ne && x.ne ≤ 16384 && x.ty ≤ 1 &&
    x.op ≤ 2 && 1 ≤ x.nl && x.first + x.nl ≤ 64 && x.members < 16
  match (if ok then s.rowArea c.core (leAt c.arg 0 8) (x.nl * x.nr) else none), s.rowArea c.core (leAt c.arg 8 8) x.nr with
  | some src, some dst =>
    let m := s.membersErr c x.members
    let err := firstCode [if m ≤ nUngranted then m else 0, s.areaErr c.col src (256 * x.nl * x.nr) false,
      s.areaErr c.col dst (256 * x.nr) true, m]
    if err ≠ 0 then .failed err
    else
      let d := s.areaRead c.col src (256 * x.nl * x.nr)
      let own : RedPart := { arrival := isArrival c.op, args := x, leaves := x.leaves d }
      let k := s.countMatch c false
      let s1 := k.2
      if x.members = 2 ^ s.modNum then
        match redResolve own [] with
        | .error e => .failed e
        | .ok v => .done (s1.putRed c x v)
      else .waits ((s1.countArea c.col src (256 * x.nl * x.nr)).sendMembers c x.members (c.arg.take 256 :: rowsOfBytes d)) { c with
        arg := c.arg.take 256 ++ d, key := BitVec.ofNat 64 k.1 }
  | _, _ => .failed nOperand

/-- NBAR's first part (R414). -/
def State.startBar (s : State) (c : JobCard) : LinkPart :=
  let m := s.membersErr c c.linkMembers
  if bitsOf c.operand.toNat 63 36 ≠ 0 then .failed nOperand
  else if m ≠ 0 then .failed m
  else
    let k := s.countMatch c true
    if c.linkMembers = 2 ^ s.modNum then .done k.2 else .waits (k.2.sendMembers c c.linkMembers []) { c with key := BitVec.ofNat 64 k.1 }

/-- The row of an NSTAT (R421). -/
def State.linkStats (s : State) (c : JobCard) : Row :=
  let p := linkPortOf c.op; let l := s.link p; let part := (s.inst c.inst).part
  padTo 256 (padTo 8 (leBytes 1 l.up ++ leBytes 1 s.modNum ++ leBytes 1 (if l.up = 0 then 0xFF else l.peer) ++
      leBytes 1 (if FMap.get false l.trap part then 1 else 0)) ++
    [l.sent, l.received, l.crcFail, l.replayed, l.downs, FMap.get 0 l.completed part, FMap.get 0 l.failed part].flatMap
      (leBytes 8) ++ leBytes 1 (FMap.get 0 l.codes part))

/-- NSTAT: the row as it stood at the card's start; `.clr` then zeroes the counters (R421). -/
def State.putStats (s : State) (c : JobCard) (clear : Bool) : LinkPart :=
  match s.argRow c.core c.operand with
  | none => .failed nOperand
  | some r =>
    let part := (s.inst c.inst).part
    let s1 := s.openWrite r c.arg
    nChecks [(!c.onlyRow, nOperand)] (.done (if clear then s1.modLink (linkPortOf c.op) (fun l => { l with
      sent := 0, received := 0, crcFail := 0, replayed := 0, downs := 0, completed := FMap.set 0 l.completed part 0,
      failed := FMap.set 0 l.failed part 0 }) else s1))

/-- NSEND's argument row with the module of its stage, one more, and the colonnade, as the map stands at the start; 0 for an unmapped stage
(R405). -/
def State.withStage (s : State) (c : JobCard) (row : Row) : List Byte :=
  row ++ (match FMap.get none (s.part (s.inst c.inst).part).stages (leAt row 19 1) with
    | some p => leBytes 1 (p.1 + 1) ++ leBytes 1 p.2
    | none => [0, 0])

/-- What a link card reads at its start: its argument row, or the row an NSTAT writes (R411, R415, R421). -/
def State.linkStart (s : State) (c : JobCard) : JobCard :=
  match c.op with
  | .nstat _ _ => { c with arg := s.linkStats c }
  | .nstatClr _ _ => { c with arg := s.linkStats c }
  | .nsend _ _ => { c with arg := match s.argRow c.core c.operand with
      | some r => s.withStage c ((s.beginWork c.workKey c.claimed).portBytes r.addr 256)
      | none => [] }
  | .nred _ _ => { c with arg := match s.argRow c.core c.operand with | some r => (s.beginWork c.workKey c.claimed).portBytes r.addr 256 | none => [] }
  | .nredArrival _ _ => { c with arg := match s.argRow c.core c.operand with | some r => (s.beginWork c.workKey c.claimed).portBytes r.addr 256 | none => [] }
  | _ => c

/-- The first part of a card other than NRECV. -/
def State.linkFirst (s : State) (c : JobCard) : LinkPart :=
  match c.op with
  | .nsend p _ => s.startSend c p.val
  | .nred _ _ => s.startRed c
  | .nredArrival _ _ => s.startRed c
  | .nbar _ _ => s.startBar c
  | .nmode p _ =>
    nChecks [(bitsOf c.operand.toNat 63 1 ≠ 0, nOperand)] (.done (s.modLink p.val (fun l =>
      { l with trap := FMap.set false l.trap (s.inst c.inst).part (bitOf c.operand.toNat 0) })))
  | .nstat _ _ => s.putStats c false
  | .nstatClr _ _ => s.putStats c true
  | _ => .done s

/-- NRECV (R413): the entries go to their destination, and are released once every earlier claim has been; none while one has
not. -/
def State.receiveRows (s : State) (c : JobCard) (n g : Nat) : Option (Except Nat State) :=
  match s.rowArea c.core c.operand.toNat n with
  | none => some (.error nOperand)
  | some r =>
    let e := s.areaErr c.col r (256 * n) true
    let ring := (s.col c.col).ring g
    let start := c.key.toNat
    if e ≠ 0 then some (.error e)
    else if ring.head ≠ start then none
    else
      let d := (List.range n).flatMap (fun i => s.readRow (ring.entry c.col (mod20 (start + i))))
      some (.ok ((s.storeAt c.col r 0 d).releaseRing c.col g start n))

/-! ### Completing with what the peers answer -/

/-- The parts of the other members that an event brings to a running card: by module, in the order in which they arrive; a reduction's part is
its row and its leaves, with its SUB in `cols`; a barrier's is its MEMBERS. -/
def State.eventParts (s : State) (c : JobCard) : List JoinPart :=
  (List.range s.ev.rows.length).map (fun i =>
    let e := s.ev.rows[i]?.getD (0, [])
    { module := e.1, bar := linkOpcode c.op = 0x43, id := c.linkId, k := c.key.toNat - 1, arrival := s.ev.cols[i]?.getD 0 = 1, data := e.2 })

/-- The parts of a card's other members: those an event brings, and those that came before it (R414, R415). -/
def State.allParts (s : State) (c : JobCard) : List JoinPart :=
  let new := s.eventParts c
  (s.partsFor c).filter (fun j => !new.any (fun e => e.module = j.module)) ++ new.filter (fun e => bitOf c.linkMembers e.module)

/-- The parts that an event brings before a card can go on are kept (R414, R415). -/
def State.keepParts (s : State) (c : JobCard) : State :=
  if c.key = 0 then
    (s.eventParts c).foldl (fun s j => s.keepPart (s.inst c.inst).part j.module j.bar j.id j.arrival j.data) s
  else s.setPart (s.inst c.inst).part { s.part (s.inst c.inst).part with
    joins := (s.part (s.inst c.inst).part).joins ++ (s.eventParts c).filter (fun e => joinsModules c.op && bitOf c.linkMembers e.module) }

/-- A reduction's part. -/
def JoinPart.red (j : JoinPart) : RedPart := { arrival := j.arrival, args := redArgs j.data, leaves := (redArgs j.data).leaves (j.data.drop 256) }

/-- Whether every other member of MEMBERS has given its part. -/
def State.allHere (s : State) (c : JobCard) : Bool :=
  (List.range 4).all (fun m => m = s.modNum || !bitOf c.linkMembers m || (s.allParts c).any (fun e => e.module = m))

/-- NSEND's last part: what the peer answered; an OBJ is released after the rows, the colonnade's dirty lines of them written back (R412; 04
R117, R122). -/
def State.finishSend (s : State) (c : JobCard) (port : Nat) (data : List Byte) : Except Nat State :=
  let x := sendArgs c.arg
  if x.kind ≠ 0 then .ok s
  else if isPe port x.dst then
    let s1 : State := { s with mem := s.mem.writeBytes (peerAddr port (x.dst % 2 ^ 52)) (c.arg.drop 256) }
    .ok (if x.obj = 0 then s1
      else { s1 with mem := s1.mem.writeBytes (peerAddr port (x.obj % 2 ^ 52) + 8 * x.off) (leBytes 8 x.val) })
  else
    match s.rowArea c.core x.dst x.n with
    | none => .error nOperand
    | some r =>
      let e := s.areaErr c.col r (256 * x.n) true
      if e ≠ 0 then .error e
      else
        let s0 := match (if x.obj ≠ 0 then some r else none) with
          | some (.dv y) => s.flushRegions c.col [(10, y / 256, x.n)]
          | _ => s
        let s1 := s0.storeAt c.col r 0 (padTo (256 * x.n) data)
        match (if x.obj = 0 then none else s1.rowArea c.core x.obj 1) with
        | some o => .ok (s1.storeAt c.col o (8 * x.off) (leBytes 8 x.val))
        | none => .ok s1

/-- The last part of a card that waited: none while a member is missing. -/
def State.linkLast (s : State) (c : JobCard) : Option (Except Nat State) :=
  match s.ev.answer with
  | .failed code => some (.error (if code = 0 then nDown else code.toNat))
  | .done data =>
    match c.op with
    | .nsend p _ => some (s.finishSend c p.val data)
    | .nbar _ _ =>
      if !s.allHere c then none
      else if (s.allParts c).any (fun e => leAt e.data 0 1 ≠ c.linkMembers) then some (.error nMismatch)
      else some (.ok s)
    | _ =>
      let x := redArgs c.arg
      if !s.allHere c then none
      else
        let own : RedPart := { arrival := isArrival c.op, args := x, leaves := x.leaves (c.arg.drop 256) }
        match redResolve own ((s.allParts c).map JoinPart.red) with
        | .error e => some (.error e)
        | .ok v => some (.ok (s.putRed c x v))

/-- The rows that a card's first part reads: what it sends, the leaves it adds, or the ring entries that it receives (R411, R413, R415). -/
def State.linkAreas (s : State) (c : JobCard) : List Area :=
  if c.key ≠ 0 && (match c.op with | .nrecv _ _ _ _ => false | _ => true) then []
  else
    let red : List Area :=
      let x := redArgs c.arg
      match s.rowArea c.core (leAt c.arg 0 8) (x.nl * x.nr) with
      | some r => [⟨c.col, r, 256 * x.nl * x.nr⟩]
      | none => []
    match c.op with
    | .nsend _ _ =>
      let x := sendArgs c.arg
      (match s.rowArea c.core x.src x.n with | some r => [⟨c.col, r, 256 * x.n⟩] | none => [])
    | .nred _ _ => red
    | .nredArrival _ _ => red
    | .nrecv _ _ nc g =>
      (List.range (4 ^ nc.val)).map (fun i => ⟨c.col, .row (((s.col c.col).ring g.val).entry c.col (mod20 (c.key.toNat + i))), 256⟩)
    | _ => []

/-- The rows that an NSEND performed in the peer's memory before it failed stay: as many as its answer says (R409). -/
def State.performedRows (s : State) (c : JobCard) : State :=
  let x := sendArgs c.arg
  match c.op with
  | .nsend p _ =>
    if c.key = 0 || x.kind ≠ 0 || !isPe p.val x.dst then s
    else { s with mem := s.mem.writeBytes (peerAddr p.val (x.dst % 2 ^ 52)) ((c.arg.drop 256).take (256 * s.ev.count)) }
  | _ => s

/-- The rows that a card writes: what it asked for, a reduction's elements, or the entries received (R411, R413, R415). -/
def State.linkDests (s : State) (c : JobCard) : List Area :=
  match c.op with
  | .nsend p _ => if isPe p.val (sendArgs c.arg).src then s.areaAt c.core (sendArgs c.arg).dst (256 * (sendArgs c.arg).n) else []
  | .nred _ _ => s.areaAt c.core (leAt c.arg 8 8) (256 * (redArgs c.arg).nr)
  | .nredArrival _ _ => s.areaAt c.core (leAt c.arg 8 8) (256 * (redArgs c.arg).nr)
  | .nrecv _ _ nc _ => s.areaAt c.core c.operand.toNat (256 * 4 ^ nc.val)
  | _ => []

/-- A card fails with a code; an absent address of this module is told to the front end (R409). -/
def State.failLink (s : State) (q : QueueRef) (c : JobCard) (e : Nat) : State :=
  (if e = 4 then s.tellAbsent c.inst (s.linkAreas c ++ s.linkDests c) else s).endLinkCard q c e

/-- Whether what comes in cannot be the peer's answer to an NSEND yet, since a message takes 396 cycles each way (R401); what the members of
a joint card send may be here before, and a port's going DOWN needs no answer. -/
def State.early (s : State) (c : JobCard) : Bool :=
  (match c.op with | .nsend _ _ => true | _ => false) && decide (s.wall + 1 < c.key.toNat + 2 * 396) &&
  (match s.ev.answer with | .done _ => true | .failed code => code ≠ 0 && code.toNat ≠ nDown)

/-- LINK_CARD_COMPLETION (R407 to R418): the first part of a card runs when its engine comes to it; a card that needs its peers then
waits for the event that brings their answers. -/
def execLinkCardCompletion (s : State) : Host.Outcome State Fault Refusal :=
  let q := s.ev.q
  s.withCard State.linkAreas (fun s c =>
    match c.op with
    | .nrecv _ _ nc g =>
      match s.receiveRows c (4 ^ nc.val) g.val with
      | none => .next (s.tryLater q c)
      | some (.error e) => .next (s.failLink q c e)
      | some (.ok s1) => .next (s1.endLinkCard q c 0)
    | _ =>
      if c.key = 0 then
        if joinsModules c.op && !s.ev.rows.isEmpty then .next (s.keepParts c)
        else match s.linkFirst c with
          | .failed e => .next (s.failLink q c e)
          | .done s1 => .next (s1.endLinkCard q c 0)
          | .waits s1 c1 => .next (s1.modQueue q (fun u => { u with running := some c1 })).wakeJoins
      else if s.ev.opt.isSome then .next s
      else if s.early c then .next s
      else
        match s.linkLast c with
        | none => .next (s.keepParts c)
        | some (.error e) => .next ((s.performedRows c).failLink q c e)
        | some (.ok s1) => .next (s1.endLinkCard q c 0))

/-! ### ACQ and REL of homes outside the core (06 R201, R202; R419) -/

/-- ACQ_VERSION_RETURN: the home returns the version: of a device object, from its burst; of a peer's, the 32 bytes that come in.
A device object whose page is absent waits for it. -/
def execAcqVersionReturn (s : State) : Host.Outcome State Fault Refusal :=
  let k := s.ev.core
  if !(s.core k).acqAsked then .next s
  else if s.ev.tag = 10 then
    match s.readDv k s.ev.addr 32 with
    | some d => .next (s.modCore k (fun c => { c with acqData := some d }))
    | none => .next (s.eventAt (s.wall + 11) .acqVersionReturn s.ev)
  else .next (s.modCore k (fun c => { c with acqData := some (padTo 32 s.ev.bytes) }))

/-- UNTIMED_REL: the dirty lines of the bound regions are written back, then the object's field is written at its home: a row, a
device burst, or a peer's burst, which needs the port, UP and paired, and goes before what cards send (14 R403, R419). One that an ACQ has
performed already is over (log entry 104). -/
def execUntimedRel (s : State) : Host.Outcome State Fault Refusal :=
  let e := s.ev
  let again : Event := ⟨.untimedRel, e⟩
  if e.gen ≠ 0 && !(s.core e.core).rels.any (fun r => r.gen = e.gen) then .next s
  else if (s.flushRegions (colOf e.core) (regionsOfFlat e.cols)).relHeld e then
    .next ((s.flushRegions (colOf e.core) (regionsOfFlat e.cols)).eventAt (s.wall + 11) .untimedRel e)
  else if e.tag ≤ 8 then s.throughPort e.value [] [] (fun s => .next (s.performRel e)) again
  else if e.tag = 10 then
    if (s.unitOf e.core (e.addr * 256)).isNone then .next (s.eventAt (s.wall + 11) .untimedRel e)
    else s.throughPort e.value [] [] (fun s => .next (s.performRel e)) again
  else if !s.portReady (e.tag - 10) (s.instOf e.core).part then .next (s.eventAt (s.wall + 11) .untimedRel e)
  else
    s.throughPort e.value [] [] (fun s =>
      let s1 := s.flushRegions (colOf e.core) (regionsOfFlat e.cols)
      let s2 := (s1.modCore e.core (fun c => { c with rels := c.rels.filter (fun r => r.gen ≠ e.gen) })).sendMessages (e.tag - 10) true
        [((s.link (e.tag - 10)).peerOf (s.instOf e.core).part).getD 0, 3, e.addr * 256 + e.index] [padTo 256 e.bytes]
      .next { s2 with mem := s2.mem.writeBytes (peerAddr (e.tag - 10) (e.addr * 256) + e.index) e.bytes }) again

end Sys2Proof.Machine
end

