-- ==== Sys2Proof/Machine/FrontEnd.lean ====
section
/-! DEFINITION. The front end at work on instances: launches, placement and restore, pre-emption and its saves, endings, and the power
that placements are charged (15 R425 to R432, R441; 09 R288; 16 R453, R454). -/

namespace Sys2Proof.Machine

/-! ### Statuses (15 R427, R429, R440) -/

def stDone : Nat := 0x00
def stEmpty : Nat := 0x01
def stRange : Nat := 0x02
def stImage : Nat := 0x03
def stRefused : Nat := 0x04
def stShape : Nat := 0x05
def stObject : Nat := 0x06
def stFault : Nat := 0x07
def stKilled : Nat := 0x08
def stReclaimed : Nat := 0x09
def stThermal : Nat := 0x0A
def feOperand : Nat := 1
def feNoGraph : Nat := 2
def feFull : Nat := 3
def feNoIdle : Nat := 4
def feNoLease : Nat := 5
def feDenied : Nat := 6
def feBusy : Nat := 7

/-- One transaction of the Journal, whose records and commit record are durable before the change it stands for (15 R441): a step makes
the transaction and its change together. -/
def State.commit (s : State) : State := { s with journal := s.journal + 1 }

/-- The last `n` transactions as the Journal's 64 MiB of device memory hold them: the flat address of each and its 64 bytes, which end in the
commit record, its number (15 R441; log entry 127). -/
def State.journalTail (s : State) (n : Nat) : List (Nat × List Byte) :=
  (List.range' (s.journal - min n (2 ^ 20)) (min s.journal (min n (2 ^ 20)))).map (fun i =>
    (Config.journalPlace (i % 2 ^ 20), padTo 56 (Config.journalRecord i) ++ leBytes 8 i))

/-- Change an instance, a launch, a partition. -/
def State.modInst (s : State) (i : Nat) (f : Inst → Inst) : State := s.setInst i (f (s.inst i))
def State.launch (s : State) (l : Nat) : Launch := FMap.get {} s.launches l
def State.modLaunch (s : State) (l : Nat) (f : Launch → Launch) : State := { s with launches := FMap.modify {} s.launches l f }
def State.modPart (s : State) (p : Nat) (f : Partition → Partition) : State := s.setPart p (f (s.part p))
def State.lease (s : State) (l : Nat) : Lease := FMap.get {} s.leases l
def State.modLease (s : State) (l : Nat) (f : Lease → Lease) : State := { s with leases := FMap.modify {} s.leases l f }

/-- The least number from 1 on that is no key of a map. -/
def firstGap {α : Type} (m : FMap α) : Nat :=
  (((List.range (m.length + 1)).map (· + 1)).find? (fun n => m.all (fun p => p.1 ≠ n))).getD 0

/-- A number above every key of a map, at least 1. -/
def freshKey {α : Type} (m : FMap α) : Nat := m.foldl (fun n p => max n (p.1 + 1)) 1

/-- Tell whoever waits that a piece of work is complete: a completion record, or the card (15 R424, R439). -/
def State.answer (s : State) (r : Reply) (status : Nat) (detail : List Byte) : State :=
  match r with
  | .none => s
  | .entry p q n => { s with completions := s.completions ++ [⟨p, q, n, status, padTo 16 detail⟩] }
  | .card q n => s.eventAt (s.wall + 1) .frontEndCardCompletion { q := q, opt := some n, flag := true, value := status, bytes := detail }

/-! ### Power charges (16 R453, R454) -/

/-- Watts per colonnade of an energy class. -/
def classWatts (e : Nat) : Nat := 8 + 3 * e

/-- The colonnade budget of a power mode: 0 220 W, 1 320 W, 2 450 W. -/
def modeBudget (m : Nat) : Nat := match m with | 0 => 136 | 1 => 236 | _ => 366

/-- The cap of a power mode in milliwatts. -/
def modeCap (m : Nat) : Nat := match m with | 0 => 220000 | 1 => 320000 | _ => 450000

/-- The charge of the colonnades that run instances, but for the instances of a list. -/
def State.runCharge (s : State) (without : List Nat) : Nat :=
  (List.range Config.nCols).foldl (fun n c => match (s.col c).inst with
    | some i => if without.contains i then n else n + classWatts (s.inst i).object.energy
    | none => n) 0

/-- Gate every idle colonnade that does not fit the budget, or is held hot; power the others (16 R454, R457). -/
def State.regate (s : State) : State :=
  ((List.range Config.nCols).foldl (fun (a : State × Nat) c =>
    let co := a.1.col c
    if co.inst.isSome then a
    else
      let on := !co.heldHot && a.2 + 5 ≤ modeBudget a.1.powerMode
      (a.1.modCol c (fun co => { co with gated := !on }), if on then a.2 + 5 else a.2)) (s, s.runCharge [])).1

/-! ### Choosing colonnades (01 R14, R44; 15 R428, R433) -/

/-- Whether a partition may place an object on a colonnade, as far as ownership, loans, heat and service go. -/
def State.mayUse (s : State) (o : Object) (part c : Nat) : Bool :=
  let co := s.col c
  !co.heldHot && !co.draining && !co.retired &&
    (match co.lentTo with
     | some b => b = part && o.lent && (match co.lease with | some l => (s.lease l).since.isNone | none => true)
     | none => (s.part part).cols.contains c)

/-- Colonnades for a shape, by logical colonnade, lowest first; `leaving` are instances whose colonnades count as free. -/
def State.pickPlace (s : State) (o : Object) (part : Nat) (leaving : List Nat) : Option (List (Nat × Nat)) :=
  let free (c : Nat) : Bool := s.mayUse o part c && (match (s.col c).inst with | none => true | some i => leaving.contains i)
  let mains := ((List.range Config.draftCol).filter free).take o.mains
  if mains.length < o.mains || (o.draft = 1 && !free Config.draftCol) then none
  else some (mains.zipIdx.map (fun p => (p.2, p.1)) ++ (if o.draft = 1 then [(Config.draftCol, Config.draftCol)] else []))

/-- Whether the charges after a placement fit the budget. -/
def State.powerFits (s : State) (o : Object) : Bool :=
  s.runCharge [] + (o.mains + o.draft) * classWatts o.energy ≤ modeBudget s.powerMode

/-- Whether a partition has a colonnade for an object: its own, or one lent to it when the object is LENT. -/
def State.hasFor (s : State) (o : Object) (part c : Nat) : Bool :=
  (s.part part).cols.contains c || (o.lent && (s.col c).lentTo = some part)

/-- The main colonnades that a partition has on offer for an object (01 R17). -/
def State.mainsOf (s : State) (o : Object) (part : Nat) : Nat := ((List.range Config.draftCol).filter (s.hasFor o part)).length

/-- Whether a shape is one that a partition has (15 R427 row 7). -/
def State.shapeFits (s : State) (o : Object) (part : Nat) : Bool :=
  o.mains ≤ s.mainsOf o part && (o.draft = 0 || s.hasFor o part Config.draftCol)

/-! ### Reading and checking a launch directory (15 R426, R427) -/

/-- What stops a launch: a status and its detail. -/
abbrev LaunchErr := Nat × List Byte

/-- Why a saved image's header is refused (05 R166): MAGIC and VERSION, shape, object; `o7` where its ODIGEST lies. -/
def imageErr (o : Object) (magic o7 : Nat) (h : List Byte) : Option LaunchErr :=
  if leAt h 0 4 ≠ magic || leAt h 4 2 ≠ 1 then some (stImage, [])
  else if leAt h 6 1 ≠ o.mains || leAt h 7 1 ≠ o.draft then
    some (stShape, leBytes 1 (leAt h 6 1) ++ leBytes 1 (leAt h 7 1) ++ leBytes 1 o.mains ++ leBytes 1 o.draft)
  else if (h.drop o7).take 8 ≠ o.digest.take 8 then some (stObject, [])
  else none

/-- Bytes of running state that follow a colonnade record, from its slot headers (15 R430). -/
def recordTail (fixed : List Byte) : Nat :=
  (chunksOf 768 16 (fixed.drop 0x22F30)).foldl (fun n h => if leAt h 75 1 = 1 then n + stateBytes (padTo 256 (h.take 64)) else n) 0

/-- A colonnade record in memory. -/
def State.readRecord (s : State) (part x : Nat) : Option (List Byte) :=
  (s.readWindow part x 0x25F30).bind (fun f =>
    match recordTail f with
    | 0 => some f
    | n => (s.readWindow part (x + 0x25F30) n).map (f ++ ·))

/-- A context image in memory. -/
def State.readContext (s : State) (part x : Nat) : Option (List Byte) :=
  (s.readWindow part x 128).bind (fun h => (s.readWindow part (x + 128) (leAt h 0x7C 4)).map (h ++ ·))

/-- The launch's DATA: a section descriptor of type 7 whose OFFSET counts from its own first byte (log entry 33). -/
def State.readExtra (s : State) (part x : Nat) : Option (List Byte) :=
  (s.readWindow part x 16).bind (fun d => (s.readWindow part (x + leAt d 8 4) (leAt d 12 4)).map (d ++ ·))

/-- Read the images a directory names; the first that is refused. -/
def State.readImages (s : State) (part : Nat) (o : Object) (d : List Byte) (first : Bool) (l : Launch) : Except LaunchErr Launch :=
  let recs : Except LaunchErr Launch := o.cols.foldl (fun (a : Except LaunchErr Launch) c =>
    match a with
    | .error e => .error e
    | .ok l =>
      match leAt d (0x20 + 8 * c) 8 with
      | 0 => .ok l
      | x => match s.readRecord part x with
        | none => .error (stImage, [])
        | some r => match imageErr o 0x594C4352 16 r with
          | some e => .error e
          | none => .ok { l with records := FMap.set [] l.records c r }) (.ok l)
  if first then recs
  else o.coreIds.foldl (fun (a : Except LaunchErr Launch) k =>
    match a with
    | .error e => .error e
    | .ok l =>
      match s.readContext part (leAt d (0x88 + 8 * (k.1 * 8 + k.2)) 8) with
      | none => .error (stImage, [])
      | some r => match imageErr o 0x594C4358 0x48 r with
        | some e => .error e
        | none => .ok { l with contexts := FMap.set [] l.contexts (k.1 * 8 + k.2) r }) recs

/-- The bytes of a code object's file from its header and section descriptors (02 R75, R76). -/
def State.objectLength (s : State) (part x : Nat) : Nat :=
  let n := 16 * leAt ((s.readWindow part x 96).getD []) 6 2
  (chunksOf 16 (n / 16) ((s.readWindow part (x + 96) n).getD [])).foldl (fun m d => max m (leAt d 8 4 + leAt d 12 4)) (96 + n)

/-- The access units that a launch reads: its directory, its object, and the records and contexts that it names (15 R426; 09 R281). -/
def State.launchUnits (s : State) (part dir : Nat) : List PortUnit :=
  let d := (s.readWindow part dir 0x3C8).getD []
  let images := (List.range 117).flatMap (fun i =>
    match leAt d (0x20 + 8 * i) 8 with
    | 0 => []
    | x => s.windowUnits part x (if i < 13 then ((s.readRecord part x).getD []).length else ((s.readContext part x).getD []).length))
  s.windowUnits part dir 0x3C8 ++
    (if d.isEmpty then [] else s.windowUnits part (leAt d 0x10 8) (s.objectLength part (leAt d 0x10 8))) ++
    (if bitOf (leAt d 6 1) 0 then [] else images)

/-- The checks of LAUNCH in their order (15 R427). -/
def State.checkLaunch (s : State) (part dir : Nat) : Except LaunchErr Launch :=
  match s.readWindow part dir 0x3C8 with
  | none => .error (stImage, [])
  | some d =>
    let flags := leAt d 6 1; let cnt := leAt d 8 4; let base := leAt d 12 2
    let first := bitOf flags 0
    if leAt d 0 4 ≠ 0x594C4C44 || leAt d 4 2 ≠ 1 || 2 ≤ flags || 13 < leAt d 7 1 || 2 ^ 17 ≤ cnt then .error (stImage, [])
    else if 65536 < cnt || 65536 < base + cnt then .error (stRange, [])
    else if cnt = 0 then .error (stEmpty, [])
    else if !first && cnt ≠ 1 then .error (stRange, [])
    else
      match loadObject (fun off n => s.readWindow part (leAt d 0x10 8 + off) n) with
      | none => .error (stRefused, [])
      | some o =>
        let l : Launch := { part := part, object := o, objAddr := leAt d 0x10 8, base := base, count := cnt, first := first }
        match s.readImages part o d first l with
        | .error e => .error e
        | .ok l =>
          if !s.shapeFits o part then
            .error (stShape, leBytes 1 o.mains ++ leBytes 1 o.draft ++ leBytes 1 (s.mainsOf o part) ++
              leBytes 1 (if s.hasFor o part Config.draftCol then 1 else 0))
          else match leAt d 0x18 8 with
            | 0 => .ok l
            | x => match s.readExtra part x with
              | none => .error (stImage, [])
              | some b =>
                if leAt b 0 2 = 7 && o.cols.contains (leAt b 4 1) && dataOk (leAt b 5 1) (b.drop 16) then .ok { l with data := b }
                else .error (stImage, [])

/-- Start a launch for whoever asked: its completion at once, or its number; the queue it holds is the caller's (15 R424, R427). -/
def State.startLaunch (s : State) (part queue pos prio dir : Nat) : State × Option Nat :=
  match s.checkLaunch part dir with
  | .error e => (s.commit.answer (.entry part queue pos) e.1 e.2, none)
  | .ok l =>
    let n := freshKey s.launches
    ({ s.commit with launches := FMap.set {} s.launches n { l with queue := queue, pos := pos, priority := prio } }, some n)

/-! ### Release of a group (05 R166; 01 R20) -/

/-- The wall cycle at which a group is released: 40 cycles on, at the CK phase of its schedule cycle. -/
def State.releaseAt (s : State) (sched : Nat) : Nat :=
  let w := s.wall + Config.releaseDelay
  w + (sched + 11 * ((w + Config.ckPhase) / 11 + 1) - (w + Config.ckPhase)) % 11

/-! ### Placement (15 R428; 05 R166) -/

/-- The image of a core for a placement. -/
def Launch.context (l : Launch) (i : Inst) (logical core : Nat) : List Byte :=
  match i.saved.find? (fun p => p.1 = logical * 16 + 1 + core) with
  | some p => p.2
  | none => match FMap.get [] l.contexts (logical * 8 + core) with
    | [] => firstContext i.object logical core
    | d => d

/-- The record of a colonnade for a placement; empty where its launch values stand. -/
def Launch.record (l : Launch) (i : Inst) (logical : Nat) : List Byte :=
  match i.saved.find? (fun p => p.1 = logical * 16) with
  | some p => p.2
  | none => FMap.get [] l.records logical

/-- Put an instance's parts on a colonnade: code, data of a first launch, the record, the contexts. -/
def State.fillCol (s : State) (n logical col : Nat) : State :=
  let i := s.inst n
  let l := s.launch i.launch
  let fromImage := i.saved.isEmpty
  let s := (s.scrubCol col).modCol col (fun c => { c with inst := some n, logical := logical, part := i.part, gated := false })
  let s := (List.range 8).foldl (fun s k => s.loadCore i.object i.variant l.objAddr logical (col * 8 + k)) s
  let s := if fromImage && l.first then
      let s := s.loadColData i.object logical col
      if leAt l.data 4 1 = logical && !l.data.isEmpty
      then s.loadRows (col * 8 + (if leAt l.data 5 1 ≤ 7 then leAt l.data 5 1 else 0)) (l.data.drop 16) else s
    else s
  let sched := leAt (l.context i logical 0) 0x18 8
  let s := match l.record i logical with
    | [] => s
    | d => s.restoreCol col n sched d fromImage
  (List.range 8).foldl (fun s k => s.restoreCore (col * 8 + k) (l.context i logical k)) s

/-- Whether an entry of an agenda is a publication on its way to a ring of a colonnade. -/
def Item.toRing (it : Item) (col : Nat) : Bool :=
  match it.work with | .ringTail c _ _ _ _ => c = col | .place c _ _ _ _ _ _ => c = col | _ => false

/-- Publications still on their way to rings of a colonnade take place now. -/
def State.flushRings (s : State) (col : Nat) : State :=
  (s.agenda.filter (·.toRing col)).foldl (fun s it => match it.work with
    | .ringTail c g start n copied => doRingTail s c g start n copied
    | .place c g start rows _ _ reply =>
      ((s.writeEntries c g start rows).publishRing c g start rows.length).reply reply
    | _ => s) { s with agenda := s.agenda.filter (fun it => !it.toRing col) }

/-! ### Cards of a pre-empted instance run on (15 R431) -/

/-- The colonnades on which an instance stood last. -/
def Inst.stood (i : Inst) : List Nat := i.cols.map (fun p => p.2 - 1)

/-- The device as a card of a pre-empted instance finds it: what was saved stands on the colonnades that the instance left, beside the channels
and their traffic as they are (15 R431; log entry 23). -/
def State.intoRecord (s : State) (n : Nat) : State :=
  let i := s.inst n
  let t := i.cols.foldl (fun t p => t.fillCol n p.1 (p.2 - 1)) (s.setInst n { i with placed := true })
  i.stood.foldl (fun t c => t.modCol c (fun co => { co with group := (s.col c).group, reqs := (s.col c).reqs }))
    { t with agenda := s.agenda.filter (fun it => !i.stood.any it.toRing) }

/-- The rows of a context image's body as memory now has them (05 R165). -/
def State.saveRows (s : State) (k : Nat) (d : List Byte) : List Byte :=
  let l := if leAt d 11 1 = 0 then (s.liveMaps k)[leAt d 0x78 4]?.getD {} else {}
  let rows := l.extents.flatMap (fun e => (List.range e.2.2).flatMap (fun j => s.readRow (rowAt k e.1 (e.2.1 + j))))
  d.take (d.length - rows.length) ++ rows

/-- The rings, line counts and overflow bits of a colonnade's record as they stand now (15 R430). -/
def State.saveLines (s : State) (col : Nat) (d : List Byte) : List Byte :=
  let c := s.col col
  patchBytes (patchBytes d 0x40 ((List.range 64).flatMap (fun n => (c.ring n).image))) 0xE40
    ((List.range 128).flatMap (fun n => leBytes 1 (FMap.get 0 c.counts n)) ++ bytesOfBits 16 (fun b => FMap.get false c.sticky b))

/-- What a card has made of a saved instance is saved, and its colonnades are again as `s` had them. -/
def State.outOfRecord (t s : State) (n : Nat) : State :=
  let i := s.inst n
  let cols := i.stood
  let t := cols.foldl State.flushRings t
  let new := (s.intoRecord n).agenda.foldl List.erase t.agenda
  let saved := (t.inst n).saved.map (fun p =>
    match FMap.get 0 i.cols (p.1 / 16) with
    | 0 => p
    | c + 1 => (p.1, if p.1 % 16 = 0 then t.saveLines c p.2 else t.saveRows (c * 8 + (p.1 % 16 - 1)) p.2))
  let here (a : Nat) : Bool := cols.any (fun c => inColonnade c a)
  let t := cols.foldl (fun t c => t.setCol c { s.col c with reqs := (t.col c).reqs }) (t.setInst n { t.inst n with saved := saved, placed := false })
  { t with
    mem := FMap.weave (t.mem.filter (fun p => !here p.1)) (s.mem.filter (fun p => here p.1)),
    tags := FMap.weave (t.tags.filter (fun p => !here (p.1 * 256))) (s.tags.filter (fun p => here (p.1 * 256))),
    cores := FMap.weave (t.cores.filter (fun p => !cols.contains (colOf p.1))) (s.cores.filter (fun p => cols.contains (colOf p.1))),
    da := FMap.weave (t.da.filter (fun p => !cols.contains (p.1 / 16))) (s.da.filter (fun p => cols.contains (p.1 / 16))),
    olds := s.olds, agenda := new.foldl (fun l it => insertItem it l) s.agenda }

/-- Cards of an instance that stayed in their queues now name where it stands (15 R431). -/
def State.moveCards (s : State) (n : Nat) : State :=
  let go (c : JobCard) : JobCard :=
    if c.inst ≠ n then c
    else match s.physOf n c.logical with
      | some p => { c with col := p, core := p * 8 + coreNo c.core }
      | none => c
  { s with queues := s.queues.map (fun p =>
      (p.1, { cards := p.2.cards.map go, transit := p.2.transit.map go, running := p.2.running.map go })) }

/-- The credits taken by an instance's cards that have not started (01 R30). -/
def State.countCredits (s : State) (n : Nat) : State :=
  s.queues.foldl (fun s p =>
    (p.2.cards ++ p.2.transit).foldl (fun s c =>
      if c.inst ≠ n then s
      else s.modCol c.col (fun co => { co with credits := FMap.modify 0 co.credits (p.1 / 256 * 16 + p.1 % 16) (· + 1) })) s) s

/-- Decode attention and Stacks cards kept at a pre-emption return to their queues. -/
def State.unpark (s : State) (n : Nat) : State :=
  (s.inst n).parked.foldl (fun s p =>
    match s.physOf n p.2.logical with
    | some col => s.putCards (engineOf (p.1 / 16)) col [(p.1 % 16, { p.2 with col := col, core := col * 8 + coreNo p.2.core })]
    | none => s) s

/-- The timing groups of an instance, made at its first placement and moved at a later one, each about to be released. -/
def State.setGroups (s : State) (n : Nat) : State :=
  let i := s.inst n
  let l := s.launch i.launch
  let base := freshKey s.groups
  i.object.groups.zipIdx.foldl (fun s p =>
    let g := (i.groups[p.2]?).getD (base + p.2)
    let cols := p.1.filterMap (fun c => s.physOf n c)
    let logical := p.1.headD 0
    let h := l.context i logical 0
    let frag := (l.record i logical).drop 0xF10
    let s := s.modGroup g (fun gr => { ({} : Group) with
      inst := n, index := p.2, cols := cols, phase := .releasing (s.releaseAt (leAt h 0x18 8)) (gr.phase = .preempted), sched := leAt h 0x18 8,
      stalls := if gr.phase = .preempted then gr.stalls else leAt h 0x20 8, started := gr.started, lastEntry := gr.lastEntry,
      fragIndex := leAt frag 0 1, fragValid := leAt frag 1 1 = 1 })
    let s := s.modInst n (fun i => if i.groups.contains g then i else { i with groups := i.groups ++ [g] })
    cols.foldl (fun s c => s.modCol c (fun co => { co with group := g })) s) s

/-- Place an instance on colonnades (by logical colonnade) and let its groups be released. -/
def State.placeInst (s : State) (n : Nat) (pl : List (Nat × Nat)) : State :=
  let s := (s.commit.modInst n (fun i => { i with
    cols := pl.foldl (fun m p => FMap.set 0 m p.1 (p.2 + 1)) [], placed := true, waiting := false, placing := false,
    order := s.journal + 1 }))
  let s := pl.foldl (fun s p => s.fillCol n p.1 p.2) s
  let s := ((s.setGroups n).moveCards n).unpark n
  let s := (s.countCredits n).modInst n (fun i => { i with saved := [], parked := [] })
  let l := (s.inst n).launch
  let s := s.modLaunch l (fun x => { x with thermal := x.thermal && x.insts.any (fun m => m ≠ n && (s.inst m).held) })
  (s.deliverHeld n).regate

/-- Who asked for a checkpoint is told once every group has been released again (15 R439). -/
def State.serveRestored (s : State) : State :=
  s.insts.foldl (fun s p => match p.2.restored with
    | some r =>
      if p.2.placed && p.2.groups.all (fun g => match (s.group g).phase with | .releasing _ _ => false | .preempted => false | _ => true) then
        (s.modInst p.1 (fun i => { i with restored := none })).answer r stDone []
      else s
    | none => s) s

/-- The next instance of a launch. -/
def State.nextInst (s : State) (l : Nat) : State × Nat :=
  let x := s.launch l
  let n := freshKey s.insts
  let number := if x.first then x.base + x.next
    else match x.records with | (_, r) :: _ => leAt r 10 2 | [] => x.base
  let s := s.setInst n { number := number, part := x.part, queue := x.queue, launch := l, object := x.object, priority := x.priority }
  (s.modLaunch l (fun x => { x with next := x.next + 1, insts := x.insts ++ [n] }), n)

/-- Once its last instance is placed, a LAUNCH holds its queue no more (15 R424). -/
def State.letQueue (s : State) (l : Nat) : State :=
  let x := s.launch l
  if x.next < x.count then s
  else s.modPart x.part (fun p => { p with subs := p.subs.map (fun q =>
    if q.2.launch = some l then (q.1, { q.2 with launch := none }) else q) })

/-! ### What waits for placement (15 R425) -/

/-- An instance or the next instance of a launch that waits. -/
structure Waiter where
  isInst : Bool
  number : Nat
  launch : Nat
  priority : Nat
  object : Object
  placing : Bool
deriving DecidableEq, Repr

/-- What waits for placement in a partition: pre-empted instances, the last pre-empted first, and launches in their order; a launch whose
queue has a pre-empted instance at its head waits behind it. -/
def State.waiters (s : State) (part : Nat) : List Waiter :=
  let back := s.insts.filter (fun p => p.2.part = part && p.2.waiting && !p.2.held && p.2.status.isNone)
  let sorted := back.foldl (fun (acc : List (Nat × Inst)) x =>
    acc.takeWhile (fun y => x.2.savedAt < y.2.savedAt) ++ x :: acc.dropWhile (fun y => x.2.savedAt < y.2.savedAt)) []
  let ls := s.launches.filter (fun p => p.2.part = part && !p.2.finished && p.2.next < p.2.count &&
    back.all (fun q => q.2.queue ≠ p.2.queue))
  sorted.map (fun p => ⟨true, p.1, p.2.launch, p.2.priority, p.2.object, p.2.placing⟩) ++
    ls.map (fun p => ⟨false, 0, p.1, p.2.priority, p.2.object, p.2.placing⟩)

/-- Whether nothing of a higher priority waits for placement in a partition (15 R425). -/
def State.mayPlace (s : State) (part priority : Nat) : Bool := (s.waiters part).all (fun w => priority ≤ w.priority)

/-- INSTANCE_PLACEMENT: the instance, or the next one of a launch, is placed when nothing of a higher priority waits and colonnades and power
still allow it (15 R425, R428; 16 R454). -/
def execInstancePlacement (s : State) : Host.Outcome State Fault Refusal :=
  let e := s.ev
  if e.flag then
    let i := s.inst e.inst
    let s := s.modInst e.inst (fun i => { i with placing := false })
    if !i.waiting || i.held || i.status.isSome || !s.mayPlace i.part i.priority || !s.powerFits i.object || s.powerGoal.isSome then .next s
    else match s.pickPlace i.object i.part [] with
      | none => .next s
      | some pl => .next (s.placeInst e.inst pl)
  else
    let l := s.launch e.index
    let s := s.modLaunch e.index (fun l => { l with placing := false })
    if l.count ≤ l.next || l.finished || !s.mayPlace l.part l.priority || !s.powerFits l.object || s.powerGoal.isSome then .next s
    else match s.pickPlace l.object l.part [] with
      | none => .next s
      | some pl =>
        let r := s.nextInst e.index
        .next ((r.1.placeInst r.2 pl).letQueue e.index)

/-! ### Pre-emption (15 R431; 05 R162; 09 R288) -/

/-- Ask for the pre-emption of every group of an instance. -/
def State.askGroups (s : State) (n : Nat) : State :=
  (s.inst n).groups.foldl (fun s g => s.modGroup g (fun gr => { gr with preempt := true })) s

/-- Ask an instance to leave its colonnades. -/
def State.askPreempt (s : State) (n : Nat) : State := (s.modInst n (fun i => { i with evict := true })).askGroups n

/-- The decode attention engine abandons the card in progress of a colonnade: it waits again at the head of its queue (10 R299). -/
def State.abandonDecode (s : State) (col : Nat) : State :=
  (List.range 4).foldl (fun s n => s.modQueue { engine := .decode, col := col, queue := n } (fun u =>
    match u.running with
    | some c => { u with cards := { c with claimed := 0, wait := [], free := [], run := none, pages := 0, due := 0 } :: u.cards, running := none }
    | none => u)) s

/-- Everything that is saved of an instance: each colonnade's record and each core's context (15 R430; 05 R164). -/
def State.imagesOf (s : State) (n : Nat) : List (Nat × List Byte) :=
  let i := s.inst n
  i.cols.flatMap (fun p =>
    let col := p.2 - 1
    (p.1 * 16, s.saveCol i.object n i.number col) ::
      (List.range 8).map (fun k => (p.1 * 16 + 1 + k, s.saveCore i.object (col * 8 + k))))

/-- The rows of a lent colonnade's tile cache that are on their way home reach it now (15 R434). -/
def State.flushThrough (s : State) (col : Nat) : State :=
  let mine (it : Item) : Bool := match it.work with | .event ⟨.writeThrough, a⟩ => a.col = col | _ => false
  (s.agenda.filter mine).foldl (fun s it => match it.work with | .event ⟨.writeThrough, a⟩ => s.throughRow a | _ => s)
    { s with agenda := s.agenda.filter (fun it => !mine it) }

/-- Before a save: dirty lines go back, publications and the decode engine's cards are settled (15 R430, R431). -/
def State.settle (s : State) (n : Nat) : State :=
  (s.inst n).cols.foldl (fun s p =>
    let col := p.2 - 1
    let s := ((s.flushRings col).abandonDecode col).flushThrough col
    ((s.col col).lines.foldl (fun s q => s.writeBack col q.1) s).drainBacks col) s

/-- Where in a checkpoint's area each record and context lies, and where the last ends (log entry 34). -/
def State.checkpointPlaces (s : State) (n area : Nat) : List (Nat × Nat × List Byte) × Nat :=
  (s.imagesOf n).foldl (fun (a : List (Nat × Nat × List Byte) × Nat) p =>
    (a.1 ++ [(p.1, a.2, p.2)], a.2 + ceilDiv p.2.length 256 * 256)) ([], area + 1024)

/-- Lay a checkpoint out in memory: a launch directory with FIRST = 0, then the records and contexts at multiples of 256 bytes (15 R439;
log entry 34). -/
def State.writeCheckpoint (s : State) (n area : Nat) : State :=
  let i := s.inst n
  let l := s.launch i.launch
  let placed := s.checkpointPlaces n area
  let addrOf (key : Nat) : Nat := match placed.1.find? (fun p => p.1 = key) with | some p => p.2.1 | none => 0
  let dir := leBytes 4 0x594C4C44 ++ leBytes 2 1 ++ leBytes 1 0 ++ leBytes 1 i.cols.length ++ leBytes 4 1 ++ leBytes 2 i.number ++
    leBytes 2 0 ++ leBytes 8 l.objAddr ++ leBytes 8 0 ++ (List.range 13).flatMap (fun c => leBytes 8 (addrOf (c * 16))) ++
    (List.range 13).flatMap (fun c => (List.range 8).flatMap (fun k => leBytes 8 (addrOf (c * 16 + 1 + k))))
  (placed.1.foldl (fun s p => s.writeWindow i.part p.2.1 p.2.2) s).writeWindow i.part area dir

/-- Write the checkpoint that is asked of an instance, if any. -/
def State.takeCheckpoint (s : State) (n : Nat) : State :=
  match (s.inst n).checkpoint with
  | none => s
  | some (area, r) => (s.writeCheckpoint n area).modInst n (fun i => { i with checkpoint := none, restored := some r })

/-- The memory that a checkpoint asked of an instance takes: its first byte and its bytes, none without one. -/
def State.checkpointArea (s : State) (n : Nat) : Option (Nat × Nat) :=
  (s.inst n).checkpoint.map (fun c => (c.1, (s.checkpointPlaces n c.1).2 - c.1))

/-- A checkpoint whose area does not translate whole fails with OPERAND and no effect: an instance that was to freeze for it alone goes on (15
R440; log entry 128). -/
def State.refuseCheckpoint (s : State) (n : Nat) : State :=
  match (s.inst n).checkpoint with
  | none => s
  | some (_, r) =>
    let i := s.inst n
    let s := (s.modInst n (fun i => { i with checkpoint := none })).answer r feOperand []
    if i.evict || i.heat ≠ 0 then s
    else i.groups.foldl (fun s g => s.modGroup g (fun gr => { gr with
      preempt := false })) s

/-- The traps that engines have reported to the cores of an instance and that none has taken are reported to it again when it is placed
(11 R346, 14 R410). -/
def State.keepTraps (s : State) (n : Nat) : State :=
  (s.inst n).cols.foldl (fun s p => (List.range 8).foldl (fun s k =>
    (s.core ((p.2 - 1) * 8 + k)).dueTraps.foldl (fun s d =>
      s.eventAt (s.wall + 11) (if d.cause = .link then .link else .specFault)
        { inst := n, col := p.1, core := k, value := d.tval, lines := d.lines }) s) s) s

/-- Whether an event starts one of some cards, or completes one in decode attention: after a pre-emption they start again. -/
def Work.startsCard (serials : List Nat) : Work → Bool
  | .event ⟨.jobCardStart, a⟩ => a.opt.any serials.contains
  | .event ⟨.decodeAttentionCardCompletion, a⟩ => a.opt.any serials.contains
  | _ => false

/-- Save an instance whose groups have all frozen after a group safe point and which is settled (15 R431): its contexts and records, the cards of its own
queues. What the look-ahead had taken for bundles after the freeze point is not saved (log entry 114). When the save is complete the colonnades are given up, or, after a checkpoint alone, restored in place (`stay`; log entry 76). -/
def State.saveInst (s : State) (n : Nat) (stay : Bool) : State :=
  let s := (s.takeCheckpoint n).keepTraps n
  let i := s.inst n
  let imgs := s.imagesOf n
  let parked := i.cols.flatMap (fun p =>
    [Engine.decode, Engine.stacks].flatMap (fun e => (s.unstarted e (p.2 - 1) n).map (fun q => (engineCode e * 16 + q.1, q.2))))
  let serials := parked.map (fun p => p.2.serial)
  let strip (u : CardQueue) : CardQueue := { u with
    cards := u.cards.filter (fun c => !serials.contains c.serial), transit := u.transit.filter (fun c => !serials.contains c.serial) }
  let s : State := { s.commit with
    queues := s.queues.map (fun p => (p.1, strip p.2)), starting := s.starting.filter (fun p => !serials.any (· + 1 = p.2)),
    agenda := s.agenda.filter (fun it => !it.work.startsCard serials) }
  let s := s.modInst n (fun i => { i with
    saved := imgs, savedAt := s.wall, parked := parked, placed := false, saving := true, evict := false, stay := stay })
  let s := i.groups.foldl (fun s g => s.modGroup g (fun gr => { gr with phase := .preempted, agenda := [], conds := [], preempt := false })) s
  let w := s.freshSlack
  w.2.eventAt (s.wall + 1 + w.1 % 51260) .preEmption { inst := n, flag := true }

/-- Refresh debt and its clock restart at 0 in a saved record: for a release under another refresh class (09 R288). -/
def restartDebt (d : List Byte) : List Byte :=
  (List.range 4).foldl (fun d h => patchBytes d (0xF30 + 512 * h + 292) (List.replicate 12 0)) d

/-- The lent extent of a colonnade (15 R433): the first and the number of the bytes lent of each of its channels, the last MEM MiB of each
(log entry 129). -/
def State.extentOf (s : State) (col : Nat) : List (Nat × Nat) :=
  let n := (s.col col).memExtent * 2 ^ 20
  (List.range (Config.channelsOf col)).map (fun ch => (dramAddr col ch 0 0 0 + (2 ^ 34 - n), n))

/-- What is saved of an instance on leased colonnades lies in the lent extent of their channels, from the first byte on, a colonnade's
record and then its contexts (15 R435; log entry 129). -/
def State.fillExtents (s : State) (n : Nat) : State :=
  let i := s.inst n
  i.cols.foldl (fun s p =>
    match (s.col (p.2 - 1)).lease, (s.extentOf (p.2 - 1)).head? with
    | some _, some x =>
      { s with mem := s.mem.replace x.1 ((i.saved.filter (fun q => q.1 / 16 = p.1)).flatMap (·.2)) }
    | _, _ => s) s

/-- A lent extent is scrubbed before it returns to its lender (15 R435). -/
def State.scrubExtents (s : State) (l : Lease) : State :=
  l.all.foldl (fun s c => (List.range (Config.channelsOf c)).foldl (fun (s : State) ch =>
    { s with mem := s.mem.scrub (dramAddr c ch 0 0 0 + (2 ^ 34 - l.mem * 2 ^ 20)) (l.mem * 2 ^ 20) }) s) s

/-- A colonnade is given up: its launch values, and power by the budget. -/
def State.leaveCols (s : State) (n : Nat) : State :=
  ((List.range Config.nCols).foldl (fun s c => if (s.col c).inst = some n then s.scrubCol c else s) s).regate

/-- Post an entry to a partition's event ring, which `State.serveHost` then writes to host memory before it raises the vector: false where it
has no room (16 R447, R448; log entry 35). -/
def State.post (s : State) (part vector : Nat) (payload : List Byte) : State × Bool :=
  let p := s.part part
  let size := (FMap.get 0 p.regs 0x2008).toNat
  let head := (FMap.get 0 p.regs 0x2000).toNat
  if size ≤ p.events.length - head then (s, false)
  else (s.setPart part { p with events := p.events ++ [(vector, padTo 64 payload)] }, true)

/-- The events of power and heat in an event ring (log entry 35). -/
def evPower : List Byte := [1]
def evThermalWarn : List Byte := [2]
def evThermal : List Byte := [3]

/-- The save of an instance is complete: after a checkpoint alone it is released again in place; else its colonnades are free, and it waits at the head of its queue, or is held with THERMAL (09 R288;
15 R425; 16 R457). -/
def State.saveDone (s : State) (n : Nat) : State :=
  let i := s.inst n
  if !i.saving then s
  else if i.stay && !i.evict && i.heat = 0 then
    (s.modInst n (fun i => { i with saving := false, stay := false })).placeInst n (i.cols.map (fun p => (p.1, p.2 - 1)))
  else
    let s := match i.cols.findSome? (fun p => (s.col (p.2 - 1)).lease) with
      | some l => (s.fillExtents n).modLease l (fun x => { x with extent := x.extent ++ [n] })
      | none => s
    let s := s.leaveCols n
    let relaunch := i.heat = 1 || i.heat = 3
    let s := s.modInst n (fun i => { i with
      saving := false, stay := false, evict := false, waiting := true, heat := 0, held := i.heat = 2 && !i.hotCols.isEmpty,
      variant := if i.heat = 1 then 1 else if i.heat = 3 then 0 else i.variant,
      saved := if relaunch then i.saved.map (fun p => if p.1 % 16 = 0 then (p.1, restartDebt p.2) else p) else i.saved })
    if i.heat = 2 && !i.hotCols.isEmpty then ((s.modLaunch i.launch (fun l => { l with thermal := true })).post i.part 0 evThermal).1 else s

/-- PRE_EMPTION: a group has frozen after its group safe point; when every group of its instance has, the instance is saved, or only its
checkpoint is written (15 R431), through reserved slots where its channels are held (09 R281); dirty rows whose page is absent keep it waiting for
the page (15 R430); then the end of the save. -/
def execPreEmption (s : State) : Host.Outcome State Fault Refusal :=
  if s.ev.flag then .next (s.saveDone s.ev.inst)
  else
    let n := (s.group s.ev.group).inst
    let i := s.inst n
    let there (g : Nat) : Bool := (s.group g).ending || (s.group g).conds.contains .preempt
    if !i.placed || i.status.isSome || !i.groups.all there then .next s
    else
      let t := s.settle n
      let since := if s.ev.value = 0 then s.wall else s.ev.value
      let area := (t.checkpointArea n).getD (0, 0)
      let units := t.windowUnits i.part area.1 area.2 true
      if i.cols.any (fun p => !(t.col (p.2 - 1)).backs.isEmpty) then .next (t.eventAt (s.wall + 11) .preEmption s.ev)
      else if !t.windowOk i.part area.1 area.2 then .next ((s.refuseCheckpoint n).eventAt (s.wall + 1) .preEmption s.ev)
      else if !s.served since units then
        .next ((s.askUnits (eventKey since) false units).eventAt (s.wall + 11) .preEmption { s.ev with value := since })
      else .next ((t.dropReqs (eventKey since)).saveInst n (!i.evict && i.heat = 0))

/-- Running instances that may be asked to leave, lowest priority first and then most recently placed first (15 R425; 16 R455). -/
def State.victims (s : State) (only : Inst → Bool) : List Nat :=
  let l := (s.insts.filter (fun p => p.2.placed && p.2.status.isNone && !p.2.evict && p.2.heat ≠ 2 && only p.2))
  let before (a b : Nat × Inst) : Bool :=
    b.2.priority < a.2.priority || (a.2.priority = b.2.priority && b.2.order < a.2.order)
  (l.foldl (fun acc x => acc.takeWhile (fun y => before y x) ++ x :: acc.dropWhile (fun y => before y x)) []).map (·.1)

/-! ### Ending (15 R429, R432) -/

/-- Whether a card of an instance is still running. -/
def State.cardsRun (s : State) (n : Nat) : Bool :=
  s.queues.any (fun p => match p.2.running with | some c => c.inst = n | none => false)

/-- A launch whose instances have all retired writes its completion record (15 R429). -/
def State.closeLaunch (s : State) (l : Nat) : State :=
  let x := s.launch l
  if x.finished || x.next < x.count || x.ended < x.next then s
  else
    let st := if x.killed then stKilled else if x.reclaimed then stReclaimed else if x.thermal then stThermal
      else if x.fault.isSome then stFault else stDone
    let d := match x.fault with
      | some (n, c, v) => if st = stFault then leBytes 4 n ++ leBytes 4 c ++ leBytes 8 v else []
      | none => []
    (s.modLaunch l (fun x => { x with finished := true })).answer (.entry x.part x.queue x.pos) st d

/-- The lower failing INST of two. -/
def lowerFault (a : Option (Nat × Nat × Nat)) (b : Nat × Nat × Nat) : Option (Nat × Nat × Nat) :=
  match a with
  | some x => if x.1 ≤ b.1 then some x else some b
  | none => some b

/-- Settle an instance that has ended: its colonnades return to their launch values, its groups go, its launch counts it. -/
def State.reapInst (s : State) (n : Nat) : State :=
  let i := s.inst n
  let st := i.status.getD 0
  let s := (s.commit.leaveCols n).modInst n (fun i => { i with
    placed := false, waiting := false, reaped := true, saved := [], parked := [], checkpoint := none, restored := none, saving := false })
  let s : State := { s with
    groups := i.groups.foldl (fun m g => FMap.drop g m) s.groups, deliveries := s.deliveries.filter (fun d => d.inst ≠ n) }
  (s.modLaunch i.launch (fun l => { l with
    ended := l.ended + 1,
    fault := if st = trapStatus then lowerFault l.fault (i.number, i.cause, i.tval) else l.fault,
    killed := l.killed || st = stKilled, reclaimed := l.reclaimed || st = stReclaimed, thermal := l.thermal || st = stThermal })).closeLaunch i.launch

/-- The started cards of an instance that has ended on a leased colonnade come to nothing once a reclaim's time for its save is over: the
colonnades are handed over in bounded time (15 R435, R436; log entry 91). -/
def State.dropRunning (s : State) (n : Nat) : State :=
  s.queues.foldl (fun s p => match p.2.running with
    | some c => if c.inst = n then (s.modQueue (queueOfKey p.1) (fun u => { u with running := none })).readerLeaves c.serial else s
    | none => s) s

/-- Whether an instance stands, or its save goes on, on a colonnade of a lease. -/
def Inst.onLease (i : Inst) (l : Lease) : Bool := (i.placed || i.saving) && i.cols.any (fun q => l.cols.contains (q.2 - 1))

/-- The checkpoint of an instance that has ended is over: its card completes like any started one (15 R432; log entry 137). -/
def State.endCheckpoint (s : State) (n : Nat) : State :=
  let i := s.inst n
  match (match i.checkpoint with | some (_, r) => some r | none => i.restored) with
  | some r => (s.modInst n (fun i => { i with checkpoint := none, restored := none })).answer r feBusy []
  | none => s

/-- The instances that have ended and are not settled, the first to end first: their endings take effect in their order (15 R423). -/
def State.toReap (s : State) : List Nat :=
  ((s.insts.filter (fun p => p.2.status.isSome && !p.2.reaped)).foldl (fun (acc : List (Nat × Inst)) x =>
    acc.takeWhile (fun y => y.2.endedAt ≤ x.2.endedAt) ++ x :: acc.dropWhile (fun y => y.2.endedAt ≤ x.2.endedAt)) []).map (·.1)

/-- Settle every instance that has ended and whose started cards are complete. -/
def State.reap (s : State) : State :=
  s.toReap.foldl (fun s n =>
    let s := s.endCheckpoint n
    let i := s.inst n
    if s.leases.any (fun l => l.2.overdue && i.onLease l.2) then (s.dropRunning n).reapInst n
    else if s.cardsRun n then s
    else s.reapInst n) s

/-- End an instance as by KILL (15 R432). -/
def State.killInst (s : State) (n : Nat) : State := s.commit.endInstance n stKilled 0 0

/-- No further instance of a partition's launches is placed, and those it has end, as by KILL (16 R458). -/
def State.killPart (s : State) (part : Nat) : State :=
  let s : State := { s with launches := s.launches.map (fun p =>
    if p.2.part = part then (p.1, { p.2 with count := p.2.next, killed := true }) else p) }
  s.insts.foldl (fun s p => if p.2.part = part && p.2.status.isNone then s.killInst p.1 else s) s

end Sys2Proof.Machine
end

