-- ==== Sys2Proof/Machine/HostRings.lean ====
section
/-! DEFINITION. The rings of a function in host memory: completion records, event-ring entries, received frames and frames to send, each
inside the ranges granted to the function, and the MSI-X messages that follow the records (15 R424; 16 R446 to R449; log entry 35). -/

namespace Sys2Proof.Machine

/-- A register of a function. -/
def Partition.reg (p : Partition) (off : Nat) : Nat := (FMap.get 0 p.regs off).toNat

/-- Raise an MSI-X vector: its message goes to the address that the table of vectors names, or waits while the vector is masked
(16 R446, R447; log entry 136). -/
def Partition.raise (p : Partition) (v : Nat) : Partition :=
  if p.unmasked.contains v then
    { p with raised := p.raised ++ [(v, p.reg (0x8000 + 16 * v), p.reg (0x8008 + 16 * v) % 2 ^ 32)], pend := p.pend.filter (· ≠ v) }
  else { p with pend := (v :: p.pend).eraseDups }

/-- A write to the table of vectors masks a vector or unmasks it; one unmasked that is pending is raised (16 R446; log entry 136). -/
def Partition.maskWrite (p : Partition) (off v : Nat) : Partition :=
  let n := (off - 0x8008) / 16
  if off < 0x8000 || 0x8200 ≤ off || off % 16 ≠ 8 then p
  else if bitOf v 32 then { p with unmasked := p.unmasked.filter (· ≠ n) }
  else
    let q := { p with unmasked := (n :: p.unmasked).eraseDups }
    if p.pend.contains n then q.raise n else q

/-- Write to host memory, inside a range granted to the partition (16 R448). -/
def State.toHost (s : State) (part a : Nat) (d : List Byte) : Option State :=
  if s.hostGranted part a d.length then some { s with mem := s.mem.writeBytes (hostAddr a) d } else none

/-- Write the entry after `tail` others of a ring of `size` entries of `slot` bytes, where the host, at `head`, has left room for it. -/
def State.toRing (s : State) (part base size slot head tail : Nat) (d : List Byte) : Option State :=
  if size = 0 || size ≤ tail - head then none else s.toHost part (base + slot * (tail % size)) (padTo slot d)

/-- Do the first pieces of a list that can be done. -/
def doFirst {α : Type} (f : State → α → Option State) : List α → State → State
  | [], s => s
  | x :: r, s => match f s x with | some t => doFirst f r t | none => s

/-- The 32 bytes of a completion record (15 R424): the status, the queue, the position and the detail (log entry 35). -/
def Completion.image (c : Completion) : List Byte :=
  leBytes 1 c.status ++ leBytes 1 c.queue ++ List.replicate 6 0 ++ leBytes 8 c.pos ++ padTo 16 c.detail

/-- A completion record goes to the partition's completion queue, and its MSI-X message after it. -/
def State.putCompletion (s : State) (part : Nat) (c : Completion) : Option State :=
  let p := s.part part
  (s.toRing part (p.reg 0x300) (p.reg 0x308 % 2 ^ 32) 32 (p.reg 0x100) p.cplTail c.image).map (fun s =>
    s.modPart part (fun p => Partition.raise { p with cplTail := p.cplTail + 1 } (p.reg 0x308 / 2 ^ 32 % 32)))

/-- An entry goes to the partition's event ring, and its vector is raised after it. -/
def State.putEvent (s : State) (part : Nat) (e : Nat × List Byte) : Option State :=
  let p := s.part part
  (s.toRing part (p.reg 0x2010) (p.reg 0x2008) 64 (p.reg 0x2000) p.evTail e.2).map (fun s =>
    s.modPart part (fun p => Partition.raise { p with evTail := p.evTail + 1 } e.1))

/-- The bytes of a slot of a ring of frames: the frame's length, its port, and the frame (16 R449; log entry 110). -/
def frameSlot : Nat := 9472

/-- A received frame goes from its port to the receive ring of the port's partition. -/
def State.putFrame (s : State) (port part : Nat) (d : List Byte) : Option State :=
  let p := s.part part
  (s.toRing part (p.reg 0x2100) (p.reg 0x2108) frameSlot (p.reg 0x2110) p.rxTail (leBytes 4 d.length ++ leBytes 4 port ++ d)).map (fun s =>
    (s.modPart part (fun p => { p with rxTail := p.rxTail + 1 })).modPort port (fun e => { e with received := e.received.drop 1 }))

/-- The next frame of a partition's transmit ring, up to the tail that its system software has written, is sent on the port that it names,
if that is the partition's (16 R449). -/
def State.sendNext (s : State) (part : Nat) : State :=
  let p := s.part part
  let size := p.reg 0x2128
  let a := p.reg 0x2120 + frameSlot * (p.txHead % size)
  if size = 0 || p.reg 0x2130 ≤ p.txHead || !s.hostGranted part a frameSlot then s
  else
    let d := s.mem.readBytes (hostAddr a) frameSlot
    let port := leAt d 4 4
    let s := s.modPart part (fun p => { p with txHead := p.txHead + 1 })
    if (s.ethPort port).part = some part && leAt d 0 4 ≤ frameSlot - 8 then s.transmit port ((d.drop 8).take (leAt d 0 4)) else s

/-- The rings of a partition's function in one cycle. -/
def State.serveHost (s : State) (part : Nat) : State :=
  let s := doFirst (fun s c => s.putCompletion part c) ((s.completions.filter (fun c => c.part = part)).drop (s.part part).cplTail) s
  let s := doFirst (fun s e => s.putEvent part e) ((s.part part).events.drop (s.part part).evTail) s
  let s := (s.ports.filter (fun p => p.2.part = some part)).foldl (fun s p =>
    doFirst (fun s d => s.putFrame p.1 part d) p.2.received s) s
  s.sendNext part

end Sys2Proof.Machine
end

