-- ==== Sys2Proof/Machine/Service.lean ====
section
/-! DEFINITION. The front end's commands, cards, resident graphs, loans, drains and the work it does in every cycle (15 R423 to R425, R432
to R443; 16 R455). -/

namespace Sys2Proof.Machine

/-! ### Submission queues (15 R424, R425) -/

/-- The priority and weight that system software gave a submission queue, and whether it created it (log entry 35). -/
def Partition.queueReg (p : Partition) (q : Nat) : Nat := (FMap.get 0 p.regs (0x208 + 16 * q)).toNat
def Partition.hasQueue (p : Partition) (q : Nat) : Bool := p.queueReg q % 2 ^ 32 ≠ 0
def Partition.prioOf (p : Partition) (q : Nat) : Nat := p.queueReg q / 2 ^ 32 % 4
def Partition.weightOf (p : Partition) (q : Nat) : Nat :=
  max 1 (p.queueReg q / 2 ^ 36 % 16)

/-- Operand `i` of a submission entry: 8 bytes each from byte 8 on (log entry 35). -/
def entryField (d : List Byte) (i : Nat) : Nat := leAt d (8 + 8 * i) 8

/-- The number that stands for the admin queue. -/
def adminQueue : Nat := 255

/-- An entry that started has been processed: the next of its queue may start. -/
def State.endEntry (s : State) (part queue : Nat) : State :=
  if queue = adminQueue then { s with admin := { s.admin with started := false } }
  else s.modPart part (fun p => { p with subs := p.subs.map (fun q => if q.1 = queue then (q.1, { q.2 with started := false }) else q) })

/-- The reply of the entry being processed. -/
def State.entryReply (s : State) : Reply := .entry s.ev.part s.ev.queue s.ev.index

/-- An entry completes with a status. -/
def State.entryDone (s : State) (status : Nat) : State :=
  (s.commit.answer s.entryReply status []).endEntry s.ev.part s.ev.queue

/-- The event that an entry's opcode names; none for an opcode with no command (15 R424, 16 R448). -/
def entryOp (admin : Bool) (op : Nat) : Option Instr :=
  if admin then match op with
    | 0x81 => some .partCreate | 0x82 => some .partDestroy | 0x83 => some .powerMode | 0x84 => some .fwUpdate
    | 0x85 => some .attest | 0x86 => some .portAssign | 0x87 => some .timeStep | _ => none
  else match op with
    | 0x01 => some .launch | 0x02 => some .kill | 0x03 => some .graphLoad | 0x04 => some .graphFree | 0x05 => some .graphRun
    | 0x06 => some .lend | 0x07 => some .reclaim | 0x08 => some .drain | 0x09 => some .returnCol | 0x0A => some .grant
    | _ => none

/-! ### Reading Room cores (15 R423, R442) -/

/-- Whether an event is the command of an entry: a Reading Room core holds it, with the ordering lock of its queue, until it takes effect. -/
def isEntry (e : Event) : Bool :=
  !e.args.flag && !e.args.bytes.isEmpty &&
    (match e.op with
     | .launch => true | .kill => true | .graphLoad => true | .graphFree => true | .graphRun => true | .lend => true | .reclaim => true
     | .drain => true | .returnCol => true | .grant => true | .partCreate => true | .partDestroy => true | .powerMode => true
     | .fwUpdate => true | .attest => true | .portAssign => true | _ => false)

/-- The entry whose command a piece of work is. -/
def Work.entry : Work → Option EvArgs
  | .event e => if isEntry e then some e.args else none
  | _ => none

/-- Whether a Reading Room core holds an event. -/
def State.roomBusy (s : State) (i : Nat) : Bool := s.agenda.any (fun it => it.work.entry.any (·.core = i))

/-- The idle Reading Room core that takes the next event: not hung, not being replaced, and holding none (15 R423, R442, R444; log entry 131). -/
def State.idleRoom (s : State) : Option Nat :=
  (List.range 12).find? (fun i => !s.hung.contains i && s.updating ≠ some i && !s.roomBusy i)

/-- An entry goes back to the head of its queue, not started (15 R442). -/
def State.returnEntry (s : State) (a : EvArgs) : State :=
  let back (q : SubQueue) : SubQueue :=
    { q with entries := { bytes := a.bytes, rows := a.rows } :: q.entries, pos := q.pos - 1, started := false }
  if a.queue = adminQueue then { s with admin := back s.admin }
  else s.modPart a.part (fun p => { p with subs := FMap.modify {} p.subs a.queue back })

/-- A Reading Room core that hangs is fenced: the event that it held goes back to the head of its ordering key, none of its effect made
(15 R442). -/
def State.fenceRoom (s : State) (i : Nat) : State :=
  let mine (it : Item) : Bool := it.work.entry.any (·.core = i)
  (s.agenda.filter mine).foldl (fun s it => match it.work.entry with | some a => (s.returnEntry a).dropReqs (eventKey a.value) | none => s)
    { s with agenda := s.agenda.filter (fun it => !mine it) }

/-- Start an entry in a Reading Room core: its command follows as an event; one with no command, or with a byte set that is zero, completes
with OPERAND. -/
def State.startEntry (s : State) (room part queue pos : Nat) (e : SubEntry) : State :=
  let done (s : State) (st : Nat) : State := (s.answer (.entry part queue pos) st []).endEntry part queue
  match entryOp (queue = adminQueue) (leAt e.bytes 0 1) with
  | none => done s feOperand
  | some op =>
    if leAt e.bytes 1 7 ≠ 0 then done s feOperand
    else
      let w := s.freshSlack
      let a : EvArgs := { core := room, part := part, queue := queue, index := pos, bytes := e.bytes, rows := e.rows, value := s.wall }
      if leAt e.bytes 0 1 = 0x87 then
        done (w.2.eventAt (s.wall + 1 + w.1) .timeStep { a with flag := entryField e.bytes 0 = 0, value := entryField e.bytes 1 }) stDone
      else w.2.eventAt (s.wall + 1 + (if leAt e.bytes 0 1 = 0x07 then w.1 % 1024 else w.1)) op a

/-- The queue whose head entry starts next, of the highest priority that has one, by weighted round robin, and the turn it leaves (15 R425;
01 R31); `back` are the queues at whose head a pre-empted instance stands. -/
def Partition.nextQueue (p : Partition) (back : List Nat) : Option (Nat × Nat) :=
  let ready := (p.subs.filter (fun q => !q.2.entries.isEmpty && !q.2.started && q.2.launch.isNone && !back.contains q.1)).map (·.1)
  let best := ready.foldl (fun m x => min m (p.prioOf x)) 4
  nextTurn (FMap.get 0 p.turns best) ((ready.filter (fun x => p.prioOf x = best)).map (fun x => (x, p.weightOf x)))

/-- Start the next entry of a partition, if any may start. -/
def State.startNext (s : State) (part : Nat) : State :=
  let p := s.part part
  let back := (s.insts.filter (fun x => x.2.part = part && x.2.waiting && !x.2.held && x.2.status.isNone)).map (·.2.queue)
  match p.nextQueue back with
  | none => s
  | some (q, t) =>
    let u := FMap.get {} p.subs q
    match u.entries, s.idleRoom with
    | [], _ => s
    | _, none => s
    | e :: rest, some room =>
      let p := { p with turns := FMap.set 0 p.turns (p.prioOf q) t, subs := FMap.set {} p.subs q { u with entries := rest, pos := u.pos + 1, started := true } }
      (s.setPart part p).startEntry room part q u.pos e

/-- Start the admin queue's next entry (16 R448). -/
def State.startAdmin (s : State) : State :=
  match s.admin.entries with
  | [] => s
  | e :: rest =>
    match (if s.admin.started then none else s.idleRoom) with
    | none => s
    | some room =>
      State.startEntry { s with admin := { s.admin with entries := rest, pos := s.admin.pos + 1, started := true } }
        room 0 adminQueue s.admin.pos e

/-! ### What waits for placement (15 R425) -/

/-- Place what comes first, or pre-empt for a launch of priority 0 (15 R425; 16 R454). -/
def State.placeNext (s : State) (part : Nat) : State :=
  let ws := s.waiters part
  let best := ws.foldl (fun m w => min m w.priority) 4
  let top := ws.filter (fun w => w.priority = best)
  if top.any (·.placing) || s.powerGoal.isSome then s
  else
    match top.find? (fun w => (s.pickPlace w.object part []).isSome && s.powerFits w.object) with
    | some w =>
      let r := s.freshSlack
      let s := if w.isInst then r.2.modInst w.number (fun i => { i with placing := true })
        else r.2.modLaunch w.launch (fun l => { l with placing := true })
      s.eventAt (s.wall + 1 + r.1) .instancePlacement { inst := w.number, index := w.launch, flag := w.isInst }
    | none =>
      match top.find? (fun w => !w.isInst && w.priority = 0) with
      | none => s
      | some w =>
        let leaving := (s.insts.filter (fun p => p.2.evict || p.2.saving)).map (·.1)
        if (s.pickPlace w.object part leaving).isSome then s
        else match s.victims (fun i => i.part = part && 2 ≤ i.priority) with
          | v :: _ => s.askPreempt v
          | [] => s

/-! ### LAUNCH and KILL -/

/-- An entry that reads device memory waits until reserved slots have served the access units named (09 R281). -/
def State.servedEntry (s : State) (op : Instr) (units : List PortUnit) (k : State → Host.Outcome State Fault Refusal) :
    Host.Outcome State Fault Refusal :=
  if s.served s.ev.value units then k (s.dropReqs (eventKey s.ev.value))
  else .next ((s.askUnits (eventKey s.ev.value) false units).eventAt (s.wall + 11) op s.ev)

/-- LAUNCH (15 R427): its directory is checked, and its instances queued for placement; it holds its queue until the last is placed. -/
def execLaunch (s : State) : Host.Outcome State Fault Refusal :=
  s.servedEntry .launch (s.launchUnits s.ev.part (entryField s.ev.bytes 0)) (fun s =>
  let e := s.ev
  let r := s.startLaunch e.part e.queue e.index ((s.part e.part).prioOf e.queue) (entryField e.bytes 0)
  let s := r.1.endEntry e.part e.queue
  match r.2 with
  | none => .next s
  | some l =>
    let digest := (s.launch l).object.digest
    let s := if bitOf (entryField e.bytes 1) 0 then
        { s.modPart e.part (fun p => { p with measured := digest }) with
          meas := FMap.set [] s.meas 3 (sha512 (padTo 64 (FMap.get [] s.meas 3) ++ digest)) }
      else s
    .next (s.modPart e.part (fun p => { p with subs := p.subs.map (fun q =>
      if q.1 = e.queue then (q.1, { q.2 with launch := some l }) else q) })))

/-- KILL (15 R432): the instance of the LAUNCH at a queue's position ends at once. -/
def execKill (s : State) : Host.Outcome State Fault Refusal :=
  let e := s.ev
  let q := entryField e.bytes 0; let pos := entryField e.bytes 1; let n := entryField e.bytes 2
  match s.insts.find? (fun p => p.2.part = e.part && p.2.status.isNone && p.2.number = n && p.2.queue = q &&
      (s.launch p.2.launch).pos = pos) with
  | some p => .next ((s.killInst p.1).entryDone stDone)
  | none => .next (s.entryDone feOperand)

/-! ### Resident graphs (15 R437, R438) -/

def State.graph (s : State) (part g : Nat) : Graph := FMap.get {} (s.part part).graphs g
def State.modGraph (s : State) (part g : Nat) (f : Graph → Graph) : State :=
  s.modPart part (fun p => { p with graphs := FMap.modify {} p.graphs g f })

/-- The burst of device memory at an address of the partition. -/
def State.burstOf (s : State) (part x : Nat) : Option Nat :=
  if x % 32 ≠ 0 then none else (s.windowAddr part (x / 128 * 128)).map (fun a => (a + x % 128) / 32)

/-- Whether a node is one of R437. -/
def nodeOk (d : List Byte) (n : Nat) : Bool :=
  let t := leAt d 0 1; let next := leAt d 2 2
  d.length = 32 && 1 ≤ t && t ≤ 5 && (next < n || next = 0xFFFF) && (t ≠ 2 || leAt d 16 8 < n) && (t ≠ 3 || leAt d 15 1 < n) &&
    (t ≠ 5 || (leAt d 8 8 < n && leAt d 16 8 ≤ 12 && leAt d 24 8 ≤ 7))

/-- GRAPH_LOAD: index, address of the nodes, their count, and the address of the trigger burst or 0. -/
def execGraphLoad (s : State) : Host.Outcome State Fault Refusal :=
  s.servedEntry .graphLoad (s.windowUnits s.ev.part (entryField s.ev.bytes 1) (min 8192 (32 * entryField s.ev.bytes 2))) (fun s =>
  let e := s.ev
  let g := entryField e.bytes 0; let x := entryField e.bytes 1; let n := entryField e.bytes 2; let t := entryField e.bytes 3
  let nodes := chunksOf 32 n ((s.readWindow e.part x (32 * n)).getD [])
  let burst := s.burstOf e.part t
  if 64 ≤ g || n = 0 || 256 < n || !nodes.all (fun d => nodeOk d n) || (t ≠ 0 && burst.isNone) || (s.graph e.part g).loaded then
    .next (s.entryDone feOperand)
  else
    let trig := if t = 0 then none else burst
    let s := s.modGraph e.part g (fun _ => { loaded := true, nodes := nodes, trigger := trig })
    let s : State := { s with triggers := s.triggers ++ trig.toList.map (fun b => ⟨b, e.part, g, false⟩) }
    .next (s.entryDone stDone))

/-- GRAPH_FREE: the graph goes, with its runs. -/
def execGraphFree (s : State) : Host.Outcome State Fault Refusal :=
  let e := s.ev
  let g := entryField e.bytes 0
  if !(s.graph e.part g).loaded then .next (s.entryDone feNoGraph)
  else
    let s := s.modGraph e.part g (fun _ => {})
    .next (State.entryDone { s with triggers := s.triggers.filter (fun t => t.part ≠ e.part || t.graph ≠ g) } stDone)

/-- Queue a run (15 R438): its code; at most four wait. -/
def State.queueRun (s : State) (part g arg : Nat) : State × Nat :=
  let x := s.graph part g
  if !x.loaded then (s, feNoGraph)
  else if 4 ≤ x.runs.length then (s, feFull)
  else if x.cur.isNone && x.runs.isEmpty then (s.modGraph part g (fun x => { x with cur := some { arg := arg, came := s.wall } }), stDone)
  else (s.modGraph part g (fun x => { x with runs := x.runs ++ [arg] }), stDone)

/-- GRAPH_RUN, as FTRIG: index and ARG. -/
def execGraphRun (s : State) : Host.Outcome State Fault Refusal :=
  let e := s.ev
  let r := s.queueRun e.part (entryField e.bytes 0) (entryField e.bytes 1)
  .next (r.1.entryDone r.2)

/-- TRIGGER_WRITE: a write to a trigger burst starts a run, a fifth that would wait is counted and dropped; a write to the burst that a
WAIT node names lets its run go on (15 R437, R438). -/
def execTriggerWrite (s : State) : Host.Outcome State Fault Refusal :=
  let e := s.ev
  if e.flag then
    let s : State := { s with triggers := s.triggers.filter (fun t => !(t.wait && t.part = e.part && t.graph = e.index)) }
    .next (s.modGraph e.part e.index (fun x => { x with cur := x.cur.map (fun r =>
      if r.waits then { r with waits := false, node := leAt (x.nodes[r.node]?.getD []) 2 2, came := s.wall } else r) }))
  else
    match s.queueRun e.part e.index e.value with
    | (s, 0) => .next s
    | (s, _) => .next (s.modGraph e.part e.index (fun x => { x with dropped := x.dropped + 1 }))

/-- The queue number of a graph's launches in completion records. -/
def graphQueue (g : Nat) : Nat := 16 + g

/-- The newest running instance of a LAUNCH node's launches, the newest launch first (15 R437). -/
def State.newestInst (s : State) (ls : List Nat) : Option Nat :=
  ls.findSome? (fun l => ((s.launch l).insts.reverse).find? (fun n => (s.inst n).placed && (s.inst n).status.isNone))

/-- One node of a graph's current run. What a COND or a LAUNCH reads of device memory waits for reserved slots (09 R281); of an address that the partition's
table does not translate it reads a free value (log entry 106). -/
def State.graphNode (s : State) (part g : Nat) (x : Graph) (r : GraphRun) (d : List Byte) : State :=
  let go (s : State) (r : GraphRun) (n : Nat) : State := s.modGraph part g (fun x => { x with cur := some { r with node := n, came := s.wall } })
  let next := leAt d 2 2
  match leAt d 0 1 with
  | 1 =>
    match r.launch with
    | some l => if (s.launch l).finished then go s { r with launch := none } next else s
    | none =>
      if !s.served r.came (s.launchUnits part (leAt d 8 8)) then s.askUnits (eventKey r.came) false (s.launchUnits part (leAt d 8 8))
      else
      let t := s.startLaunch part (graphQueue g) r.node 3 (leAt d 8 8)
      match t.2 with
      | none => go t.1 r next
      | some l =>
        let s := t.1.modGraph part g (fun x => { x with newest := FMap.modify [] x.newest r.node (l :: ·) })
        if bitOf (leAt d 16 1) 0 then s.modGraph part g (fun x => { x with cur := some { r with launch := some l } }) else go s r next
  | 2 =>
    let n := FMap.get 0 r.loops r.node
    if n < leAt d 8 8 then go s { r with loops := FMap.set 0 r.loops r.node (n + 1) } (leAt d 16 8) else go s r next
  | 3 =>
    let a := leAt d 8 7
    if a ≠ 0 && !s.served r.came (s.windowUnits part a 8) then s.askUnits (eventKey r.came) false (s.windowUnits part a 8)
    else
      let v : Nat × State := if a = 0 then (r.arg, s) else match s.readWindow part a 8 with
        | some b => (leNat b, s)
        | none => (s.freshWord.1.toNat, s.freshWord.2)
      if v.1 &&& leAt d 24 8 = leAt d 16 8 then go v.2 r (leAt d 15 1) else go v.2 r next
  | 4 =>
    if r.waits then s
    else match s.burstOf part (leAt d 8 8) with
      | none => go s r next
      | some b =>
        { s.modGraph part g (fun x => { x with cur := some { r with waits := true } }) with
          triggers := s.triggers ++ [⟨b, part, g, true⟩] }
  | _ =>
    let s := match s.newestInst (FMap.get [] x.newest (leAt d 8 8)) with
      | some i => match s.placeOf i (leAt d 16 8) with
        | some col => s.pulse col (120 + leAt d 24 8) 1
        | none => s
      | none => s
    go s r next

/-- One graph in one cycle: its current run takes one node; runs follow one another. -/
def State.serveGraph (s : State) (part g : Nat) : State :=
  let x := s.graph part g
  match x.cur with
  | some r =>
    match x.nodes[r.node]? with
    | some d => s.graphNode part g x r d
    | none => s.modGraph part g (fun x => { x with cur := none })
  | none =>
    match x.runs with
    | a :: rest => s.modGraph part g (fun x => { x with cur := some { arg := a, came := s.wall }, runs := rest })
    | [] => s

/-! ### Loans (15 R433 to R436) -/

/-- Colonnades of a partition that it may lend: its own, not lent, idle and in service, the draft colonnade last. -/
def State.idleCols (s : State) (part : Nat) : List Nat :=
  (s.part part).cols.filter (fun c =>
    let co := s.col c
    co.lentTo.isNone && co.inst.isNone && !co.retired && !co.draining &&
      s.insts.all (fun p => !(p.2.part = part && p.2.status.isNone && (p.2.saving || p.2.placed) && p.2.cols.any (fun q => q.2 = c + 1))))

/-- A loan (15 R433): borrower, COUNT, whether the draft colonnade may go, MEM. Its lease, or a code of R440. -/
def State.lend (s : State) (part dst count : Nat) (draftOk : Bool) (mem : Nat) : Except Nat (State × Nat) :=
  let idle := s.idleCols part
  let mains := idle.filter (· < Config.draftCol)
  let pick := (mains ++ (if draftOk then idle.filter (· = Config.draftCol) else [])).take count
  if 7 < dst || count = 0 || 12 < count || mem < 64 || 16384 < mem || mem % 64 ≠ 0 then .error feOperand
  else if dst = part || !(s.part dst).live || !(s.part part).permits.contains dst then .error feDenied
  else if pick.length < count then .error feNoIdle
  else
    let n := firstGap s.leases
    let s := pick.foldl (fun s c => (s.scrubCol c).modCol c (fun co => { co with
      lentTo := some dst, lease := some n, memExtent := mem })) s.commit
    .ok ({ s with leases := FMap.set {} s.leases n { lender := part, borrower := dst, cols := pick, all := pick, mem := mem } }, n)

/-- Take back a lease (15 R435): pre-emption of every group on it is requested now, and 15.5 µs (34,100 cycles) after the request's arrival
at the front end, what has not been saved ends. -/
def State.reclaimLease (s : State) (part lease arrived : Nat) (r : Reply) : Except Nat State :=
  let l := s.lease lease
  if l.cols.isEmpty || l.lender ≠ part || l.since.isSome then .error feNoLease
  else
    let s := s.commit.modLease lease (fun l => { l with since := some s.wall, reply := r })
    let on := s.insts.filter (fun p => p.2.status.isNone && p.2.onLease l)
    let s := on.foldl (fun s p => s.askPreempt p.1) s
    .ok (s.eventAt (max (s.wall + 1) (arrived + 34100)) .reclaimed { index := lease })

/-- Hand leased colonnades over to their lender, scrubbed (15 R435). -/
def State.handOver (s : State) (n : Nat) : State :=
  let l := s.lease n
  let s := l.cols.foldl (fun s c => (s.scrubCol c).modCol c (fun co => { co with
    lentTo := none, lease := none, memExtent := 0, part := l.lender })) s.commit
  ((s.modLease n (fun l => { l with cols := [], handing := false, reply := .none })).answer l.reply stDone []).regate

/-- RECLAIMED (15 R435): an instance that has not been saved by then ends with RECLAIMED, or by a thermal stop where heat had it leave too (15
R432; 16 R459); and, with the flag, the hand-over. -/
def execReclaimed (s : State) : Host.Outcome State Fault Refusal :=
  let n := s.ev.index
  let l := s.lease n
  if s.ev.flag then .next (if l.handing then s.handOver n else s)
  else if l.since.isNone then .next s
  else
    .next (s.insts.foldl (fun s p =>
      if p.2.placed && p.2.status.isNone && p.2.onLease l
      then s.endInstance p.1 (if p.2.heat = 2 then stThermal else stReclaimed) 0 0 else s) (s.modLease n (fun l => { l with overdue := true })))

/-- A lease in one cycle: handed over once nothing stands on its colonnades; gone once its extent holds nothing. -/
def State.serveLease (s : State) (n : Nat) : State :=
  let l := s.lease n
  if l.since.isNone then s
  else if l.cols.isEmpty then
    if l.extent.all (fun i => (s.inst i).placed || (s.inst i).status.isSome) then
      State.scrubExtents { s with leases := FMap.drop n s.leases } l
    else s
  else if l.handing || l.cols.any (fun c => (s.col c).inst.isSome) then s
  else
    let w := s.freshSlack
    (w.2.modLease n (fun l => { l with handing := true })).eventAt (s.wall + 1 + w.1 % 2640) .reclaimed { index := n, flag := true }

/-- LEND, as FLEND: borrower, COUNT, DRAFTOK, MEM; the lease in the detail. -/
def execLend (s : State) : Host.Outcome State Fault Refusal :=
  let e := s.ev; let d := e.bytes
  match s.lend e.part (entryField d 0) (entryField d 1) (entryField d 2 = 1) (entryField d 3) with
  | .error c => .next (s.entryDone c)
  | .ok (s, n) => .next ((s.answer s.entryReply stDone (leBytes 2 n)).endEntry e.part e.queue)

/-- RECLAIM, as FRECL: its lease. -/
def execReclaim (s : State) : Host.Outcome State Fault Refusal :=
  let e := s.ev
  match s.reclaimLease e.part (entryField e.bytes 0) (min e.value s.wall) s.entryReply with
  | .error c => .next (s.entryDone c)
  | .ok s => .next (s.endEntry e.part e.queue)

/-! ### Service (15 R443; 09 R294; 00 R4) -/

/-- Whether an entry's page uses a DRAM row of a channel (09 R265, R266). -/
def entryUses (e : BitVec 128) (ch row : Nat) : Bool :=
  let setw := ebits e 82 2; let base := ebits e 84 4; let first := ebits e 64 18
  ebits e 56 2 = 1 && base ≤ ch && ch < base + 2 ^ setw && first ≤ row && row < first + 2 ^ (pageBits (ebits e 52 4) - 16 - setw)

/-- An entry marked absent when its page is retired (09 R278, R294). -/
def entryRetired (ch row : Nat) (e : BitVec 128) : BitVec 128 :=
  if entryUses e ch row then BitVec.ofNat 128 (e.toNat + 2 ^ 56) else e

/-- The tables of a saved colonnade record, the pages of a DRAM row marked absent. -/
def retireRecord (ch row : Nat) (d : List Byte) : List Byte :=
  let n := recordEntry 0 0
  d.take n ++ ((chunksOf 16 8192 (d.drop n)).flatMap (fun b => leBytes 16 (entryRetired ch row (BitVec.ofNat 128 (leNat b))).toNat)) ++
    d.drop (recordEntry 8 0)

/-- Retire the pages that use a DRAM row: their entries stay absent, in the tables of the colonnade's cores, of instances saved on it, and of the
windows and exports of the partition whose lowest colonnade it is (09 R294). -/
def State.retireRow (s : State) (col ch row : Nat) : State :=
  let mark (t : FMap (BitVec 128)) : FMap (BitVec 128) := t.map (fun p => (p.1, entryRetired ch row p.2))
  let s := (List.range 8).foldl (fun s k => s.modCore (col * 8 + k) (fun c => { c with locked := mark c.locked })) s
  let s := (s.insts.map (·.1)).foldl (fun s n => s.modInst n (fun i => { i with saved := i.saved.map (fun p =>
    if i.cols.any (fun q => q.1 * 16 = p.1 && q.2 = col + 1) then (p.1, retireRecord ch row p.2) else p) })) s
  (List.range 8).foldl (fun s n => s.modPart n (fun p =>
    if p.cols.headD 0 = col && p.live then { p with windowTable := mark p.windowTable, exports := mark p.exports } else p)) s

/-- The DRAM row that holds a burst: its colonnade, channel and row, and the flat address of its first byte. -/
def rowOfBurst (b : Nat) : Nat × Nat × Nat × Nat :=
  let p := channelOf (b * 32)
  (p.1, p.2, (b * 32 - 2 ^ 40) % 2 ^ 34 / 2 ^ 16, b * 32 / 2 ^ 12 * 2 ^ 12)

/-- Row repair (09 R294): with a spare row the pages are copied away and back, what the code can correct with fresh metadata, while nothing is
derived from a burst that it cannot; without one they are retired. -/
def State.repairRow (s : State) (r : Nat × Nat × Nat × Nat) (spare : Bool) : State :=
  if !spare then s.retireRow r.1 r.2.1 r.2.2.1
  else
    let d := s.readArray r.2.2.2 4096
    { s with
      mem := s.mem.writeBytes r.2.2.2 d,
      errs := s.errs.filter (fun p => p.1 * 32 / 2 ^ 12 * 2 ^ 12 ≠ r.2.2.2 || s.burstState p.1 = 2) }

/-- Repair every failing row of a colonnade's channels; whether its bank group has a spare row left is a free value (log entry 19). -/
def State.repairCol (s : State) (col : Nat) : State :=
  (((s.errs.map (fun p => rowOfBurst p.1)).filter (fun r => r.1 = col)).eraseDups).foldl (fun s r =>
    let w := s.freshWord
    w.2.repairRow r (w.1.toNat % 2 = 1)) s

/-- DRAIN names a physical colonnade: every instance on it is pre-empted; once idle it is tested, a failed core replaced by the spare, a
failing row repaired, a colonnade beyond repair retired. What the test finds is a free value. -/
def execDrain (s : State) : Host.Outcome State Fault Refusal :=
  let e := s.ev
  if e.flag then
    let w := s.freshWord
    let failed := (s.col e.col).failed + (if w.1.toNat % 2 = 1 then 1 else 0)
    let gone := 2 ≤ failed || w.1.toNat / 2 % 2 = 1
    let s := w.2.commit.repairCol e.col
    let s := s.modCol e.col (fun c => { c with failed := failed, retired := c.retired || gone })
    .next (s.answer (.entry e.part e.queue e.index) stDone (leBytes 1 (if gone then 1 else 0)))
  else
    let c := entryField e.bytes 0
    if Config.nCols ≤ c || !(s.part e.part).cols.contains c || (s.col c).draining then .next (s.entryDone feOperand)
    else
      let s := s.commit.modCol c (fun co => { co with draining := true, drainFor := s.entryReply })
      let s := match (s.col c).inst with | some i => s.askPreempt i | none => s
      .next (s.endEntry e.part e.queue)

/-- A drained colonnade that has become idle is tested. -/
def State.serveDrain (s : State) (c : Nat) : State :=
  match (s.col c).drainFor with
  | .entry p q n =>
    if (s.col c).inst.isSome then s
    else
      let w := s.freshSlack
      (w.2.modCol c (fun co => { co with drainFor := .none })).eventAt (s.wall + 1 + w.1) .drain
        { col := c, part := p, queue := q, index := n, flag := true }
  | _ => s

/-- RETURN gives a drained colonnade back to its partition; a retired one stays out (15 R443). -/
def execReturnCol (s : State) : Host.Outcome State Fault Refusal :=
  let c := entryField s.ev.bytes 0
  let co := s.col c
  if !(s.part s.ev.part).cols.contains c || !co.draining || co.retired || co.drainFor ≠ .none then .next (s.entryDone feOperand)
  else .next ((s.modCol c (fun co => { co with draining := false })).entryDone stDone)

/-- GRANT (15 R424; 01 R31): kind, first, last: 0 sequences, 1 ticks, 2 rules, 3 streams, 4 watches, 5 the pairing of ports, 6 the weight
(last) of an engine's queue (16 times the engine's code plus the queue), 7 the partitions it may lend to, 8 a stage's place in the stage map, 9
and 10 an entry of the export table and of the host window table; a port's pairing names the peer's partition too (log entry 35). -/
def execGrant (s : State) : Host.Outcome State Fault Refusal :=
  let e := s.ev; let d := e.bytes; let part := e.part
  let kind := entryField d 0; let a := entryField d 1; let b := entryField d 2
  let new := List.range' a (b + 1 - a)
  let free (f : Partition → List Nat) (limit : Nat) : Bool :=
    a ≤ b && b ≤ limit && s.parts.all (fun p => p.1 = part || (f p.2).all (fun n => !new.contains n))
  let give (ok : Bool) (f : Partition → Partition) : State :=
    if ok then (s.modPart part f).entryDone stDone else s.entryDone feOperand
  .next (match kind with
    | 0 => give (free (·.seqs) 255) (fun p => { p with seqs := (p.seqs ++ new).eraseDups })
    | 1 => give (free (·.ticks) 15) (fun p => { p with ticks := (p.ticks ++ new).eraseDups })
    | 2 => give (free (·.rules) 255) (fun p => { p with rules := (p.rules ++ new).eraseDups })
    | 3 => give (free (·.streams) 63) (fun p => { p with streams := (p.streams ++ new).eraseDups })
    | 4 => give (free (·.watches) 31) (fun p => { p with watches := (p.watches ++ new).eraseDups })
    | 5 =>
      if 1 ≤ a && a ≤ b && b ≤ 3 then
        let s' := new.foldl (fun (s : State) n =>
          s.modLink n (fun l => { l with paired := l.paired.filter (fun q => q.1 ≠ part) ++ [(part, entryField d 3)] })) s
        s'.entryDone stDone
      else s.entryDone feOperand
    | 6 => give (a < 256 && 1 ≤ b && b ≤ 15) (fun p => { p with weights := FMap.set 0 p.weights a b })
    | 7 => give (a ≤ b && b ≤ 7) (fun p => { p with permits := (p.permits ++ new).eraseDups })
    | 8 => give (a ≤ 15) (fun p => { p with stages := FMap.set none p.stages a (if b = 0 then none else some ((b - 1) % 16, (b - 1) / 16 % 16)) })
    | 9 => give (a ≤ 63) (fun p => { p with exports := FMap.set 0 p.exports a (BitVec.ofNat 128 (b + entryField d 3 * 2 ^ 64)) })
    | 10 => give (a ≤ 63) (fun p => { p with windowTable := FMap.set 0 p.windowTable a (BitVec.ofNat 128 (b + entryField d 3 * 2 ^ 64)) })
    | _ => s.entryDone feOperand)

/-! ### Front-end cards (15 R439, R440) -/

def execFtrig (c : Card) (s : State) : Host.Outcome State Fault Refusal := sendCard .front c (.ftrig c) s
def execFckpt (c : Card) (s : State) : Host.Outcome State Fault Refusal := sendCard .front c (.fckpt c) s
def execFlend (c : Card) (s : State) : Host.Outcome State Fault Refusal := sendCard .front c (.flend c) s
def execFrecl (c : Card) (s : State) : Host.Outcome State Fault Refusal := sendCard .front c (.frecl c) s
def execFpost (c : Card) (s : State) : Host.Outcome State Fault Refusal := sendCard .front c (.fpost c) s

/-- A front-end card's PARAM. -/
def JobCard.param (c : JobCard) : Nat := bitsOf c.operand.toNat 55 48

/-- Whether a card's operand is one that R439 allows. -/
def JobCard.frontOk (c : JobCard) : Bool :=
  let x := c.operand.toNat
  bitsOf x 63 56 = 0 && bitsOf x 43 13 = 0 &&
    (match c.op with | .ftrig _ => c.param ≤ 63 | .fpost _ => c.param ≤ 31 | _ => c.param = 0)

/-- What a front-end card comes to: a code and a lease at once, or work that tells it later. -/
inductive FrontPart where
  | done (s : State) (code lease : Nat)
  | waiting (s : State)

/-- The least that a checkpoint of an instance takes (15 R430; 05 R164; log entry 34). -/
def State.checkpointLeast (s : State) (n : Nat) : Nat := 1024 + (s.inst n).cols.length * (0x26000 + 8 * 256)

/-- What a card does (15 R439): `d` is its argument row. -/
def State.frontWork (s : State) (q : QueueRef) (c : JobCard) (d : Row) : FrontPart :=
  let part := (s.inst c.inst).part
  let borrowed := (s.col c.col).lentTo.isSome
  match c.op with
  | .ftrig _ => let r := s.queueRun part c.param (leAt d 0 8); .done r.1.commit r.2 0
  | .fckpt _ =>
    let x := leAt d 0 8
    if x % 256 ≠ 0 || !s.windowOk part x (s.checkpointLeast c.inst) then .done s feOperand 0
    else if borrowed || (s.inst c.inst).checkpoint.isSome || (s.inst c.inst).restored.isSome then .done s feBusy 0
    else .waiting ((s.commit.modInst c.inst (fun i => { i with checkpoint := some (x, .card q c.serial) })).askGroups c.inst)
  | .flend _ =>
    if 2 ≤ leAt d 2 1 || leAt d 3 1 ≠ 0 then .done s feOperand 0
    else if borrowed then .done s feBusy 0
    else match s.lend part (leAt d 0 1) (leAt d 1 1) (leAt d 2 1 = 1) (leAt d 4 4) with
      | .error e => .done s e 0
      | .ok (s, n) => .done s stDone n
  | .frecl _ =>
    match s.reclaimLease part (leAt d 0 2) (c.claimed - 1) (.card q c.serial) with
    | .error e => .done s e 0
    | .ok s => .waiting s
  | _ =>
    match s.post part c.param (d.take 64) with
    | (s, true) => .done s.commit stDone 0
    | (s, false) => .done s feFull 0

/-- A front-end card completes: its status and lease in bytes 248 to 255 of its argument row, and its signal within 24 cycles. -/
def State.endFront (s : State) (q : QueueRef) (c : JobCard) (code lease : Nat) : State :=
  let s := match s.argRow c.core c.operand with
    | some r => s.writeEngine c.core (.row r) 248 (leBytes 8 (code + lease * 2 ^ 16))
    | none => s
  let w := s.reportDelay
  w.2.finishCard q c w.1

/-- What a front-end card reads: its argument row. -/
def State.frontAreas (s : State) (c : JobCard) : List Area := (s.argRow c.core c.operand).toList.map (fun r => ⟨c.col, .row r, 256⟩)

/-- FRONT_END_CARD_COMPLETION (15 R439, R440): the card is checked and takes effect, or fails with no effect; what takes longer is told of
by a second event. -/
def execFrontEndCardCompletion (s : State) : Host.Outcome State Fault Refusal :=
  let e := s.ev
  s.withCard (fun s c => if e.flag then [] else s.frontAreas c) (fun s c =>
    if e.flag then .next (s.endFront e.q c e.value (leAt e.bytes 0 2))
    else match s.argRow c.core c.operand with
      | none => .next (s.endFront e.q c feOperand 0)
      | some r =>
        if !c.frontOk then .next (s.endFront e.q c feOperand 0)
        else match s.frontWork e.q c (s.portBytes r.addr 256) with
          | .done s code lease => .next (s.endFront e.q c code lease)
          | .waiting s => .next s)

/-! ### Power modes (16 R455, R456) -/

/-- A lowering of the power mode in one cycle: done once the charges fit, else the next victim is asked to leave. -/
def State.servePower (s : State) : State :=
  match s.powerGoal with
  | none => s
  | some (m, r) =>
    let leaving := (s.insts.filter (fun p => p.2.evict || p.2.saving)).map (·.1)
    if s.runCharge [] ≤ modeBudget m then
      (State.regate { s.commit with powerMode := m, powerGoal := none }).answer r stDone []
    else if s.runCharge leaving ≤ modeBudget m then s
    else match s.victims (fun _ => true) with
      | v :: _ => s.askPreempt v
      | [] => s

/-- POWER_MODE: raising takes effect at once, and ends a lowering in progress; lowering pre-empts until the charges fit, and then gates; a
second lowering waits for the first (16 R455; log entry 130). -/
def execPowerMode (s : State) : Host.Outcome State Fault Refusal :=
  let e := s.ev
  let m := entryField e.bytes 0
  if 2 < m then .next (s.entryDone feOperand)
  else if s.powerMode ≤ m then
    let t := match s.powerGoal with | some (_, r) => State.answer { s with powerGoal := none } r stDone [] | none => s
    .next ((State.regate { t with powerMode := m }).entryDone stDone)
  else if s.powerGoal.isSome then .next (s.eventAt (s.wall + 11) .powerMode e)
  else .next (State.endEntry { s with powerGoal := some (m, s.entryReply) } e.part e.queue)

/-- POWER_SAMPLE (16 R456): a sample in milliwatts; when the average of the last 10 ms exceeds the cap, one instance is pre-empted and its
partition told. -/
def execPowerSample (s : State) : Host.Outcome State Fault Refusal :=
  let l := (s.ev.value :: s.samples).take 100
  let s : State := { s with samples := l }
  if l.length < 100 || l.foldl (· + ·) 0 ≤ modeCap s.powerMode * 100 then .next s
  else match s.victims (fun _ => true) with
    | v :: _ => .next ((s.commit.askPreempt v).post (s.inst v).part 0 evPower).1
    | [] => .next s

/-! ### Heat (16 R457) -/

/-- The hottest die sensor (16 R450). -/
def State.sensor (s : State) : Nat := (List.range Config.nCols).foldl (fun n c => max n (s.col c).temp) 0

/-- A colonnade's sensor has reached a limit. -/
def State.heatTo (s : State) (col limit : Nat) : State := s.modCol col (fun c => { c with temp := max c.temp limit })

/-- THERMAL_WARN: a colonnade's sensor at 100 °C is told to every partition. -/
def execThermalWarn (s : State) : Host.Outcome State Fault Refusal :=
  let s := s.heatTo s.ev.col 100
  .next (s.parts.foldl (fun s p => if p.2.live then (s.post p.1 0 evThermalWarn).1 else s) s)

/-- THERMAL: at 110 °C the instance on the colonnade is pre-empted and held with THERMAL, and the colonnade gated. -/
def execThermal (s : State) : Host.Outcome State Fault Refusal :=
  let c := s.ev.col
  let s := (s.heatTo c 110).modCol c (fun co => { co with heldHot := true })
  match (s.col c).inst with
  | some i =>
    let hot (x : Inst) : Inst := { x with heat := 2, hotCols := (c :: x.hotCols).eraseDups }
    if (s.inst i).saving then .next (s.modInst i hot) else .next ((s.commit.modInst i hot).askGroups i)
  | none => .next s.regate

/-- THERMAL_CLEAR: a colonnade's sensor reads a value; at 95 °C or below the colonnade is no longer held gated, and what was held for it, and
for no other, waits for placement again. -/
def execThermalClear (s : State) : Host.Outcome State Fault Refusal :=
  let c := s.ev.col
  let s := s.modCol c (fun co => { co with temp := s.ev.value, heldHot := co.heldHot && 95 < s.ev.value })
  if 95 < s.ev.value then .next s
  else
    let cool (i : Inst) : Inst :=
      let l := i.hotCols.filter (· ≠ c)
      if i.hotCols.contains c then { i with held := i.held && !l.isEmpty, hotCols := l } else i
    .next { s.regate with insts := s.regate.insts.map (fun p => (p.1, cool p.2)) }

/-! ### Every cycle (15 R423) -/

/-- The front end in one cycle: what has ended is settled, loans, drains and the power mode go on, graphs take a node, entries start, and
what waits is placed, and the rings in host memory are served. -/
def State.serveFront (s : State) : State :=
  let s := s.reap.serveRestored
  let s := (s.leases.map (·.1)).foldl State.serveLease s
  let s := (s.cols.map (·.1)).foldl State.serveDrain s
  let s := s.servePower.startAdmin
  (s.parts.map (·.1)).foldl (fun s p =>
    let s := ((s.part p).graphs.map (·.1)).foldl (fun s g => s.serveGraph p g) s
    ((s.startNext p).placeNext p).serveHost p) s

end Sys2Proof.Machine
end

