-- ==== Sys2Proof/Machine/Management.lean ====
section
/-! DEFINITION. The device's edges: PCIe functions and their windows, partitions, ports, firmware and attestation, the management
port, boot, power, the front end's own failures and the resets (15 R441 to R445; 16 R446 to R452, R457, R458). -/

namespace Sys2Proof.Machine

/-! ### PCIe functions (16 R446, R447) -/

/-- Whether a function exists: function 0 always, a virtual function while its partition does. -/
def State.hasFn (s : State) (fn : Nat) : Bool := fn = 0 || (fn ≤ 7 && (s.part fn).live)

/-- Whether the front end may read the next `n` entries of a submission queue in host memory: each lies in a range granted to the partition
(16 R448; log entry 35). -/
def State.entriesGranted (s : State) (part q n : Nat) : Bool :=
  let p := s.part part
  let u := FMap.get {} p.subs q
  let posted := u.pos + u.entries.length
  (List.range n).all (fun i => s.hostGranted part (p.reg (0x200 + 16 * q) + 64 * ((posted + i) % (p.queueReg q % 2 ^ 32))) 64)

/-- DOORBELL: the front end fetches the entries written since the last doorbell of a queue, 64 bytes each, from granted host memory; the flag
names function 0's admin queue (16 R447, R448; log entry 28). -/
def execDoorbell (s : State) : Host.Outcome State Fault Refusal :=
  let e := s.ev
  let new : List SubEntry := e.blocks.zipIdx.map (fun p =>
    { bytes := padTo 64 p.1, rows := if p.2 = 0 then e.rows else [] })
  if e.flag then
    if e.fn = 0 then .next { s with admin := { s.admin with entries := s.admin.entries ++ new } } else .next s
  else if !(s.part e.fn).live || 15 < e.queue || !(s.part e.fn).hasQueue e.queue || !s.entriesGranted e.fn e.queue new.length then .next s
  else .next (s.modPart e.fn (fun p => { p with
    subs := FMap.modify {} p.subs e.queue (fun q => { q with entries := q.entries ++ new }) }))

/-- The ranges of the grant table in a function's registers: 16 of a base and a length, both aligned to 4 KiB (16 R448). -/
def grantRanges (regs : FMap Word) : List (Nat × Nat) :=
  (List.range 16).filterMap (fun i =>
    let base := (FMap.get 0 regs (0x1000 + 16 * i)).toNat
    let len := (FMap.get 0 regs (0x1008 + 16 * i)).toNat
    if base % 4096 = 0 && len % 4096 = 0 && len ≠ 0 then some (base, len) else none)

/-- REGISTER_WRITE: a register of BAR0; the grant table's ranges follow its registers, and what is masked the table of vectors; WINERR is
written by the device, and the window's base is aligned to 16 GiB (16 R446 to R448). -/
def execRegisterWrite (s : State) : Host.Outcome State Fault Refusal :=
  let e := s.ev
  if !s.hasFn e.fn || 65536 ≤ e.addr then .next s
  else
    let off := e.addr / 8 * 8
    if off = 0x3008 then .next (s.modPart e.fn (fun p => { p with winErr := p.winErr && bitOf e.value 0 }))
    else
      let v := if off = 0x3000 then e.value / 2 ^ 34 * 2 ^ 34 else e.value
      .next (s.modPart e.fn (fun p =>
        let regs := FMap.set 0 p.regs off (BitVec.ofNat 64 v)
        Partition.maskWrite { p with regs := regs, hostRanges := grantRanges regs } off v))

/-- The device virtual address of an offset of BAR2. -/
def State.windowBase (s : State) (fn off : Nat) : Nat := (FMap.get 0 (s.part fn).regs 0x3000).toNat + off % 2 ^ 34

/-- An access of the host through its window: once reserved slots have served it (09 R281), and in the host's order (log entry 107). -/
def State.hostAccess (s : State) (op : Instr) (units : List PortUnit) (k : State → Host.Outcome State Fault Refusal) :
    Host.Outcome State Fault Refusal :=
  let n := s.ev.opt.getD s.ctr
  let a := if s.ev.opt.isSome then s.ev else { s.ev with opt := some n, value := s.wall }
  let s : State := if s.ev.opt.isSome then s else { s with ctr := s.ctr + 1 }
  let before := s.agenda.any (fun it => match it.work with
    | .event ⟨.hostWindowWrite, b⟩ => b.fn = a.fn && b.opt.any (· < n)
    | .event ⟨.hostWindowRead, b⟩ => b.fn = a.fn && b.opt.any (· < n)
    | _ => false)
  if before then .next (s.eventAt (s.wall + 11) op a) else s.throughPort a.value [] units k ⟨op, a⟩

/-- HOST_WINDOW_WRITE: a plain write at its home through the open port; an address outside the window table writes nothing and sets
WINERR (16 R447; 04 R124). -/
def execHostWindowWrite (s : State) : Host.Outcome State Fault Refusal :=
  let e := s.ev
  let x := s.windowBase e.fn e.addr
  if !(s.part e.fn).live then .next (if s.hasFn e.fn then s.modPart e.fn (fun p => { p with winErr := true }) else s)
  else s.hostAccess .hostWindowWrite (s.windowUnits e.fn x e.bytes.length true) (fun s =>
    let s1 := s.writeWindow e.fn x e.bytes
    .next (if s.windowOk e.fn x e.bytes.length then s1 else s1.modPart e.fn (fun p => { p with winErr := true })))

/-- HOST_WINDOW_READ: the bytes as they stand; bytes of an access unit outside the window table are all ones and set WINERR (16 R447;
04 R127). -/
def execHostWindowRead (s : State) : Host.Outcome State Fault Refusal :=
  let e := s.ev
  let x := s.windowBase e.fn e.addr
  if s.fatal then .next { s with readData := padTo e.count (s.dump.drop e.addr) }
  else if !(s.part e.fn).live then
    let t : State := if s.hasFn e.fn then s.modPart e.fn (fun p => { p with winErr := true }) else s
    .next { t with readData := List.replicate e.count 0xFF }
  else s.hostAccess .hostWindowRead (s.windowUnits e.fn x e.count) (fun s =>
    let d := ((unitsOf x e.count).flatMap (fun u => match s.windowAddr e.fn (u * 128) with
      | some a => s.readArray a 128
      | none => List.replicate 128 0xFF)).drop (x % 128)
    let s1 : State := { s with readData := d.take e.count }
    .next (if s.windowOk e.fn x e.count then s1 else s1.modPart e.fn (fun p => { p with winErr := true })))

/-! ### Partitions and ports (16 R448, R449) -/

/-- What PART_CREATE brings with it (log entry 28): page pools by key, and from key 2^20 on the host window table, from 2^21 on the
export table, from 2^22 on the stage map. -/
def State.fillPartition (s : State) (part : Nat) (rows : List (Nat × List Byte)) : State :=
  rows.foldl (fun s r =>
    let k := r.1; let d := r.2
    if k < 2 ^ 20 then
      { s with pools := FMap.set [] s.pools k ((List.range (d.length / 8)).map (fun i => leAt d (8 * i) 8)) }
    else if k < 2 ^ 21 then
      s.modPart part (fun p => { p with windowTable := FMap.set 0 p.windowTable (k % 64) (BitVec.ofNat 128 (leAt d 0 16)) })
    else if k < 2 ^ 22 then
      s.modPart part (fun p => { p with exports := FMap.set 0 p.exports (k % 64) (BitVec.ofNat 128 (leAt d 0 16)) })
    else s.modPart part (fun p => { p with stages := FMap.set none p.stages (k % 16) (some (leAt d 0 1, leAt d 1 1)) })) s

/-- What the engines hold for a partition returns to its launch values: outcomes, assumptions and statistics (12 R349); ticks, rules, streams and
watches granted to it (13 R374); pairings, TRAP policies and statistics of the ports (14 R399). What belongs to a partition is launched with it
(log entry 121). -/
def State.clearPartition (s : State) (part : Nat) : State :=
  let p := s.part part
  let fresh {α : Type} (m : FMap α) (l : List Nat) : FMap α := m.filter (fun e => !l.contains e.1)
  { s with
    outcomes := s.outcomes.filter (fun e => e.1 / 256 ≠ part), assumptions := s.assumptions.filter (fun a => a.part ≠ part),
    samp := s.samp.filter (fun e => e.1 / 2 ≠ part),
    ticks := fresh s.ticks p.ticks, rules := fresh s.rules p.rules, streams := fresh s.streams p.streams, watches := fresh s.watches p.watches,
    links := s.links.map (fun e => (e.1, { e.2 with
      completed := FMap.drop part e.2.completed, failed := FMap.drop part e.2.failed, codes := FMap.drop part e.2.codes,
      trap := FMap.drop part e.2.trap, paired := e.2.paired.filter (fun q => q.1 ≠ part) })) }

/-- PART_CREATE: a partition's number, the mask of its colonnades, of which no other partition has one, and the mask of the engines on which
it holds no queue (01 R48; 02 R61; 16 R448; log entry 28). -/
def execPartCreate (s : State) : Host.Outcome State Fault Refusal :=
  let e := s.ev
  let part := entryField e.bytes 0; let mask := entryField e.bytes 1
  let cols := (List.range Config.nCols).filter (bitOf mask)
  if 7 < part || mask = 0 || 2 ^ Config.nCols ≤ mask || (s.part part).live ||
      s.parts.any (fun p => p.2.live && p.2.cols.any (fun c => cols.contains c)) then .next (s.entryDone feOperand)
  else
    let s := (s.clearPartition part).modPart part (fun p => { p with live := true, cols := cols, noQueues := entryField e.bytes 2 })
    let s := cols.foldl (fun s c => s.modCol c (fun co => { co with part := part })) s
    .next ((s.fillPartition part e.rows).entryDone stDone)

/-- What a function-level reset clears of a partition (16 R458): its rings, grants, window and function registers. -/
def State.clearFn (s : State) (part : Nat) : State :=
  let p := s.part part
  { s.setPart part { p with
      subs := [], turns := [], events := [], raised := [], unmasked := [], pend := [], cplTail := 0, evTail := 0, rxTail := 0, txHead := 0,
      hostRanges := [], regs := [], windowTable := [], winErr := false } with
    completions := s.completions.filter (fun c => c.part ≠ part) }

/-- The launches of a partition are over, with no completion record: its rings are cleared. -/
def State.closeAll (s : State) (part : Nat) : State :=
  { s with launches := s.launches.map (fun p => if p.2.part = part then (p.1, { p.2 with finished := true }) else p) }

/-- PART_DESTROY: the partition's instances end as by KILL, and its colonnades, ports and function are free (16 R446, R448); one with
colonnades on loan is BUSY. -/
def execPartDestroy (s : State) : Host.Outcome State Fault Refusal :=
  let part := entryField s.ev.bytes 0
  if 7 < part || !(s.part part).live then .next (s.entryDone feOperand)
  else if s.leases.any (fun p => !p.2.cols.isEmpty && (p.2.lender = part || p.2.borrower = part)) then .next (s.entryDone feBusy)
  else
    let s := ((s.killPart part).closeAll part).clearPartition part
    let s : State := { s.setPart part {} with
      ports := s.ports.map (fun p => if p.2.part = some part then (p.1, { p.2 with part := none }) else p),
      triggers := s.triggers.filter (fun t => t.part ≠ part) }
    .next (s.entryDone stDone)

/-- PORT_ASSIGN: one of the four Ethernet ports belongs to one partition, or with 0xFF to none (16 R449); its third field says whether the
precision time protocol is enabled on the port (13 R377; log entry 105). -/
def execPortAssign (s : State) : Host.Outcome State Fault Refusal :=
  let port := entryField s.ev.bytes 0; let part := entryField s.ev.bytes 1
  let ptp := entryField s.ev.bytes 2
  if 3 < port || (part ≠ 0xFF && !(part ≤ 7 && (s.part part).live)) || 1 < ptp then .next (s.entryDone feOperand)
  else .next ((s.modPort port (fun p => { p with part := if part = 0xFF then none else some part, ptp := ptp = 1 })).entryDone stDone)

/-! ### Measurements, firmware and attestation (15 R444; 16 R451, R452) -/

/-- Extend a measurement register with an image. -/
def State.measure (s : State) (i : Nat) (image : List Byte) : State :=
  { s with meas := FMap.set [] s.meas i (sha512 (padTo 64 (FMap.get [] s.meas i) ++ sha512 image)) }

/-- One Reading Room core of a firmware update: once it holds no event it is taken out, loaded and restarted while the others serve; after the
twelfth the image is committed and MEAS2 extended (15 R444; 16 R451, R459). -/
def State.updateRoom (s : State) (i : Nat) (img : List Byte) (r : Reply) : State :=
  if s.updating ≠ some i then
    if s.hung.contains i || s.roomBusy i then s.eventAt (s.wall + 11) .fwUpdate { index := i, flag := true }
    else
      let w := State.freshSlack { s with updating := some i }
      w.2.eventAt (s.wall + 1 + w.1) .fwUpdate { index := i, flag := true }
  else
    let s : State := { s with updating := none, beats := FMap.set 0 s.beats i s.wall }
    if i < 11 then s.eventAt (s.wall + 1) .fwUpdate { index := i + 1, flag := true }
    else State.answer (State.measure { s.commit with image := img, newImage := none } 2 img) r stDone []

/-- FW_UPDATE: an image in partition 0's memory, read through reserved slots where its channels are held and checked as at boot; one that the
check or the Journal's format refuses leaves the old image. The cores take it one at a time (15 R444; 16 R451, R459; 09 R281). -/
def execFwUpdate (s : State) : Host.Outcome State Fault Refusal :=
  let e := s.ev
  if e.flag then
    match s.newImage with
    | none => .next s
    | some (img, r) => .next (s.updateRoom e.index img r)
  else s.servedEntry .fwUpdate (s.windowUnits 0 (entryField e.bytes 0) (entryField e.bytes 1)) (fun s =>
    match s.readWindow 0 (entryField e.bytes 0) (entryField e.bytes 1) with
    | none => .next (s.entryDone feOperand)
    | some img =>
      if s.newImage.isSome then .next (s.entryDone feBusy)
      else if !Config.goodImage img || !Config.journalOk img then .next (s.entryDone stRefused)
      else
        let w := State.freshSlack { s with newImage := some (img, s.entryReply) }
        .next ((w.2.eventAt (s.wall + 1 + w.1) .fwUpdate { flag := true }).endEntry e.part e.queue))

/-- The signed part of a report (16 R452). -/
def State.reportBody (s : State) (part : Nat) (nonce : List Byte) : List Byte :=
  leBytes 4 0x594C4154 ++ leBytes 2 1 ++ leBytes 1 part ++ [Config.fusedSvn] ++ leBytes 8 s.dn ++ padTo 32 nonce ++
    (List.range 4).flatMap (fun i => padTo 64 (FMap.get [] s.meas i)) ++ padTo 64 (s.part part).measured

/-- ATTEST: the report for a 32-byte nonce (bytes 8 to 39 of the entry), signed by the identity key (16 R452). -/
def execAttest (s : State) : Host.Outcome State Fault Refusal :=
  let e := s.ev
  let b := s.reportBody e.part ((e.bytes.drop 8).take 32)
  .next (State.entryDone { s with report := b ++ padTo 132 (Config.sign (sha512 b)) } stDone)

/-! ### The front end's own cores (15 R442, R445) -/

/-- The state of a Reading Room core: its last heartbeat, whether it is hung, and the entry that it holds. -/
def State.roomImage (s : State) (i : Nat) : List Byte :=
  leBytes 8 (FMap.get 0 s.beats i) ++ leBytes 8 (if s.hung.contains i then 1 else 0) ++
    padTo 64 (((s.agenda.findSome? (fun it => (it.work.entry).filter (fun a => a.core = i))).map (·.bytes)).getD [])

/-- The dump of a fatal error (15 R445): the header with its sections' offsets, the Reading Room cores, the Journal's last 64 transactions, the
records and contexts of the placed instances and those saved of the others, and the head card of each queue (log entry 36). -/
def State.dumpOf (s : State) (cause : Nat) : List Byte :=
  let rooms := (List.range 12).flatMap s.roomImage
  let tail := (s.journalTail 64).flatMap (·.2)
  let ctx := s.insts.flatMap (fun p => (if p.2.placed then s.imagesOf p.1 else p.2.saved).flatMap (·.2))
  let heads := s.queues.flatMap (fun p => match p.2.cards with | c :: _ => leBytes 4 p.1 ++ c.image | [] => [])
  let o1 := 256; let o2 := o1 + rooms.length; let o3 := o2 + tail.length; let o4 := o3 + ctx.length
  padTo 256 (leBytes 4 0x594C4450 ++ leBytes 4 1 ++ leBytes 8 cause ++ leBytes 8 s.wall ++ [o1, o2, o3, o4].flatMap (leBytes 8)) ++
    rooms ++ tail ++ ctx ++ heads

/-- Stop every instance, write the dump, and from then on take only reads of it and reset (15 R445). -/
def State.fatalNow (s : State) (cause : Nat) : State :=
  let d := s.dumpOf cause
  let s := s.insts.foldl (fun s p => s.endInstance p.1 stFault 0 0) s
  { s with dump := d, fatal := true, stage := 5 }

/-- FATAL_ERROR: the cause code. -/
def execFatalError (s : State) : Host.Outcome State Fault Refusal := .next (s.fatalNow s.ev.value)

/-- HEARTBEAT: a Reading Room core that is not hung reports its wall cycle (15 R442). -/
def execHeartbeat (s : State) : Host.Outcome State Fault Refusal :=
  let i := s.ev.index
  if 12 ≤ i || s.hung.contains i then .next s else .next { s with beats := FMap.set 0 s.beats i s.wall }

/-- HANG: a core that has been silent for 50 µs (110,000 cycles) is fenced, the event that it held returned to the head of its ordering key, and
it is restarted within 200 µs (440,000 cycles), which the flag reports; what it had committed stands, since a transaction and its change are one
step; with all twelve hung the error is fatal (15 R441, R442, R445). -/
def execHang (s : State) : Host.Outcome State Fault Refusal :=
  let i := s.ev.index
  if s.ev.flag then .next { s.commit with hung := s.hung.filter (· ≠ i), beats := FMap.set 0 s.beats i s.wall }
  else if 12 ≤ i || s.hung.contains i || s.wall < FMap.get 0 s.beats i + 110000 then .next s
  else
    let s : State := { s.fenceRoom i with hung := i :: s.hung }
    if 12 ≤ s.hung.length then .next (s.fatalNow 2)
    else
      let w := s.freshSlack
      .next (w.2.eventAt (s.wall + 1 + w.1 % 440000) .hang { index := i, flag := true })

/-! ### Power and boot (16 R450, R451) -/

/-- Step 1 of the boot: the ROM starts and measures itself; in the next cycle it waits for an image. -/
def State.bootRom (s : State) : State := { s.measure 0 Config.romImage with stage := 1 }

/-- Nothing of the device is left but the wall clock, what comes from outside, and the counter of free values; the memories of the host and of
the peer modules are not its own. -/
def State.cleared (s : State) : State :=
  { State.reset with wall := s.wall, inputs := s.inputs, ctr := s.ctr, mem := s.mem.filter (fun p => hostAddr 0 ≤ p.1) }

/-- MAIN_POWER: main power is good; the boot ROM starts, and the management port answers 40 ms (88,000,000 cycles) later. -/
def execMainPower (s : State) : Host.Outcome State Fault Refusal :=
  .next { s.cleared.bootRom with mgmtFrom := s.wall + 88000000 }

/-- MAIN_POWER_LOSS: all state is lost, the dump with it. -/
def execMainPowerLoss (s : State) : Host.Outcome State Fault Refusal := .next { s.cleared with powered := false }

/-- THERMAL_TRIP: at 125 °C the module removes its own power; no dump is written (16 R457). -/
def execThermalTrip (s : State) : Host.Outcome State Fault Refusal := .next { s.cleared with powered := false }

/-- PCIE_LINK_UP: the link has trained; a device that has booted so far is ready. -/
def execPcieLinkUp (s : State) : Host.Outcome State Fault Refusal :=
  if 3 ≤ s.stage && s.stage ≠ 5 then .next { s with pcieUp := true, stage := 4 } else .next s

/-! ### The management port (16 R450) -/

/-- Whether the port answers. -/
def State.mgmtOn (s : State) : Bool := s.powered && s.mgmtFrom ≤ s.wall

/-- The 8 bytes of STATUS. -/
def State.statusBytes (s : State) : List Byte :=
  leBytes 1 (s.stage % 8) ++ leBytes 1 s.powerMode ++ leBytes 1 (s.sensor % 256) ++ leBytes 1 s.bootcode ++ leBytes 4 0

/-- STATUS: before the port answers nothing is read. -/
def execStatus (s : State) : Host.Outcome State Fault Refusal :=
  .next { s with readData := if s.mgmtOn then s.statusBytes else [] }

/-- READ: the dump from 0x4000_0000 on, the boot mailbox from 0x2000_0000 on, zeros elsewhere; outside a fatal error a dump read to its
end is kept no longer (16 R450, R458). -/
def execRead (s : State) : Host.Outcome State Fault Refusal :=
  let e := s.ev
  if !s.mgmtOn then .next { s with readData := [] }
  else if 0x40000000 ≤ e.addr then
    let off := e.addr - 0x40000000
    let d := padTo e.count (s.dump.drop off)
    .next { s with readData := d, dump := if s.dump.length ≤ off + e.count && !s.fatal then [] else s.dump }
  else if s.fatal then .next { s with readData := List.replicate e.count 0 }
  else if 0x20000000 ≤ e.addr then .next { s with readData := padTo e.count (s.mailbox.drop (e.addr - 0x20000000)) }
  else .next { s with readData := List.replicate e.count 0 }

/-- The correction mode and the threshold of every channel, as the firmware's configuration gives them; the mode is reported to system software
(09 R292). -/
def State.setCodes (s : State) (img : List Byte) : State :=
  (List.range Config.nCols).foldl (fun s col => (List.range (Config.channelsOf col)).foldl (fun s ch =>
    let n := channelNo col ch
    (s.modChan col ch (fun c => { c with modeD := Config.correctionD img n, limit := Config.correctedLimit img n })).tell
      (.correction col ch (Config.correctionD img n))) s) s

/-- Steps 3 and 4 of the boot: a good image is measured, opens the Journal and starts device time in FREE-RUN; another leaves the device waiting,
with its code. -/
def State.bootImage (s : State) (img : List Byte) : State :=
  if !Config.goodImage img then { s with bootcode := 0xE1 }
  else
    let s := s.measure 1 img
    let s : State := { s with bootcode := 0, image := img, stage := 3, clock := 0, journal := 0 }
    [1, 2, 3].foldl doTrain (s.setCodes img)

/-- WRITE: bytes of the boot mailbox, whose first 8 hold the image's length, the write of its last byte completing it; or, at
0x0100_0000, a 64-byte entry of the admin mailbox (16 R448, R450, R451). -/
def execWrite (s : State) : Host.Outcome State Fault Refusal :=
  let e := s.ev
  let n := e.bytes.length
  if !s.mgmtOn || s.fatal then .next s
  else if 0x20000000 ≤ e.addr && e.addr < 0x40000000 then
    let off := e.addr - 0x20000000
    let box := patchBytes (padTo (max s.mailbox.length (off + n)) s.mailbox) off e.bytes
    let s : State := { s with mailbox := box }
    let len := leAt box 0 8
    if s.stage = 2 && len ≠ 0 && off < 8 + len && 8 + len ≤ off + n then .next (s.bootImage ((box.drop 8).take len)) else .next s
  else if e.addr = 0x01000000 && n = 64 then
    .next { s with admin := { s.admin with entries := s.admin.entries ++ [{ bytes := e.bytes, rows := e.rows }] } }
  else .next s

/-! ### Resets (16 R458) -/

/-- A fundamental reset: as power-on from step 1 of the boot; the dump is kept. -/
def State.fundamental (s : State) : State := State.bootRom { s.cleared with dump := s.dump, mgmtFrom := s.mgmtFrom }

/-- RESET of the management port. -/
def execReset (s : State) : Host.Outcome State Fault Refusal := .next (if s.mgmtOn then s.fundamental else s)

/-- FUNDAMENTAL_RESET: PERST#. -/
def execFundamentalReset (s : State) : Host.Outcome State Fault Refusal := .next s.fundamental

/-- A reply to an entry of a function that has been reset is no longer due; the entry of an administration command is function 0's. -/
def Reply.lost (fn : Nat) : Reply → Reply
  | .entry p q n => if p = fn then .none else .entry p q n
  | r => r

/-- The entries of a function that have started come to nothing more, and none of them is answered (16 R458). -/
def State.dropEntries (s : State) (fn : Nat) : State :=
  let s : State := { s with
    agenda := s.agenda.filter (fun it => !(it.work.entry.any (·.part = fn)) &&
      (match it.work with | .event ⟨.drain, a⟩ => a.part ≠ fn | .event ⟨.timeStep, a⟩ => a.part ≠ fn || a.bytes.isEmpty | _ => true)),
    leases := s.leases.map (fun p => (p.1, { p.2 with reply := p.2.reply.lost fn })),
    powerGoal := s.powerGoal.map (fun p => (p.1, p.2.lost fn)),
    newImage := s.newImage.map (fun p => (p.1, p.2.lost fn)) }
  (s.part fn).cols.foldl (fun s c => s.modCol c (fun co => { co with drainFor := co.drainFor.lost fn })) s

/-- The started GPUB cards of a partition write nothing more (16 R459). -/
def State.dropGpub (s : State) (fn : Nat) : State :=
  { s with queues := s.queues.map (fun p => match p.2.running with
    | some c => match c.op with
      | .gpub _ _ => if (s.inst c.inst).part = fn then (p.1, { p.2 with running := none }) else p
      | _ => p
    | none => p) }

/-- A function-level reset (16 R458): the instances of its partition end as by KILL, its entries come to nothing, and its rings, grants and
window are cleared; function 0 empties the admin queue too. -/
def State.flr (s : State) (fn : Nat) : State :=
  let s := ((((s.killPart fn).closeAll fn).dropEntries fn).dropGpub fn).clearFn fn
  if fn = 0 then { s with admin := {} } else s

/-- FLR of a function. -/
def execFlr (s : State) : Host.Outcome State Fault Refusal :=
  .next (if s.hasFn s.ev.fn then s.flr s.ev.fn else s)

/-- HOT_RESET: a hot reset or link down resets every function. -/
def execHotReset (s : State) : Host.Outcome State Fault Refusal :=
  .next { (List.range 8).foldl (fun s k => if s.hasFn k then s.flr k else s) s with pcieUp := false }

end Sys2Proof.Machine
end

