-- ==== Sys2Proof/Machine/Scalar.lean ====
section
/-! DEFINITION. Scalar arithmetic, predicates and handle instructions of the sequencer (05 R136 to R143). -/

namespace Sys2Proof.Machine

/-! ### Register forms (05 R136) -/

/-- A register-form instruction with a sign-extended result: f gives the w-bit result and its flags, merged at c+1. -/
def scalarOp (f : Nat → Nat → Nat → Nat × Nat) (r : RArgs) (s : State) : Host.Outcome State Fault Refusal :=
  let w := r.sz.bits
  let q := f w (lowBits w (s.rs r.a)) (lowBits w (s.rs r.b))
  .next ((s.ws r.d (sextW w q.1)).flagsAfter 1 q.2)

/-- The same with a zero-extended result: DIVN, REMN, MINN, MAXN. -/
def scalarOpZ (f : Nat → Nat → Nat → Nat × Nat) (r : RArgs) (s : State) : Host.Outcome State Fault Refusal :=
  let w := r.sz.bits
  let q := f w (lowBits w (s.rs r.a)) (lowBits w (s.rs r.b))
  .next ((s.ws r.d (zextW w q.1)).flagsAfter 1 q.2)

/-- A result that raises no flag. -/
def noFlag (f : Nat → Nat → Nat → Nat) (w x y : Nat) : Nat × Nat := (f w x y, 0)

def execAdd (r : RArgs) (s : State) := scalarOp (noFlag (fun w x y => (x + y) % 2 ^ w)) r s
def execSub (r : RArgs) (s : State) := scalarOp (noFlag (fun w x y => (x + 2 ^ w - y) % 2 ^ w)) r s
def execMul (r : RArgs) (s : State) := scalarOp (noFlag (fun w x y => x * y % 2 ^ w)) r s
def execMulh (r : RArgs) (s : State) := scalarOp (noFlag mulhW) r s
def execDiv (r : RArgs) (s : State) := scalarOp divS r s
def execDivn (r : RArgs) (s : State) := scalarOpZ divU r s
def execRem (r : RArgs) (s : State) := scalarOp remS r s
def execRemn (r : RArgs) (s : State) := scalarOpZ remU r s
def execAnd (r : RArgs) (s : State) := scalarOp (noFlag andW) r s
def execOr (r : RArgs) (s : State) := scalarOp (noFlag orW) r s
def execXor (r : RArgs) (s : State) := scalarOp (noFlag xorW) r s
def execShl (r : RArgs) (s : State) := scalarOp (noFlag shlW) r s
def execShr (r : RArgs) (s : State) := scalarOp (noFlag shrW) r s
def execSar (r : RArgs) (s : State) := scalarOp (noFlag sarW) r s
def execMin (r : RArgs) (s : State) := scalarOp (noFlag minS) r s
def execMax (r : RArgs) (s : State) := scalarOp (noFlag maxS) r s
def execMinn (r : RArgs) (s : State) := scalarOpZ (noFlag (fun _ x y => min x y)) r s
def execMaxn (r : RArgs) (s : State) := scalarOpZ (noFlag (fun _ x y => max x y)) r s

/-- CLZ, FFS and POPC: a zero-extended count over the low w bits (03 R97). -/
def countOp (f : Nat → Nat → Nat) (d a : SReg) (sz : Sz) (s : State) : Host.Outcome State Fault Refusal :=
  .next (s.ws d (BitVec.ofNat 64 (f sz.bits (lowBits sz.bits (s.rs a)))))

def execClz (d a : SReg) (sz : Sz) (s : State) := countOp clzOf d a sz s
def execFfs (d a : SReg) (sz : Sz) (s : State) := countOp ffsOf d a sz s
def execPopc (d a : SReg) (sz : Sz) (s : State) := countOp popcOf d a sz s

/-- SEL: bits of x where the old s[d] holds 1, of y elsewhere. -/
def execSel (r : RArgs) (s : State) : Host.Outcome State Fault Refusal :=
  let w := r.sz.bits
  let m := lowBits w (s.rs r.d)
  let x := lowBits w (s.rs r.a)
  let y := lowBits w (s.rs r.b)
  .next (s.ws r.d (sextW w ((x &&& m) ||| (y &&& (2 ^ w - 1 - m)))))

/-- MOV: the low w bits, sign-extended. -/
def execMov (d a : SReg) (sz : Sz) (s : State) : Host.Outcome State Fault Refusal :=
  .next (s.ws d (sextW sz.bits (lowBits sz.bits (s.rs a))))

/-! ### Immediate forms (05 R137, R138) -/

/-- An immediate form on all 64 bits of s[d]. -/
def immOp (f : Word → Word → Word) (d : SReg) (imm : BitVec 14) (s : State) : Host.Outcome State Fault Refusal :=
  .next (s.ws d (f (s.rs d) (imm.signExtend 64)))

/-- An immediate shift: the count is unsigned, and one of 64 or more raises ILLEGAL. -/
def shiftImm (f : Word → Nat → Word) (d : SReg) (imm : BitVec 14) (s : State) : Host.Outcome State Fault Refusal :=
  s.orTrap (trapIf (64 ≤ imm.toNat) (s.illegal 2)) (s.ws d (f (s.rs d) imm.toNat))

def execAddi (d : SReg) (imm : BitVec 14) (s : State) := immOp (fun x i => x + i) d imm s
def execAndi (d : SReg) (imm : BitVec 14) (s : State) := immOp (fun x i => x &&& i) d imm s
def execOri (d : SReg) (imm : BitVec 14) (s : State) := immOp (fun x i => x ||| i) d imm s
def execXori (d : SReg) (imm : BitVec 14) (s : State) := immOp (fun x i => x ^^^ i) d imm s
def execShli (d : SReg) (imm : BitVec 14) (s : State) := shiftImm (fun x k => x <<< k) d imm s
def execShri (d : SReg) (imm : BitVec 14) (s : State) := shiftImm (fun x k => x >>> k) d imm s
def execSari (d : SReg) (imm : BitVec 14) (s : State) := shiftImm (fun x k => x.sshiftRight k) d imm s
def execMovi (d : SReg) (imm : BitVec 14) (s : State) := immOp (fun _ i => i) d imm s

/-- LIT: the sign-extended literal. -/
def execLit (d : SReg) (l : Word32) (s : State) : Host.Outcome State Fault Refusal := .next (s.ws d (l.signExtend 64))

/-- LITH: the literal over the low half of s[d]. -/
def execLith (d : SReg) (l : Word32) (s : State) : Host.Outcome State Fault Refusal :=
  .next (s.ws d (BitVec.ofNat 64 (l.toNat * 2 ^ 32 + (s.rs d).toNat % 2 ^ 32)))

/-! ### Predicates (05 R139, R140) -/

def execCmp (pd : PReg) (cond : Cond) (a b : SReg) (s : State) : Host.Outcome State Fault Refusal :=
  .next (s.wp pd (condTest cond (s.rs a) (s.rs b)))

def execCmpi (pd : PReg) (cond : Cond) (a : SReg) (l : Word32) (s : State) : Host.Outcome State Fault Refusal :=
  .next (s.wp pd (condTest cond (s.rs a) (l.signExtend 64)))

def execPlog (pd : PReg) (op : PlogOp) (pa pb : PReg) (s : State) : Host.Outcome State Fault Refusal :=
  .next (s.wp pd (plogTest op (s.me.preg pa.val) (s.me.preg pb.val)))

/-! ### Handles (05 R141 to R143); ILLEGAL in shadow mode (05 R157) -/

/-- Write H[r] from a C slot. -/
def State.wh (s : State) (r : HReg) (v : Handle) : State := s.modMe (fun c => c.setH r.val v)

/-- The next sequence tag after `n` steps: 0 stays 0, others cycle through 1 to 255 (05 R142). -/
def nextTag (t : Nat) (n : Int) : Nat := if t = 0 then 0 else (((t : Int) - 1 + n) % 255).toNat + 1

/-- One step of the tile walk by `n` tiles (05 R143). -/
def advance (h : Handle) (n : Int) : Handle :=
  let tw := hget h .tilew; let th := hget h .tileh; let d0 := hget h .dim0; let d1 := hget h .dim1
  if tw = 0 ∨ th = 0 ∨ d0 = 0 ∨ d1 = 0 then h
  else
    let nx := ceilDiv d0 tw
    let ny := ceilDiv d1 th
    let byCol := hget h .walk % 2 = 1
    let i := if byCol then hget h .tx * ny + hget h .ty else hget h .ty * nx + hget h .tx
    let i := (((i : Int) + n) % ((nx * ny : Nat) : Int)).toNat
    if byCol then hset (hset h .tx (i / ny)) .ty (i % ny) else hset (hset h .ty (i / nx)) .tx (i % nx)

def execHmake (hd : HReg) (a : SReg) (s : State) : Host.Outcome State Fault Refusal :=
  let w (i : Nat) : Nat := (s.me.sreg (a.val + i)).toNat
  s.orTrap (firstTrap [trapIf (60 < a.val) (s.illegal 2), s.noShadow])
    (s.wh hd (BitVec.ofNat 256 (w 0 + w 1 * 2 ^ 64 + w 2 * 2 ^ 128 + w 3 * 2 ^ 192)))

def execHset (hd : HReg) (a : SReg) (field : HField) (s : State) : Host.Outcome State Fault Refusal :=
  s.orTrap s.noShadow (s.wh hd (hset (s.rh hd) field (s.rs a).toNat))

def execHget (ha : HReg) (d : SReg) (field : HField) (s : State) : Host.Outcome State Fault Refusal :=
  s.orTrap s.noShadow (s.ws d (BitVec.ofNat 64 (hget (s.rh ha) field)))

def execHadv (hd ha : HReg) (a : SReg) (tag : Bool) (s : State) : Host.Outcome State Fault Refusal :=
  let h := advance (s.rh ha) (s.rs a).toInt
  s.orTrap s.noShadow (s.wh hd (if tag then hset h .tag (nextTag (hget h .tag) 1) else h))

def execHmov (hd ha : HReg) (s : State) : Host.Outcome State Fault Refusal :=
  s.orTrap s.noShadow (s.wh hd (s.rh ha))

def execHtag (hd ha : HReg) (a : SReg) (s : State) : Host.Outcome State Fault Refusal :=
  s.orTrap s.noShadow (s.wh hd (hset (s.rh ha) .tag (nextTag (hget (s.rh ha) .tag) (s.rs a).toInt)))

end Sys2Proof.Machine
end

