-- ==== Sys2Proof/Machine/Start.lean ====
section
/-! DEFINITION. The start of a job card: its credit returns, it reads what its engine reads at a start, and its completion is due
(01 R28, R30, R462; 11 R331). -/

namespace Sys2Proof.Machine

/-- The first page of the chain that a decode attention card reads: the new SRC of QCHAIN, else the slot's (10 R304). -/
def State.firstPage (s : State) (c : JobCard) : Option Nat :=
  let v := s.slot c.col (slotNo c)
  let src : Nat := match c.op with | .qchain _ _ => c.operand.toNat | _ => dSrc v.desc
  let reads : Bool := match c.op with | .qstep _ _ => true | .qchain _ _ => true | _ => false
  if reads && v.bound && dMode v.desc = 2 && s.srcOk c.core v.desc src then some src else none

/-- The chains with a home in a colonnade that a page stands in. -/
def State.chainsWith (s : State) (col p : Nat) : List (Nat × Nat) :=
  (s.seqs.filter (fun e => e.2.isOpen)).flatMap (fun e =>
    ((List.range e.2.nchain).filter (fun i => e.2.home i = col && (s.chain e.1 i).contains p)).map (fun i => (e.1, i)))

/-- A card that reads a chain registers as its reader: of every chain that its first page stands in (11 R331). -/
def State.addReader (s : State) (c : JobCard) : State :=
  match s.firstPage c with
  | none => s
  | some p => { s with readers := (s.chainsWith c.col p).map (fun x => (c.serial, x.1, x.2)) ++ s.readers }

/-- What a card reads at its start, by engine. -/
def State.startData (s : State) (e : Engine) (c : JobCard) : JobCard :=
  match e with
  | .samp0 => s.sampStart c
  | .samp1 => s.sampStart c
  | .time => s.timeStart c
  | .link1 => s.linkStart c
  | .link2 => s.linkStart c
  | .link3 => s.linkStart c
  | _ => c

/-- Start the card at the head of a queue, whose lines were taken when its wait condition was met. -/
def State.startHead (s : State) (q : QueueRef) (c : JobCard) : State :=
  let run := { s.startData q.engine c with started := s.wall }
  let s := s.modQueue q (fun u => { u with cards := u.cards.tail, running := some run })
  let s := (s.giveCredit (queueKey q) c).addReader c
  let w := s.freshSlack
  let d := match c.op with | .frecl _ => w.1 % 256 | _ => w.1
  w.2.eventAt (s.wall + 1 + d) (completionOp q.engine) { q := q, opt := some c.serial }

/-- The engine of a queue goes on to the card it starts next (01 R31). -/
def State.wentOn (s : State) (q : QueueRef) (c : JobCard) : State :=
  let e := engineKey q
  if FMap.get 0 s.starting e = c.serial + 1 then State.nextStart { s with starting := FMap.set 0 s.starting e 0 } q else s

/-- Whether a colonnade's group is frozen for a pre-emption: its decode attention engine starts no further card (15 R431). -/
def State.leaving_ (s : State) (q : QueueRef) : Bool :=
  q.engine = .decode && (s.group (s.col q.col).group).conds.contains .preempt

/-- JOB_CARD_START: the head card of a queue starts once its wait condition holds, its token lines taken; at most one card of a queue
runs (01 R28, R31, R34, R462). -/
def execJobCardStart (s : State) : Host.Outcome State Fault Refusal :=
  let q := s.ev.q
  let s := match s.headReady q with | some c => s.claimHead q c | none => s
  match (s.queue q).running, (s.queue q).cards with
  | none, c :: _ =>
    if s.leaving_ q then .next (s.eventAt (s.wall + 11) .jobCardStart s.ev)
    else if c.claimed ≠ 0 && (s.ev.opt.isNone || s.ev.opt = some c.serial) then .next ((s.startHead q c).wentOn q c) else .next s
  | _, _ => .next s

end Sys2Proof.Machine
end

