-- ==== Sys2Proof/Machine/Vector.lean ====
section
/-! DEFINITION. The vector engine (08 R227 to R260): issue into the in-order pipeline, and what each instruction computes
from a quarter (or the whole) of its registers. -/

namespace Sys2Proof.Machine

/-! ### Registers, masks and elements (08 R228, R229; 03 R80) -/

/-- Lane L of a vector register. -/
def Core.vlane (c : Core) (r l : Nat) : Nat := (FMap.get 0 (FMap.get [] c.v r) l).toNat

/-- Write lanes of a register from lane `first` on. -/
def Core.setLanes (c : Core) (r first : Nat) (lanes : List Word32) : Core :=
  { c with v := FMap.set [] c.v r (FMap.splice 0 (FMap.get [] c.v r) first lanes) }

/-- Replace `count` bits of a mask from bit `first` on. -/
def Core.setMask (c : Core) (m first count bits : Nat) : Core :=
  let old := FMap.get 0 c.m m
  { c with m := FMap.set 0 c.m m (old - old / 2 ^ first % 2 ^ count * 2 ^ first + bits % 2 ^ count * 2 ^ first) }

/-- Element j of a lane. -/
def elemOf (t : VType) (lane j : Nat) : Nat := lane / 2 ^ (j * t.width) % 2 ^ t.width

/-- A lane of elements, element 0 first. -/
def packElems (t : VType) : List Nat → Nat
  | [] => 0
  | x :: r => x % 2 ^ t.width + 2 ^ t.width * packElems t r

/-- The float format of a type; f32 for the integer types, which do not use it. -/
def vfmt : VType → FloatFmt
  | .bf16x2 => bf16F | .f16x2 => f16F | .e4m3x4 => e4m3F | .e5m2x4 => e5m2F | _ => f32F

/-- The element format of a type: integers are signed. -/
def velem (t : VType) : ElemFmt := if t.isInt then .int t.width true else .flt (vfmt t)

/-- Whether a mask holds 1 for element j of lane L: its lowest owned bit. -/
def Core.maskBit (c : Core) (m : Nat) (t : VType) (l j : Nat) : Bool := bitOf (FMap.get 0 c.m m) (4 * l + j * (4 / t.k))

/-- What a quarter or a whole instruction writes: lanes, mask bits, accumulator words, coefficient words, rows pushed into
SQ, and flags. -/
structure VOut where
  lanes : List (Nat × Nat × List Word32) := []
  masks : List (Nat × Nat × Nat × Nat) := []
  acc : List (Nat × Nat × List Word) := []
  push : List Row := []
  flags : Nat := 0
deriving DecidableEq, Repr

/-- Lanes from `first` on, each of elements with flags, as a write of a register. -/
def VOut.ofElems (t : VType) (reg first : Nat) (ls : List (List (Nat × Nat))) : VOut :=
  { lanes := [(reg, first, ls.map (fun l => BitVec.ofNat 32 (packElems t (l.map (·.1)))))],
    flags := ls.foldl (fun f l => l.foldl (fun f x => f ||| x.2) f) 0 }

/-- Lanes from `first` on as a write of a register. -/
def VOut.ofLanes (reg first : Nat) (ls : List Nat) : VOut := { lanes := [(reg, first, ls.map (BitVec.ofNat 32))] }

/-- An elementwise function over lanes: it is given the lane, the element and the elements of va, vb and the old vd. -/
def mapElems (c : Core) (v : VArgs) (ls : List Nat) (f : Nat → Nat → Nat → Nat → Nat → Nat × Nat) : VOut :=
  VOut.ofElems v.ty v.vd.val (ls.headD 0) (ls.map (fun l => (List.range v.ty.k).map (fun j =>
    f l j (elemOf v.ty (c.vlane v.va.val l) j) (elemOf v.ty (c.vlane v.vb.val l) j)
      (elemOf v.ty (c.vlane v.vd.val l) j))))

/-- A function over whole lanes. -/
def mapLanes (v : VArgs) (ls : List Nat) (f : Nat → Nat) : VOut := VOut.ofLanes v.vd.val (ls.headD 0) (ls.map f)

/-- Mask bits over lanes from a test of each element: every bit an element owns. -/
def mapMask (m : Nat) (t : VType) (ls : List Nat) (f : Nat → Nat → Bool) : VOut :=
  let first := ls.headD 0
  let bits := ls.foldl (fun n l => (List.range t.k).foldl (fun n j =>
    if f l j then n + (2 ^ (4 / t.k) - 1) * 2 ^ (4 * (l - first) + j * (4 / t.k)) else n) n) 0
  { masks := [(m, 4 * first, 4 * ls.length, bits)] }

/-! ### Elementwise arithmetic (08 R237 to R242) -/

/-- Wrap to w bits, or clamp to the signed range with OF. -/
def wrapOrClamp (sat : Bool) (w : Nat) (i : Int) : Nat × Nat :=
  let hi : Int := 2 ^ (w - 1) - 1
  let lo : Int := -(2 ^ (w - 1))
  if sat && hi < i then (wrapInt w hi, flagOF)
  else if sat && i < lo then (wrapInt w lo, flagOF)
  else (wrapInt w i, 0)

/-- VADD, VSUB, VMUL: an integer operation at the element's width, or a float one under the mode's rounding. -/
def arith (v : VArgs) (fi : Int → Int → Int) (ff : FloatFmt → Rnd → Nat → Nat → Nat × Nat) (word : Nat) (a b : Nat) :
    Nat × Nat :=
  let w := v.ty.width
  if v.ty.isInt then wrapOrClamp (v.mode.val = 1) w (fi (signedOf w a) (signedOf w b))
  else ff (vfmt v.ty) (Rnd.ofCode v.mode.val word) a b

/-- Integer minimum or maximum, signed or unsigned, or the float one. -/
def minMax (v : VArgs) (big : Bool) (a b : Nat) : Nat :=
  let w := v.ty.width
  if v.ty.isInt then
    let less : Bool := if v.mode.val = 0 then decide (signedOf w a < signedOf w b) else decide (a < b)
    if less = big then b else a
  else if big then (vfmt v.ty).maxOf a b else (vfmt v.ty).minOf a b

/-- VABS and VNEG: integers wrap or saturate at the minimum; floats change the sign bit alone, NaN canonical. -/
def absNeg (v : VArgs) (neg : Bool) (a : Nat) : Nat × Nat :=
  let w := v.ty.width
  if v.ty.isInt then
    let x := signedOf w a
    wrapOrClamp (v.mode.val = 1) w (if neg then -x else (x.natAbs : Int))
  else
    match (vfmt v.ty).value a with
    | .nan => ((vfmt v.ty).nanBits, 0)
    | _ => (if neg then a ^^^ 2 ^ (w - 1) else a % 2 ^ (w - 1), 0)

/-- Signed division by 2^k, rounded to nearest even; zero for a count of the width or more. -/
def rshr (w a k : Nat) : Nat × Nat :=
  if w ≤ k then (0, flagIf (a ≠ 0) flagNX)
  else
    let x := signedOf w a
    let r := roundAt .rne k (intExact x 0)
    (wrapInt w (if x < 0 then -(r.1 : Int) else r.1), flagIf r.2 flagNX)

/-- The four shifts: 0 VSHL, 1 VSHR, 2 VSAR, 3 VRSHR. -/
def shiftElem (op w a k : Nat) : Nat × Nat :=
  match op with
  | 0 => (shlW w a k, 0)
  | 1 => (shrW w a k, 0)
  | 2 => (sarW w a k, 0)
  | _ => rshr w a k

/-- VMULH. -/
def mulhElem (v : VArgs) (a b : Nat) : Nat :=
  let w := v.ty.width
  let p := signedOf w a * signedOf w b
  if v.mode.val = 0 then mulhW w a b
  else
    let r := (roundAt .rne w (intExact p 0)).1
    wrapInt w (if p < 0 then -(r : Int) else r)

/-- VSAT. -/
def satElem (v : VArgs) (a : Nat) : Nat × Nat :=
  let w := v.ty.width
  let n := v.vb.val + 1
  let x := signedOf w a
  let hi : Int := if v.mode.val = 0 then 2 ^ (n - 1) - 1 else 2 ^ n - 1
  let lo : Int := if v.mode.val = 0 then -(2 ^ (n - 1)) else 0
  if hi < x then (wrapInt w hi, flagOF) else if x < lo then (wrapInt w lo, flagOF) else (a, 0)

/-- A comparison of elements (08 R244). -/
def cmpElem (t : VType) (cond a b : Nat) : Bool :=
  let w := t.width
  if t.isInt then
    match cond with
    | 0 => a == b
    | 1 => a != b
    | 2 => decide (signedOf w a < signedOf w b)
    | 3 => decide (signedOf w a ≤ signedOf w b)
    | 4 => decide (a < b)
    | _ => decide (a ≤ b)
  else
    let x := (vfmt t).value a; let y := (vfmt t).value b
    match cond with
    | 0 => x.eqv y
    | 1 => !x.eqv y
    | 2 => x.lt y
    | _ => x.lt y || x.eqv y

/-! ### Conversions and draws (08 R247 to R250) -/

/-- The random-word index of a mode-2 rounding of the element with a logical index. -/
def roundIndex (sched index : Nat) : Nat := index + 2 ^ 32 * (sched % 2 ^ 32)

/-- VCVT over lanes: a narrowing keeps the elements of vd outside its part. -/
def cvtLanes (c : Core) (v : VArgs) (draw : Nat → Nat → Nat) (sched : Nat) (ls : List Nat) : VOut :=
  let tt := VType.ofCode (v.vb.val % 8)
  let p := v.vb.val / 8
  let ks := v.ty.k; let kt := tt.k
  let conv (l dst a : Nat) : Nat × Nat :=
    let mode := if v.mode.val = 3 then Rnd.rne
      else Rnd.ofCode v.mode.val (if v.mode.val = 2 then draw 0 (roundIndex sched (l * kt + dst)) else 0)
    convertNum (velem tt) (v.mode.val = 3) mode ((velem v.ty).value a)
  VOut.ofElems tt v.vd.val (ls.headD 0) (ls.map (fun l =>
    let a := c.vlane v.va.val l
    let d := c.vlane v.vd.val l
    (List.range kt).map (fun j =>
      if ks < kt then
        if p * ks ≤ j ∧ j < p * ks + ks then conv l j (elemOf v.ty a (j - p * ks)) else (elemOf tt d j, 0)
      else conv l j (elemOf v.ty a (p * kt + j)))))

/-- VSRND: a stochastic rounding to a narrower format, kept as f32. -/
def srndElem (v : VArgs) (word a : Nat) : Nat × Nat :=
  let f := match v.mode.val with | 0 => bf16F | 1 => f16F | 2 => e5m2F | _ => e4m3F
  let r := convertFloat f false (.sr word) (f32F.value a)
  ((convertFloat f32F false .rne (f.value r.1)).1, r.2)

/-- VRAND: the low word, or bits [63:40] scaled to [0, 1). -/
def randElem (v : VArgs) (word : Nat) : Nat :=
  if v.ty = .i32 then word % 2 ^ 32 else rneF32 (intExact (word / 2 ^ 40 % 2 ^ 24 : Nat) (-24))

/-! ### Reductions and scans (08 R254) -/

/-- The operator of a code on elements with the flags gathered so far. -/
def reduceOp (v : VArgs) (x y : Nat × Nat) : Nat × Nat :=
  let w := v.ty.width
  let r : Nat × Nat :=
    match v.vb.val with
    | 0 =>
      if v.ty.isInt then wrapOrClamp (v.mode.val / 2 = 1) w (signedOf w x.1 + signedOf w y.1)
      else (vfmt v.ty).add .rne x.1 y.1
    | 1 => (if v.ty.isInt then maxS w x.1 y.1 else (vfmt v.ty).maxOf x.1 y.1, 0)
    | 2 => (if v.ty.isInt then minS w x.1 y.1 else (vfmt v.ty).minOf x.1 y.1, 0)
    | 3 => (max x.1 y.1, 0)
    | 4 => (min x.1 y.1, 0)
    | 5 => (x.1 &&& y.1, 0)
    | 6 => (x.1 ||| y.1, 0)
    | _ => (x.1 ^^^ y.1, 0)
  (r.1, x.2 ||| y.2 ||| r.2)

/-- A group's result: the tree's root in every element, or the scan. -/
def reduceGroup (v : VArgs) (scan : Bool) (l : List Nat) : List (Nat × Nat) :=
  let l' := l.map (fun x => (x, 0))
  if scan then (List.range l.length).map (fun i => (scanAt (reduceOp v) l' i).getD (0, 0))
  else
    let r := (tree (reduceOp v) l').getD (0, 0)
    l.map (fun _ => r)

/-- Cut a list into lanes of k elements. -/
def chunks {α : Type} (k n : Nat) (l : List α) : List (List α) := (List.range n).map (fun i => (l.drop (i * k)).take k)

/-- The elements of lanes of va in logical order. -/
def rowElems (c : Core) (v : VArgs) (ls : List Nat) : List Nat :=
  ls.flatMap (fun l => (List.range v.ty.k).map (fun j => elemOf v.ty (c.vlane v.va.val l) j))

/-- Reduce or scan each row of the lanes. -/
def reduceRows (c : Core) (v : VArgs) (scan : Bool) (ls : List Nat) : VOut :=
  let rows := chunks 64 (ls.length / 64) ls
  VOut.ofElems v.ty v.vd.val (ls.headD 0)
    (rows.flatMap (fun r => chunks v.ty.k 64 (reduceGroup v scan (rowElems c v r))))

/-- Reduce or scan the whole register. -/
def reduceFlat (c : Core) (v : VArgs) (scan : Bool) : VOut :=
  VOut.ofElems v.ty v.vd.val 0 (chunks v.ty.k 1024 (reduceGroup v scan (rowElems c v (List.range 1024))))

/-- Reduce or scan each column position down the 16 rows. -/
def reduceCols (c : Core) (v : VArgs) (scan : Bool) : VOut :=
  let cols := (List.range 64).map (fun x => (List.range v.ty.k).map (fun j =>
    reduceGroup v scan ((List.range 16).map (fun r => elemOf v.ty (c.vlane v.va.val (64 * r + x)) j))))
  VOut.ofElems v.ty v.vd.val 0 ((List.range 1024).map (fun l =>
    ((cols[l % 64]?.getD []).map (fun g => g[l / 64]?.getD (0, 0)))))

/-! ### Special functions (08 R258) -/

/-- VSFN of one f32 element through table f of the coefficient memory; t of a v of -0 is +0 (log entry 133). -/
def sfnElem (coef : Nat → Nat) (f x : Nat) : Nat × Nat :=
  let w0 := coef (4 * f)
  let base := w0 % 4096
  let nseg := w0 / 4096 % 2048
  match f32F.value x with
  | .nan => (f32F.nanBits, 0)
  | _ =>
    if nseg = 0 then (f32F.nanBits, flagNV)
    else
      let u := f32F.sub .rne x (coef (4 * f + 1))
      let v := f32F.mul .rne u.1 (coef (4 * f + 2))
      let fl := u.2 ||| v.2
      let val := f32F.value v.1
      let n : Num := .fin (intExact nseg 0)
      match val with
      | .nan => (f32F.nanBits, fl)
      | _ =>
        let pick : Nat × Nat :=
          if val.lt (.fin (intExact 0 0)) then (0, 0)
          else if !val.lt n then (nseg - 1, 0x3F800000)
          else
            match val with
            | .fin y =>
              let s := (roundAt .rz 0 y).1
              (s, rneF32 (y.add (intExact (-(s : Int)) 0)))
            | _ => (0, 0)
        let cf (i : Nat) : Nat := coef ((base + 4 * pick.1 + i) % 4096)
        let a := f32F.fma .rne (cf 3) pick.2 (cf 2)
        let b := f32F.fma .rne a.1 pick.2 (cf 1)
        let y := f32F.fma .rne b.1 pick.2 (cf 0)
        (y.1, fl ||| a.2 ||| b.2 ||| y.2)

/-! ### What an instruction computes over lanes -/

/-- Class and depth (08 R231): whether whole-register, and D. -/
def vecClass (i : Instr) : Bool × Nat :=
  match i with
  | .vadd v | .vsub v | .vmin v | .vmax v | .vabs v | .vneg v => (false, if v.ty.isInt then 1 else 3)
  | .vmul v => (false, if v.ty.isInt then 2 else 3)
  | .vmac _ | .vmulh _ | .vcvt _ | .vsrnd _ => (false, 2)
  | .vfma _ | .vrand _ | .vsfn _ => (false, 3)
  | .vrotr v | .vshfr v => if v.mode.val % 2 = 1 then (true, 2) else (false, 1)
  | .vredr v | .vscanr v => if v.mode.val % 2 = 1 then (true, 5) else (false, 3)
  | .vrotc _ | .vbcc _ | .vtrn _ => (true, 1)
  | .vredc _ | .vscanc _ => (true, 2)
  | _ => (false, 1)

/-- Mask operations of one quarter's bits. -/
def maskOp (c : Core) (v : VArgs) (ls : List Nat) (f : Nat → Nat → Nat) : VOut :=
  let first := 4 * ls.headD 0
  let n := 4 * ls.length
  let x := FMap.get 0 c.m v.va.val / 2 ^ first % 2 ^ n
  let y := FMap.get 0 c.m (v.vb.val % 8) / 2 ^ first % 2 ^ n
  { masks := [(v.vd.val, first, n, f x y)] }

/-- Bitwise operations on whole lanes or on masks (08 R243). -/
def bitwise (c : Core) (v : VArgs) (ls : List Nat) (f : Nat → Nat → Nat) : VOut :=
  if v.mode.val = 3 then maskOp c v ls f
  else mapLanes v ls (fun l => f (c.vlane v.va.val l) (c.vlane v.vb.val l) % 2 ^ 32)

/-- Shifts over lanes. -/
def shiftLanes (c : Core) (v : VArgs) (op : Nat) (ls : List Nat) : VOut :=
  mapElems c v ls (fun _ _ a b _ => shiftElem op v.ty.width a (if v.mode.val = 1 then v.vb.val else b))

/-- A widening VMAC (08 R238). -/
def widen (c : Core) (v : VArgs) (ls : List Nat) : VOut :=
  let w := v.ty.width
  { lanes := (List.range v.ty.k).map (fun j => (v.vd.val + j, ls.headD 0, ls.map (fun l =>
      let p := signedOf w (elemOf v.ty (c.vlane v.va.val l) j) * signedOf w (elemOf v.ty (c.vlane v.vb.val l) j)
      let old : Int := if v.mode.val = 2 then signedOf 32 (c.vlane (v.vd.val + j) l) else 0
      BitVec.ofInt 32 (old + p)))) }

/-- VRDACC's element. -/
def rdaccElem (mode : Nat) (a : Word) : Nat × Nat :=
  match mode with
  | 0 => (a.toNat % 2 ^ 32, 0)
  | 1 => wrapOrClamp true 32 a.toInt
  | _ => (a.toNat / 2 ^ 32, 0)

/-- VWRACC's word. -/
def wraccWord (mode lane : Nat) : Word :=
  match mode with
  | 0 => BitVec.ofInt 64 (signedOf 32 lane)
  | 1 => BitVec.ofNat 64 lane
  | _ => BitVec.ofNat 64 (lane * 2 ^ 32)

/-- A register row as 256 bytes. -/
def Core.vrow (c : Core) (r row : Nat) : Row := (List.range 64).flatMap (fun x => leBytes 4 (c.vlane r (64 * row + x)))

/-- What an instruction makes of the lanes `ls` (a quarter, or all for a whole-register one), as the core stands. -/
def vecOut (c : Core) (draw : Nat → Nat → Nat) (sched : Nat) (i : Instr) (ls : List Nat) : VOut :=
  let word (v : VArgs) (l j : Nat) : Nat :=
    if v.mode.val = 2 && !v.ty.isInt then draw 0 (roundIndex sched (l * v.ty.k + j)) else 0
  match i with
  | .vadd v => mapElems c v ls (fun l j a b _ => arith v (· + ·) FloatFmt.add (word v l j) a b)
  | .vsub v => mapElems c v ls (fun l j a b _ => arith v (· - ·) FloatFmt.sub (word v l j) a b)
  | .vmul v => mapElems c v ls (fun l j a b _ => arith v (· * ·) FloatFmt.mul (word v l j) a b)
  | .vmac v =>
    if 2 ≤ v.mode.val then widen c v ls
    else mapElems c v ls (fun _ _ a b d =>
      let w := v.ty.width
      wrapOrClamp (v.mode.val = 1) w (signedOf w d + signedOf w a * signedOf w b))
  | .vfma v => mapElems c v ls (fun l j a b d => (vfmt v.ty).fma (Rnd.ofCode v.mode.val (word v l j)) a b d)
  | .vmin v => mapElems c v ls (fun _ _ a b _ => (minMax v false a b, 0))
  | .vmax v => mapElems c v ls (fun _ _ a b _ => (minMax v true a b, 0))
  | .vabs v => mapElems c v ls (fun _ _ a _ _ => absNeg v false a)
  | .vneg v => mapElems c v ls (fun _ _ a _ _ => absNeg v true a)
  | .vand v => bitwise c v ls (· &&& ·)
  | .vor v => bitwise c v ls (· ||| ·)
  | .vxor v => bitwise c v ls (· ^^^ ·)
  | .vnot v => bitwise c v ls (fun x _ => (2 ^ (if v.mode.val = 3 then 4 * ls.length else 32) - 1) - x)
  | .vshl v => shiftLanes c v 0 ls
  | .vshr v => shiftLanes c v 1 ls
  | .vsar v => shiftLanes c v 2 ls
  | .vrshr v => shiftLanes c v 3 ls
  | .vsat v => mapElems c v ls (fun _ _ a _ _ => satElem v a)
  | .vclz v => mapElems c v ls (fun _ _ a _ _ => (clzOf v.ty.width a, 0))
  | .vffs v => mapElems c v ls (fun _ _ a _ _ => (ffsOf v.ty.width a, 0))
  | .vpopc v => mapElems c v ls (fun _ _ a _ _ => (popcOf v.ty.width a, 0))
  | .vcmp v =>
    let cond := v.vd.val / 8 * 4 + v.mode.val
    mapMask (v.vd.val % 8) v.ty ls (fun l j =>
      cmpElem v.ty cond (elemOf v.ty (c.vlane v.va.val l) j) (elemOf v.ty (c.vlane v.vb.val l) j))
  | .vsel v => mapElems c v ls (fun l j a b _ => (if c.maskBit v.mode.val v.ty l j then a else b, 0))
  | .vcvt v => cvtLanes c v draw sched ls
  | .vsrnd v => mapElems c v ls (fun _ _ a b _ => srndElem v (draw 0 b) a)
  | .vrand v => mapElems c v ls (fun _ _ a _ _ => (randElem v (draw 1 a), 0))
  | .viota v => mapElems c v ls (fun l j _ _ _ =>
      ((match v.mode.val with | 0 => l * v.ty.k + j | 1 => l % 64 * v.ty.k + j | _ => l / 64) % 2 ^ v.ty.width, 0))
  | .vmov v =>
    match v.mode.val with
    | 0 => mapLanes v ls (c.vlane v.va.val)
    | 1 => mapElems c v ls (fun l j _ _ _ => (if c.maskBit v.va.val v.ty l j then 2 ^ v.ty.width - 1 else 0, 0))
    | 2 => mapMask v.vd.val v.ty ls (fun l j => elemOf v.ty (c.vlane v.va.val l) j ≠ 0)
    | _ => maskOp c v ls (fun x _ => x)
  | .vimm v lit => mapLanes v ls (fun _ => lit.toNat)
  | .vmulh v => mapElems c v ls (fun _ _ a b _ => (mulhElem v a b, 0))
  | .vrotr v =>
    let k := if v.vb.val = 0 then 32 else v.vb.val
    let n := if v.mode.val % 2 = 1 then 1024 else 64
    mapLanes v ls (fun l => c.vlane v.va.val (l / n * n + (l % n + (if v.mode.val / 2 = 1 then k else n - k)) % n))
  | .vrotc v => mapLanes v ls (fun l => c.vlane v.va.val ((l / 64 + 16 - v.vb.val % 16) % 16 * 64 + l % 64))
  | .vbcr v => mapLanes v ls (fun l => c.vlane v.va.val (l / 64 * 64 + v.mode.val % 2 * 32 + v.vb.val))
  | .vbcc v => mapLanes v ls (fun l => c.vlane v.va.val (v.vb.val % 16 * 64 + l % 64))
  | .vredr v => if v.mode.val % 2 = 1 then reduceFlat c v false else reduceRows c v false ls
  | .vscanr v => if v.mode.val % 2 = 1 then reduceFlat c v true else reduceRows c v true ls
  | .vredc v => reduceCols c v false
  | .vscanc v => reduceCols c v true
  | .vshfr v =>
    mapLanes v ls (fun l =>
      let x := c.vlane v.vb.val l
      c.vlane v.va.val (if v.mode.val % 2 = 1 then x % 1024 else l / 64 * 64 + x % 64))
  | .vtrn v => mapLanes v ls (fun l => c.vlane v.va.val (l % 16 * 64 + l % 64 / 16 * 16 + l / 64))
  | .vpush v =>
    { push := (List.range' (ls.headD 0 / 64) (ls.length / 64)).filterMap (fun r =>
        if r ≤ v.vb.val then some (c.vrow v.va.val r) else none) }
  | .vrdacc v =>
    VOut.ofElems .i32 v.vd.val (ls.headD 0) (ls.map (fun l =>
      [rdaccElem v.mode.val (c.accWord v.va.val (16 * (v.vb.val % 4) + l / 64) (l % 64))]))
  | .vwracc v =>
    { acc := [(v.vd.val, 16 * (v.vb.val % 4) * 64 + ls.headD 0,
        ls.map (fun l => wraccWord v.mode.val (c.vlane v.va.val l)))] }
  | .vsfn v => mapElems c v ls (fun _ _ a _ _ => sfnElem (fun n => (FMap.get 0 c.coef n).toNat) v.vb.val a)
  | _ => {}

/-! ### Issue (08 R230 to R234) -/

/-- The opcode of an instruction. -/
def opcodeOf (i : Instr) : Nat := match encode i with | some e => e.op | none => 0

/-- Quarters that an instruction runs: four, or ⌈COUNT/4⌉ for VCOEF. -/
def vecQuarters (i : Instr) : Nat :=
  match i with
  | .vcoef _ l => (bitsOf l.toNat 13 8 + 1 + 3) / 4
  | _ => 4

/-- The finish of an instruction that starts at a cycle. -/
def vecFinish (i : Instr) (start : Nat) : Nat :=
  match i with
  | .vcoef .. => start + max 3 (vecQuarters i)
  | _ => start + 3 + (if (vecClass i).1 then (vecClass i).2 else 0)

/-- The cycle of an instruction's last write. -/
def vecLast (i : Instr) (start : Nat) : Nat :=
  match i with
  | .vpop v => start + v.vb.val / 4 + 1
  | _ => start + 3 + (vecClass i).2

/-- The registers (and masks, from 0x20 on) that an instruction writes (08 R233). -/
def vecWrites (i : Instr) : List Nat :=
  match i with
  | .vcmp v => [0x20 + v.vd.val % 8]
  | .vmov v => [if 2 ≤ v.mode.val then 0x20 + v.vd.val else v.vd.val]
  | .vand v | .vor v | .vxor v | .vnot v => [if v.mode.val = 3 then 0x20 + v.vd.val else v.vd.val]
  | .vmac v => if 2 ≤ v.mode.val then (List.range v.ty.k).map (v.vd.val + ·) else [v.vd.val]
  | .vpush _ | .vwracc _ | .vcoef .. => []
  | i => ((vectorArgs i).map (fun v => [v.vd.val])).getD []

/-- The check that VWRACC makes of the slot it writes (08 R257); the rows that VRDACC reads are judged when it reads them (07 R215). -/
def State.vecCheck (s : State) (i : Instr) : Option Trap :=
  let c := s.me
  match i with
  | .vwracc v =>
    if !c.isOwned v.vd.val then some (s.trapHere .sched (slotTval v.vd.val true 0x33) 9)
    else s.busyTrap v.vd.val 0x33
  | _ => none

/-- Accept a vector instruction into the pipeline (08 R230, R232). -/
def vecIssue (i : Instr) (s : State) : Host.Outcome State Fault Refusal :=
  let c := s.here.cycle
  let start := max (c + 1) (s.me.vfin + 1)
  s.orTrap (firstTrap
      [s.wfCheck i, s.allotment s.here.slot i 1 (fun _ => 0),
       trapIf (Config.maxBacklog < start - (c + 1)) (s.trapHere .sched (schedTval 8 (opcodeOf i)) 9),
       s.vecCheck i])
    (let r : VecRun := { op := i, sched := c, start := start }
     let s := s.modMe (fun k => { k with
       vfin := vecFinish i start,
       pending := (vecWrites i).map (fun x => ⟨true, x, vecLast i start⟩) ++ k.pending.filter (fun p => c ≤ p.last) })
     let ph := match i with | .vpop _ => phPop | .vcoef .. => phPop | _ => phRead
     let qs := if (vecClass i).1 then [3] else List.range (vecQuarters i)
     qs.foldl (fun s q => s.atCycle s.here.core (start + q) ph s.here.core (.vec s.src r q)) s)

/-! ### Quarters at their cycles -/

/-- Put the writes of an instruction on the agenda: registers and masks at `w`, flags at the last write. -/
def State.vecWrite (s : State) (src : Src) (o : VOut) (w last : Nat) : State :=
  let k := src.core
  let s := o.lanes.foldl (fun s x => s.atCycle k w phWrite 0 (.eff k (.vlanes x.1 x.2.1 x.2.2))) s
  let s := o.masks.foldl (fun s x => s.atCycle k w phWrite 0 (.eff k (.vmask x.1 x.2.1 x.2.2.1 x.2.2.2))) s
  let s := o.acc.foldl (fun s x => s.atCycle k w phWrite 2 (.eff k (.vacc x.1 x.2.1 x.2.2))) s
  let s := if o.push.isEmpty then s else s.atCycle k w phPush k (.put src (.queue .sq) o.push)
  if o.flags = 0 then s else s.atCycle k last phReg 0 (.eff k (.flags o.flags))

/-- The 32-bit words of a row. -/
def rowWords (r : Row) : List Word32 := (List.range 64).map (fun i => BitVec.ofNat 32 (leAt r (4 * i) 4))

/-- A quarter of a vector instruction (or the whole of a whole-register one) at its cycle. -/
def doVec (s : State) (src : Src) (r : VecRun) (q : Nat) : State :=
  let now := r.start + q
  let k := src.core
  let d := (vecClass r.op).2
  match r.op with
  | .vpop v =>
    let n := min 4 (v.vb.val + 1 - 4 * q)
    if n = 0 then s
    else
      let qu : QueueId := match v.va.val with | 0 => .vq0 | 1 => .vq1 | 2 => .vq2 | _ => .vq3
      let p := s.pop src qu n
      if p.2.length < n then p.1
      else p.1.vecWrite src { lanes := [(v.vd.val, 256 * q, p.2.flatMap rowWords)] } (now + 1) (now + 1)
  | .vcoef v l =>
    let first := bitsOf l.toNat 5 0
    let n := min 4 (bitsOf l.toNat 13 8 + 1 - 4 * q)
    let qu : QueueId := match v.va.val with | 0 => .vq0 | 1 => .vq1 | 2 => .vq2 | _ => .vq3
    let p := s.pop src qu n
    if p.2.length < n then p.1
    else p.1.atCycle k (now + 1) phWrite 0 (.eff k (.coef (64 * (first + 4 * q)) (p.2.flatMap rowWords)))
  | .vrdacc v =>
    let c := s.core k
    let row := 16 * (v.vb.val % 4) + 4 * q
    match (List.range' row 4).find? (fun x => c.markAt v.va.val now ≤ x) with
    | some x => lateTrap s src .watermark (markTval v.va.val x (c.markAt v.va.val now))
    | none =>
      s.vecWrite src (vecOut c (s.drawWord k) r.sched r.op (List.range' (256 * q) 256)) (now + d) (r.start + 3 + d)
  | i =>
    let ls := if (vecClass i).1 then List.range 1024 else List.range' (256 * q) 256
    s.vecWrite src (vecOut (s.core k) (s.drawWord k) r.sched i ls) (now + d) (r.start + 3 + d)

/-! ### The meanings -/

def execVadd (v : VArgs) (s : State) : Host.Outcome State Fault Refusal := vecIssue (.vadd v) s
def execVsub (v : VArgs) (s : State) : Host.Outcome State Fault Refusal := vecIssue (.vsub v) s
def execVmul (v : VArgs) (s : State) : Host.Outcome State Fault Refusal := vecIssue (.vmul v) s
def execVmac (v : VArgs) (s : State) : Host.Outcome State Fault Refusal := vecIssue (.vmac v) s
def execVfma (v : VArgs) (s : State) : Host.Outcome State Fault Refusal := vecIssue (.vfma v) s
def execVmin (v : VArgs) (s : State) : Host.Outcome State Fault Refusal := vecIssue (.vmin v) s
def execVmax (v : VArgs) (s : State) : Host.Outcome State Fault Refusal := vecIssue (.vmax v) s
def execVabs (v : VArgs) (s : State) : Host.Outcome State Fault Refusal := vecIssue (.vabs v) s
def execVneg (v : VArgs) (s : State) : Host.Outcome State Fault Refusal := vecIssue (.vneg v) s
def execVand (v : VArgs) (s : State) : Host.Outcome State Fault Refusal := vecIssue (.vand v) s
def execVor (v : VArgs) (s : State) : Host.Outcome State Fault Refusal := vecIssue (.vor v) s
def execVxor (v : VArgs) (s : State) : Host.Outcome State Fault Refusal := vecIssue (.vxor v) s
def execVnot (v : VArgs) (s : State) : Host.Outcome State Fault Refusal := vecIssue (.vnot v) s
def execVshl (v : VArgs) (s : State) : Host.Outcome State Fault Refusal := vecIssue (.vshl v) s
def execVshr (v : VArgs) (s : State) : Host.Outcome State Fault Refusal := vecIssue (.vshr v) s
def execVsar (v : VArgs) (s : State) : Host.Outcome State Fault Refusal := vecIssue (.vsar v) s
def execVrshr (v : VArgs) (s : State) : Host.Outcome State Fault Refusal := vecIssue (.vrshr v) s
def execVsat (v : VArgs) (s : State) : Host.Outcome State Fault Refusal := vecIssue (.vsat v) s
def execVclz (v : VArgs) (s : State) : Host.Outcome State Fault Refusal := vecIssue (.vclz v) s
def execVffs (v : VArgs) (s : State) : Host.Outcome State Fault Refusal := vecIssue (.vffs v) s
def execVpopc (v : VArgs) (s : State) : Host.Outcome State Fault Refusal := vecIssue (.vpopc v) s
def execVcmp (v : VArgs) (s : State) : Host.Outcome State Fault Refusal := vecIssue (.vcmp v) s
def execVsel (v : VArgs) (s : State) : Host.Outcome State Fault Refusal := vecIssue (.vsel v) s
def execVcvt (v : VArgs) (s : State) : Host.Outcome State Fault Refusal := vecIssue (.vcvt v) s
def execVsrnd (v : VArgs) (s : State) : Host.Outcome State Fault Refusal := vecIssue (.vsrnd v) s
def execVrand (v : VArgs) (s : State) : Host.Outcome State Fault Refusal := vecIssue (.vrand v) s
def execViota (v : VArgs) (s : State) : Host.Outcome State Fault Refusal := vecIssue (.viota v) s
def execVmov (v : VArgs) (s : State) : Host.Outcome State Fault Refusal := vecIssue (.vmov v) s
def execVmulh (v : VArgs) (s : State) : Host.Outcome State Fault Refusal := vecIssue (.vmulh v) s
def execVrotr (v : VArgs) (s : State) : Host.Outcome State Fault Refusal := vecIssue (.vrotr v) s
def execVrotc (v : VArgs) (s : State) : Host.Outcome State Fault Refusal := vecIssue (.vrotc v) s
def execVbcr (v : VArgs) (s : State) : Host.Outcome State Fault Refusal := vecIssue (.vbcr v) s
def execVbcc (v : VArgs) (s : State) : Host.Outcome State Fault Refusal := vecIssue (.vbcc v) s
def execVredr (v : VArgs) (s : State) : Host.Outcome State Fault Refusal := vecIssue (.vredr v) s
def execVredc (v : VArgs) (s : State) : Host.Outcome State Fault Refusal := vecIssue (.vredc v) s
def execVscanr (v : VArgs) (s : State) : Host.Outcome State Fault Refusal := vecIssue (.vscanr v) s
def execVscanc (v : VArgs) (s : State) : Host.Outcome State Fault Refusal := vecIssue (.vscanc v) s
def execVshfr (v : VArgs) (s : State) : Host.Outcome State Fault Refusal := vecIssue (.vshfr v) s
def execVtrn (v : VArgs) (s : State) : Host.Outcome State Fault Refusal := vecIssue (.vtrn v) s
def execVpop (v : VArgs) (s : State) : Host.Outcome State Fault Refusal := vecIssue (.vpop v) s
def execVpush (v : VArgs) (s : State) : Host.Outcome State Fault Refusal := vecIssue (.vpush v) s
def execVrdacc (v : VArgs) (s : State) : Host.Outcome State Fault Refusal := vecIssue (.vrdacc v) s
def execVwracc (v : VArgs) (s : State) : Host.Outcome State Fault Refusal := vecIssue (.vwracc v) s
def execVsfn (v : VArgs) (s : State) : Host.Outcome State Fault Refusal := vecIssue (.vsfn v) s
def execVimm (v : VArgs) (l : Word32) (s : State) : Host.Outcome State Fault Refusal := vecIssue (.vimm v l) s
def execVcoef (v : VArgs) (l : Word32) (s : State) : Host.Outcome State Fault Refusal := vecIssue (.vcoef v l) s

end Sys2Proof.Machine
end

