-- ==== Sys2Proof/Machine/Dispatch.lean ====
section
/-! DEFINITION. The one match from instructions to their meanings. -/

namespace Sys2Proof.Machine

/-- The meaning of an instruction in the context the state holds. -/
def exec (i : Instr) (s : State) : Host.Outcome State Fault Refusal :=
  match i with
  | .nopX lit => Sys2Proof.Machine.execNopX lit s
  | .rept count svd sva svb => Sys2Proof.Machine.execRept count svd sva svb s
  | .repts a count svd sva svb => Sys2Proof.Machine.execRepts a count svd sva svb s
  | .trap code => Sys2Proof.Machine.execTrap code s
  | .krd d knum => Sys2Proof.Machine.execKrd d knum s
  | .kwr a knum => Sys2Proof.Machine.execKwr a knum s
  | .icinv a b => Sys2Proof.Machine.execIcinv a b s
  | .add r => Sys2Proof.Machine.execAdd r s
  | .sub r => Sys2Proof.Machine.execSub r s
  | .mul r => Sys2Proof.Machine.execMul r s
  | .mulh r => Sys2Proof.Machine.execMulh r s
  | .div r => Sys2Proof.Machine.execDiv r s
  | .divn r => Sys2Proof.Machine.execDivn r s
  | .rem r => Sys2Proof.Machine.execRem r s
  | .remn r => Sys2Proof.Machine.execRemn r s
  | .and r => Sys2Proof.Machine.execAnd r s
  | .or r => Sys2Proof.Machine.execOr r s
  | .xor r => Sys2Proof.Machine.execXor r s
  | .shl r => Sys2Proof.Machine.execShl r s
  | .shr r => Sys2Proof.Machine.execShr r s
  | .sar r => Sys2Proof.Machine.execSar r s
  | .min r => Sys2Proof.Machine.execMin r s
  | .max r => Sys2Proof.Machine.execMax r s
  | .minn r => Sys2Proof.Machine.execMinn r s
  | .maxn r => Sys2Proof.Machine.execMaxn r s
  | .clz d a sz => Sys2Proof.Machine.execClz d a sz s
  | .ffs d a sz => Sys2Proof.Machine.execFfs d a sz s
  | .popc d a sz => Sys2Proof.Machine.execPopc d a sz s
  | .sel r => Sys2Proof.Machine.execSel r s
  | .mov d a sz => Sys2Proof.Machine.execMov d a sz s
  | .addi d imm => Sys2Proof.Machine.execAddi d imm s
  | .andi d imm => Sys2Proof.Machine.execAndi d imm s
  | .ori d imm => Sys2Proof.Machine.execOri d imm s
  | .xori d imm => Sys2Proof.Machine.execXori d imm s
  | .shli d imm => Sys2Proof.Machine.execShli d imm s
  | .shri d imm => Sys2Proof.Machine.execShri d imm s
  | .sari d imm => Sys2Proof.Machine.execSari d imm s
  | .movi d imm => Sys2Proof.Machine.execMovi d imm s
  | .lit d l => Sys2Proof.Machine.execLit d l s
  | .lith d l => Sys2Proof.Machine.execLith d l s
  | .cmp pd cond a b => Sys2Proof.Machine.execCmp pd cond a b s
  | .cmpi pd cond a l => Sys2Proof.Machine.execCmpi pd cond a l s
  | .plog pd op pa pb => Sys2Proof.Machine.execPlog pd op pa pb s
  | .hmake hd a => Sys2Proof.Machine.execHmake hd a s
  | .hset hd a field => Sys2Proof.Machine.execHset hd a field s
  | .hget ha d field => Sys2Proof.Machine.execHget ha d field s
  | .hadv hd ha a tag => Sys2Proof.Machine.execHadv hd ha a tag s
  | .hmov hd ha => Sys2Proof.Machine.execHmov hd ha s
  | .htag hd ha a => Sys2Proof.Machine.execHtag hd ha a s
  | .sld r => Sys2Proof.Machine.execSld r s
  | .sst d a b => Sys2Proof.Machine.execSst d a b s
  | .br off => Sys2Proof.Machine.execBr off s
  | .jmp a => Sys2Proof.Machine.execJmp a s
  | .call off => Sys2Proof.Machine.execCall off s
  | .loop a off => Sys2Proof.Machine.execLoop a off s
  | .rwfil g n => Sys2Proof.Machine.execRwfil g n s
  | .rwfre g n => Sys2Proof.Machine.execRwfre g n s
  | .waitev d base mask => Sys2Proof.Machine.execWaitev d base mask s
  | .sigev count => Sys2Proof.Machine.execSigev count s
  | .sigevRemote col ridx count => Sys2Proof.Machine.execSigevRemote col ridx count s
  | .evarmRoute source line v => Sys2Proof.Machine.execEvarmRoute source line v s
  | .evarmWindow engine queue base => Sys2Proof.Machine.execEvarmWindow engine queue base s
  | .evarmCount line value clear => Sys2Proof.Machine.execEvarmCount line value clear s
  | .ldq q h n => Sys2Proof.Machine.execLdq q h n s
  | .ldqs q h off => Sys2Proof.Machine.execLdqs q h off s
  | .stq q h n => Sys2Proof.Machine.execStq q h n s
  | .stqs q h off => Sys2Proof.Machine.execStqs q h off s
  | .copy hd n => Sys2Proof.Machine.execCopy hd n s
  | .tcopy hd hs desc => Sys2Proof.Machine.execTcopy hd hs desc s
  | .gather q h n bias => Sys2Proof.Machine.execGather q h n bias s
  | .scatter q h n bias => Sys2Proof.Machine.execScatter q h n bias s
  | .rmerge q h n shift => Sys2Proof.Machine.execRmerge q h n shift s
  | .planes hd hs transposed => Sys2Proof.Machine.execPlanes hd hs transposed s
  | .unplane hd hs => Sys2Proof.Machine.execUnplane hd hs s
  | .lput h off tag lane => Sys2Proof.Machine.execLput h off tag lane s
  | .lputQ q tag lane => Sys2Proof.Machine.execLputQ q tag lane s
  | .ltap q keep lane => Sys2Proof.Machine.execLtap q keep lane s
  | .ltapRow h off keep lane => Sys2Proof.Machine.execLtapRow h off keep lane s
  | .tcpf h n => Sys2Proof.Machine.execTcpf h n s
  | .tcwb h n => Sys2Proof.Machine.execTcwb h n s
  | .tcinv h n => Sys2Proof.Machine.execTcinv h n s
  | .tcresize mask block => Sys2Proof.Machine.execTcresize mask block s
  | .rinit g h e thresh => Sys2Proof.Machine.execRinit g h e thresh s
  | .rclaim g h n => Sys2Proof.Machine.execRclaim g h n s
  | .rpush g h n => Sys2Proof.Machine.execRpush g h n s
  | .rpop g h n => Sys2Proof.Machine.execRpop g h n s
  | .rstat g h => Sys2Proof.Machine.execRstat g h s
  | .atadd x => Sys2Proof.Machine.execAtadd x s
  | .atmin x => Sys2Proof.Machine.execAtmin x s
  | .atmax x => Sys2Proof.Machine.execAtmax x s
  | .atxch x => Sys2Proof.Machine.execAtxch x s
  | .atcas x => Sys2Proof.Machine.execAtcas x s
  | .ator x => Sys2Proof.Machine.execAtor x s
  | .atradd x => Sys2Proof.Machine.execAtradd x s
  | .bind hr ho => Sys2Proof.Machine.execBind hr ho s
  | .acq h d sz ix => Sys2Proof.Machine.execAcq h d sz ix s
  | .rel h d sz ix => Sys2Proof.Machine.execRel h d sz ix s
  | .qfence all mask engine => Sys2Proof.Machine.execQfence all mask engine s
  | .seqtag h n => Sys2Proof.Machine.execSeqtag h n s
  | .mcfg field l => Sys2Proof.Machine.execMcfg field l s
  | .mcfgi level count => Sys2Proof.Machine.execMcfgi level count s
  | .mgo clr => Sys2Proof.Machine.execMgo clr s
  | .mrel a => Sys2Proof.Machine.execMrel a s
  | .mclr a => Sys2Proof.Machine.execMclr a s
  | .mdrain a h q0 nq => Sys2Proof.Machine.execMdrain a h q0 nq s
  | .mepi l => Sys2Proof.Machine.execMepi l s
  | .mheapReset k rows => Sys2Proof.Machine.execMheapReset k rows s
  | .mconst l => Sys2Proof.Machine.execMconst l s
  | .mmaskCausal d => Sys2Proof.Machine.execMmaskCausal d s
  | .mmaskWindow d w => Sys2Proof.Machine.execMmaskWindow d w s
  | .mmaskTree h plen => Sys2Proof.Machine.execMmaskTree h plen s
  | .mscale a e => Sys2Proof.Machine.execMscale a e s
  | .mcoop l => Sys2Proof.Machine.execMcoop l s
  | .vadd v => Sys2Proof.Machine.execVadd v s
  | .vsub v => Sys2Proof.Machine.execVsub v s
  | .vmul v => Sys2Proof.Machine.execVmul v s
  | .vmac v => Sys2Proof.Machine.execVmac v s
  | .vfma v => Sys2Proof.Machine.execVfma v s
  | .vmin v => Sys2Proof.Machine.execVmin v s
  | .vmax v => Sys2Proof.Machine.execVmax v s
  | .vabs v => Sys2Proof.Machine.execVabs v s
  | .vneg v => Sys2Proof.Machine.execVneg v s
  | .vand v => Sys2Proof.Machine.execVand v s
  | .vor v => Sys2Proof.Machine.execVor v s
  | .vxor v => Sys2Proof.Machine.execVxor v s
  | .vnot v => Sys2Proof.Machine.execVnot v s
  | .vshl v => Sys2Proof.Machine.execVshl v s
  | .vshr v => Sys2Proof.Machine.execVshr v s
  | .vsar v => Sys2Proof.Machine.execVsar v s
  | .vrshr v => Sys2Proof.Machine.execVrshr v s
  | .vsat v => Sys2Proof.Machine.execVsat v s
  | .vclz v => Sys2Proof.Machine.execVclz v s
  | .vffs v => Sys2Proof.Machine.execVffs v s
  | .vpopc v => Sys2Proof.Machine.execVpopc v s
  | .vcmp v => Sys2Proof.Machine.execVcmp v s
  | .vsel v => Sys2Proof.Machine.execVsel v s
  | .vcvt v => Sys2Proof.Machine.execVcvt v s
  | .vsrnd v => Sys2Proof.Machine.execVsrnd v s
  | .vrand v => Sys2Proof.Machine.execVrand v s
  | .viota v => Sys2Proof.Machine.execViota v s
  | .vmov v => Sys2Proof.Machine.execVmov v s
  | .vimm v l => Sys2Proof.Machine.execVimm v l s
  | .vmulh v => Sys2Proof.Machine.execVmulh v s
  | .vrotr v => Sys2Proof.Machine.execVrotr v s
  | .vrotc v => Sys2Proof.Machine.execVrotc v s
  | .vbcr v => Sys2Proof.Machine.execVbcr v s
  | .vbcc v => Sys2Proof.Machine.execVbcc v s
  | .vredr v => Sys2Proof.Machine.execVredr v s
  | .vredc v => Sys2Proof.Machine.execVredc v s
  | .vscanr v => Sys2Proof.Machine.execVscanr v s
  | .vscanc v => Sys2Proof.Machine.execVscanc v s
  | .vshfr v => Sys2Proof.Machine.execVshfr v s
  | .vtrn v => Sys2Proof.Machine.execVtrn v s
  | .vpop v => Sys2Proof.Machine.execVpop v s
  | .vpush v => Sys2Proof.Machine.execVpush v s
  | .vrdacc v => Sys2Proof.Machine.execVrdacc v s
  | .vwracc v => Sys2Proof.Machine.execVwracc v s
  | .vsfn v => Sys2Proof.Machine.execVsfn v s
  | .vcoef v l => Sys2Proof.Machine.execVcoef v l s
  | .dact ch a off => Sys2Proof.Machine.execDact ch a off s
  | .drd ch a off r half tag => Sys2Proof.Machine.execDrd ch a off r half tag s
  | .dwr ch a off r half tag => Sys2Proof.Machine.execDwr ch a off r half tag s
  | .dpre ch bank => Sys2Proof.Machine.execDpre ch bank s
  | .dprea ch => Sys2Proof.Machine.execDprea ch s
  | .dref ch => Sys2Proof.Machine.execDref ch s
  | .drefb ch bank => Sys2Proof.Machine.execDrefb ch bank s
  | .dmrw ch mr value => Sys2Proof.Machine.execDmrw ch mr value s
  | .dmrr ch mr r tag => Sys2Proof.Machine.execDmrr ch mr r tag s
  | .dzqStart ch => Sys2Proof.Machine.execDzqStart ch s
  | .dzqLatch ch => Sys2Proof.Machine.execDzqLatch ch s
  | .dsrefEnter ch => Sys2Proof.Machine.execDsrefEnter ch s
  | .dsrefExit ch => Sys2Proof.Machine.execDsrefExit ch s
  | .dtlb ch first count row => Sys2Proof.Machine.execDtlb ch first count row s
  | .dtlbq ch index r tag => Sys2Proof.Machine.execDtlbq ch index r tag s
  | .dpfs ch mask => Sys2Proof.Machine.execDpfs ch mask s
  | .qbind c slot => Sys2Proof.Machine.execQbind c slot s
  | .qstep c slot => Sys2Proof.Machine.execQstep c slot s
  | .qmask c slot => Sys2Proof.Machine.execQmask c slot s
  | .qmerge c slot => Sys2Proof.Machine.execQmerge c slot s
  | .qstate c slot => Sys2Proof.Machine.execQstate c slot s
  | .qchain c slot => Sys2Proof.Machine.execQchain c slot s
  | .knew c => Sys2Proof.Machine.execKnew c s
  | .knewSeq c => Sys2Proof.Machine.execKnewSeq c s
  | .kput c => Sys2Proof.Machine.execKput c s
  | .ktree c => Sys2Proof.Machine.execKtree c s
  | .kcommit c => Sys2Proof.Machine.execKcommit c s
  | .ksquash c => Sys2Proof.Machine.execKsquash c s
  | .ksquashSeq c => Sys2Proof.Machine.execKsquashSeq c s
  | .kfork c => Sys2Proof.Machine.execKfork c s
  | .kpin c => Sys2Proof.Machine.execKpin c s
  | .kslide c => Sys2Proof.Machine.execKslide c s
  | .kdemote c dst => Sys2Proof.Machine.execKdemote c dst s
  | .kpromote c dst => Sys2Proof.Machine.execKpromote c dst s
  | .kfeat c committed => Sys2Proof.Machine.execKfeat c committed s
  | .kfeatRd c committed => Sys2Proof.Machine.execKfeatRd c committed s
  | .kfroll c => Sys2Proof.Machine.execKfroll c s
  | .kquery c => Sys2Proof.Machine.execKquery c s
  | .kqueryHeads c => Sys2Proof.Machine.execKqueryHeads c s
  | .kreq c => Sys2Proof.Machine.execKreq c s
  | .gseedSeq inst c => Sys2Proof.Machine.execGseedSeq inst c s
  | .gseedObj inst c => Sys2Proof.Machine.execGseedObj inst c s
  | .gsoft inst c => Sys2Proof.Machine.execGsoft inst c s
  | .gsoftTopk inst c => Sys2Proof.Machine.execGsoftTopk inst c s
  | .gcdf inst c => Sys2Proof.Machine.execGcdf inst c s
  | .gpick inst c => Sys2Proof.Machine.execGpick inst c s
  | .gpickTopk inst c => Sys2Proof.Machine.execGpickTopk inst c s
  | .gaccept inst c => Sys2Proof.Machine.execGaccept inst c s
  | .gacceptGreedy inst c => Sys2Proof.Machine.execGacceptGreedy inst c s
  | .gresid inst c => Sys2Proof.Machine.execGresid inst c s
  | .gnext inst c => Sys2Proof.Machine.execGnext inst c s
  | .gparamAssume inst c => Sys2Proof.Machine.execGparamAssume inst c s
  | .gparamClear inst c => Sys2Proof.Machine.execGparamClear inst c s
  | .gpub inst c => Sys2Proof.Machine.execGpub inst c s
  | .gstat inst c => Sys2Proof.Machine.execGstat inst c s
  | .gstatClr inst c => Sys2Proof.Machine.execGstatClr inst c s
  | .wtime c => Sys2Proof.Machine.execWtime c s
  | .wtimePort c => Sys2Proof.Machine.execWtimePort c s
  | .wtick c => Sys2Proof.Machine.execWtick c s
  | .wtickOff c => Sys2Proof.Machine.execWtickOff c s
  | .wflow c => Sys2Proof.Machine.execWflow c s
  | .wflowOff c => Sys2Proof.Machine.execWflowOff c s
  | .wbind c => Sys2Proof.Machine.execWbind c s
  | .wbindOff c => Sys2Proof.Machine.execWbindOff c s
  | .wlate c => Sys2Proof.Machine.execWlate c s
  | .wdead c => Sys2Proof.Machine.execWdead c s
  | .wdeadOff c => Sys2Proof.Machine.execWdeadOff c s
  | .wstat c => Sys2Proof.Machine.execWstat c s
  | .wstatClr c => Sys2Proof.Machine.execWstatClr c s
  | .nsend port c => Sys2Proof.Machine.execNsend port c s
  | .nrecv port c nc g => Sys2Proof.Machine.execNrecv port c nc g s
  | .nred port c => Sys2Proof.Machine.execNred port c s
  | .nredArrival port c => Sys2Proof.Machine.execNredArrival port c s
  | .nbar port c => Sys2Proof.Machine.execNbar port c s
  | .nmode port c => Sys2Proof.Machine.execNmode port c s
  | .nstat port c => Sys2Proof.Machine.execNstat port c s
  | .nstatClr port c => Sys2Proof.Machine.execNstatClr port c s
  | .ftrig c => Sys2Proof.Machine.execFtrig c s
  | .fckpt c => Sys2Proof.Machine.execFckpt c s
  | .flend c => Sys2Proof.Machine.execFlend c s
  | .frecl c => Sys2Proof.Machine.execFrecl c s
  | .fpost c => Sys2Proof.Machine.execFpost c s
  | .spacer => Sys2Proof.Machine.execSpacer s
  | .nop => Sys2Proof.Machine.execNop s
  | .align => Sys2Proof.Machine.execAlign s
  | .halt => Sys2Proof.Machine.execHalt s
  | .rett => Sys2Proof.Machine.execRett s
  | .fetchb => Sys2Proof.Machine.execFetchb s
  | .ret => Sys2Proof.Machine.execRet s
  | .frag => Sys2Proof.Machine.execFrag s
  | .mswap => Sys2Proof.Machine.execMswap s
  | .mheapDrain => Sys2Proof.Machine.execMheapDrain s
  | .mheapDrainr => Sys2Proof.Machine.execMheapDrainr s
  | .mconstOff => Sys2Proof.Machine.execMconstOff s
  | .mmaskNone => Sys2Proof.Machine.execMmaskNone s
  | .mcoopOff => Sys2Proof.Machine.execMcoopOff s
  | .alignRelease => Sys2Proof.Machine.execAlignRelease s
  | .fragRelease => Sys2Proof.Machine.execFragRelease s
  | .resumption => Sys2Proof.Machine.execResumption s
  | .interrupt => Sys2Proof.Machine.execInterrupt s
  | .translationAbsent => Sys2Proof.Machine.execTranslationAbsent s
  | .tileCacheFill => Sys2Proof.Machine.execTileCacheFill s
  | .drdLanding => Sys2Proof.Machine.execDrdLanding s
  | .dmrrLanding => Sys2Proof.Machine.execDmrrLanding s
  | .refreshDebt => Sys2Proof.Machine.execRefreshDebt s
  | .pollGap => Sys2Proof.Machine.execPollGap s
  | .frozenRefresh => Sys2Proof.Machine.execFrozenRefresh s
  | .frozenPoll => Sys2Proof.Machine.execFrozenPoll s
  | .temperatureReport => Sys2Proof.Machine.execTemperatureReport s
  | .jobCardStart => Sys2Proof.Machine.execJobCardStart s
  | .decodeAttentionCardCompletion => Sys2Proof.Machine.execDecodeAttentionCardCompletion s
  | .stacksStep => Sys2Proof.Machine.execStacksStep s
  | .samplingCardCompletion => Sys2Proof.Machine.execSamplingCardCompletion s
  | .abandonment => Sys2Proof.Machine.execAbandonment s
  | .timeIngestCardCompletion => Sys2Proof.Machine.execTimeIngestCardCompletion s
  | .linkCardCompletion => Sys2Proof.Machine.execLinkCardCompletion s
  | .frontEndCardCompletion => Sys2Proof.Machine.execFrontEndCardCompletion s
  | .specFault => Sys2Proof.Machine.execSpecFault s
  | .link => Sys2Proof.Machine.execLink s
  | .copyLanding => Sys2Proof.Machine.execCopyLanding s
  | .requantisationLanding => Sys2Proof.Machine.execRequantisationLanding s
  | .faultReport => Sys2Proof.Machine.execFaultReport s
  | .tick => Sys2Proof.Machine.execTick s
  | .decision => Sys2Proof.Machine.execDecision s
  | .watchDeadline => Sys2Proof.Machine.execWatchDeadline s
  | .frame => Sys2Proof.Machine.execFrame s
  | .clockFrame => Sys2Proof.Machine.execClockFrame s
  | .flitReception => Sys2Proof.Machine.execFlitReception s
  | .nak => Sys2Proof.Machine.execNak s
  | .replayLimit => Sys2Proof.Machine.execReplayLimit s
  | .ackTimeout => Sys2Proof.Machine.execAckTimeout s
  | .lossOfLink => Sys2Proof.Machine.execLossOfLink s
  | .message => Sys2Proof.Machine.execMessage s
  | .delivery => Sys2Proof.Machine.execDelivery s
  | .instancePlacement => Sys2Proof.Machine.execInstancePlacement s
  | .preEmption => Sys2Proof.Machine.execPreEmption s
  | .reclaimed => Sys2Proof.Machine.execReclaimed s
  | .doorbell => Sys2Proof.Machine.execDoorbell s
  | .registerWrite => Sys2Proof.Machine.execRegisterWrite s
  | .hostWindowWrite => Sys2Proof.Machine.execHostWindowWrite s
  | .hostWindowRead => Sys2Proof.Machine.execHostWindowRead s
  | .launch => Sys2Proof.Machine.execLaunch s
  | .kill => Sys2Proof.Machine.execKill s
  | .graphLoad => Sys2Proof.Machine.execGraphLoad s
  | .graphFree => Sys2Proof.Machine.execGraphFree s
  | .graphRun => Sys2Proof.Machine.execGraphRun s
  | .triggerWrite => Sys2Proof.Machine.execTriggerWrite s
  | .lend => Sys2Proof.Machine.execLend s
  | .reclaim => Sys2Proof.Machine.execReclaim s
  | .drain => Sys2Proof.Machine.execDrain s
  | .returnCol => Sys2Proof.Machine.execReturnCol s
  | .grant => Sys2Proof.Machine.execGrant s
  | .partCreate => Sys2Proof.Machine.execPartCreate s
  | .partDestroy => Sys2Proof.Machine.execPartDestroy s
  | .powerMode => Sys2Proof.Machine.execPowerMode s
  | .fwUpdate => Sys2Proof.Machine.execFwUpdate s
  | .attest => Sys2Proof.Machine.execAttest s
  | .portAssign => Sys2Proof.Machine.execPortAssign s
  | .timeStep => Sys2Proof.Machine.execTimeStep s
  | .heartbeat => Sys2Proof.Machine.execHeartbeat s
  | .hang => Sys2Proof.Machine.execHang s
  | .fatalError => Sys2Proof.Machine.execFatalError s
  | .mainPower => Sys2Proof.Machine.execMainPower s
  | .status => Sys2Proof.Machine.execStatus s
  | .read => Sys2Proof.Machine.execRead s
  | .write => Sys2Proof.Machine.execWrite s
  | .reset => Sys2Proof.Machine.execReset s
  | .flr => Sys2Proof.Machine.execFlr s
  | .hotReset => Sys2Proof.Machine.execHotReset s
  | .fundamentalReset => Sys2Proof.Machine.execFundamentalReset s
  | .powerSample => Sys2Proof.Machine.execPowerSample s
  | .thermalWarn => Sys2Proof.Machine.execThermalWarn s
  | .thermal => Sys2Proof.Machine.execThermal s
  | .thermalTrip => Sys2Proof.Machine.execThermalTrip s
  | .reservedOpcode => Sys2Proof.Machine.execReservedOpcode s
  | .acqVersionReturn => Sys2Proof.Machine.execAcqVersionReturn s
  | .untimedRel => Sys2Proof.Machine.execUntimedRel s
  | .writeThrough => Sys2Proof.Machine.execWriteThrough s
  | .untimetabledRefresh => Sys2Proof.Machine.execUntimetabledRefresh s
  | .masterLost => Sys2Proof.Machine.execMasterLost s
  | .linkBringUp => Sys2Proof.Machine.execLinkBringUp s
  | .pcieLinkUp => Sys2Proof.Machine.execPcieLinkUp s
  | .thermalClear => Sys2Proof.Machine.execThermalClear s
  | .mainPowerLoss => Sys2Proof.Machine.execMainPowerLoss s

end Sys2Proof.Machine
end

