-- ==== Sys2Proof/Machine/Work.lean ====
section
/-! DEFINITION. Scheduled work when its cycle comes: each effect on a core and each entry of an agenda. -/

namespace Sys2Proof.Machine

/-- The rows named by the ICINVs since the last fence, as the fence at this cycle finds them (05 R149). -/
def Core.fenced (c : Core) : List Nat :=
  (List.range Config.imRows).filter (fun r => c.icinv.any (fun p => p.1 ≤ r && r < p.1 + p.2))

/-- An effect on core `k`. -/
def runEffect (s : State) (k : Nat) (e : Effect) : State :=
  let f (g : Core → Core) : State := s.modCore k g
  match e with
  | .setS r v =>
    f (fun c => if c.cwrote = some ((s.groupOf k).sched, r) then c else c.setMain r v)
  | .flags x => f (fun c => c.mergeFlags x)
  | .kwr n v => kwrite s k n v
  | .icinv a n => f (fun c => if n = 0 || Config.imRows ≤ a then c else { c with icinv := (a, n) :: c.icinv })
  | .fenceSnap _ =>
    let c := s.core k
    let rows := c.fenced.map (fun r => (r, s.readRow (rowAt k 9 r)))
    (f (fun c => { c with icinv := [] })).atCycle k ((s.groupOf k).sched + 24) phEffect 0 (.eff k (.fenceApply rows))
  | .fenceApply rows =>
    rows.foldl (fun s p => s.modCore k (fun c =>
      let d := if s.readRow (rowAt k 9 p.1) = p.2 then [] else p.2
      { c with fetchOld := FMap.set [] c.fetchOld p.1 d })) s
  | .mcfg n w => f (fun c => { c with cfgS := FMap.set 0 c.cfgS n w })
  | .mcfgi l n => f (fun c => { c with cfgS := FMap.set 0 c.cfgS l (FMap.get 0 c.cfgS l / 4096 * 4096 + n) })
  | .mswap => f (fun c => { c with cfgA := c.cfgS, cfgS := c.cfgA })
  | .own a => f (fun c => { c with owned := FMap.set false c.owned a true })
  | .mclr a => f (fun c => c.clearSlot a)
  | .mrel a => f (fun c => { c with owned := FMap.set false c.owned a false })
  | .mscale a e => f (fun c => { c with accE := FMap.set 0 c.accE a e })
  | .mepi w => f (fun c => { c with epi := w })
  | .mconst w => f (fun c => { c with mconst := w })
  | .mcoop w => f (fun c => { c with mcoop := w })
  | .mmask m => f (fun c => { c with mask := m })
  | .mheapReset kk rows => f (fun c => { c.emptyHeaps with heapK := kk, heapRows := rows })
  | .mheapEmpty => f Core.emptyHeaps
  | .vlanes reg first lanes =>
    f (fun c => { c with v := FMap.set [] c.v reg (FMap.splice 0 (FMap.get [] c.v reg) first lanes) })
  | .vmask reg first count bits =>
    f (fun c =>
      let old := FMap.get 0 c.m reg
      let new := old - old / 2 ^ first % 2 ^ count * 2 ^ first + bits % 2 ^ count * 2 ^ first
      { c with m := FMap.set 0 c.m reg new })
  | .vacc slot first vals => f (fun c => c.setAcc slot first vals)
  | .coef first words => f (fun c => { c with coef := FMap.splice 0 c.coef first words })
  | .writeBack slot q clr ta tb pa pb sa sb => f (fun c => c.writeBack slot q clr ta tb pa pb sa sb)
  | .patchPerform rows => s.performPatch k rows
  | .patchDiscard rows => f (fun c => { c with patch := c.patch.filter (fun p => !rows.contains p.1) })
  | .iqAdvance => f Core.iqStep
  | .bind space base count os orow =>
    f (fun c => { c with binds := (bindings c.binds space base count os orow).getD c.binds })
  | .freeBuffer id => s.freeBuffer k id
  | .acqDone d v regions =>
    (s.dropClean (colOf k) regions).modCore k (fun c =>
      if c.cwrote = some ((s.groupOf k).sched, d) then c else c.setMain d v)
  | .lock i e => f (fun c => { c with locked := FMap.set 0 c.locked i e })

/-- An entry of an agenda. -/
def runWork (s : State) (w : Work) : Host.Outcome State Fault Refusal :=
  match w with
  | .event e => exec e.op { s with ev := e.args }
  | .eff k e => .next (runEffect s k e)
  | .move src from_ dest delay => .next (doMove s src from_ dest delay)
  | .put src dest rows => .next (s.deliver src dest rows)
  | .beat src lane station tag data => .next (s.putBeat src lane station tag data)
  | .tap src lane station keep half dest buffer => .next (doTap s src lane station keep half dest buffer)
  | .rmerge src prev rest tag shift q delay => .next (doRmerge s src prev rest tag shift q delay)
  | .tcopy src hs hd desc seen => .next (doTcopy s src hs hd desc seen)
  | .planes src hs hd tr buffer scales dests => .next (doPlanes s src hs hd tr buffer scales dests)
  | .unplane src hs hd buffer dests => .next (doUnplane s src hs hd buffer dests)
  | .masked _ r tag setTag first width bits => .next (doMasked s r tag setTag first width bits)
  | .tagRows _ rs tag => .next (rs.foldl (fun s r => s.setTag r tag) s)
  | .sld src r word w d => .next (doSld s src r word w d)
  | .rmwRead src op r byte w d x y => .next (doRmwRead s src op r byte w d x y)
  | .acq src r byte w d delay regions => .next (doAcq s src r byte w d delay regions)
  | .ringTail col g start n copied => .next (doRingTail s col g start n copied)
  | .place col g start rows landed pub reply => .next (doPlace s col g start rows landed pub reply)
  | .ringHead col g n => .next (doRingHead s col g n)
  | .ringInit col g desc => .next (s.modRing col g (fun _ => Ring.ofDescriptor desc))
  | .tcLines op col tags => .next (doTcLines s op col tags)
  | .ways col block mask => .next (doWays s col block mask)
  | .evRoute col source line v =>
    .next (s.modCol col (fun c => { c with route := FMap.set false c.route (routeKey source line) v }))
  | .evWindow col key base => .next (s.modCol col (fun c => { c with windows := FMap.set 0 c.windows key base }))
  | .evCount col line value clear =>
    .next (s.modCol col (fun c => { c with
      counts := FMap.set 0 c.counts line value,
      sticky := if clear then FMap.set false c.sticky line false else c.sticky }))
  | .pulse col source count => .next (s.pulse col source count)
  | .mgo src r => .next (doMgo s src r)
  | .mgoTap src r side start from_ => .next (doMgoTap s src r side start from_)
  | .foreTap src r side start => .next (doForeTap s src r side start)
  | .drain src r i => .next (doDrain s src r i)
  | .feed src row offers leaves => .next (doFeed s src row offers leaves)
  | .heapDrain src empty => .next (doHeapDrain s src empty)
  | .treeImage src r0 r1 tag plen first => .next (doTreeImage s src r0 r1 tag plen first)
  | .vec src r q => .next (doVec s src r q)
  | .mcTranslate c => .next (doTranslate s c)
  | .mcSend c => .next (doSend s c)
  | .dramWrite a d => .next (s.writeArray a d)
  | .fillSlot m => .next (doFill s m)
  | .dtlbRow src first count j row => .next (doDtlbRow s src first count j row)
  | .dtlbqRead src index r tag => .next (doDtlbq s src index r tag)
  | .arrive q n => .next (s.cardArrives q n)
  | .signal c => .next (s.signalCard c)
  | .fragselWrite i logical index => .next (s.writeFragsel i logical index)
  | .onRecord i e =>
    if (s.inst i).placed then exec e.op { s with ev := e.args }
    else
      match exec e.op { s.intoRecord i with ev := e.args } with
      | .next t => .next (t.outOfRecord s i)
      | r => r
  | .slide n q keep pin => .next (doSlide s n q keep pin)
  | .train p => .next (doTrain s p)

end Sys2Proof.Machine
end

