-- ==== Sys2Proof/Machine/Issue.lean ====
section
/-! DEFINITION. The issue of bundles by timing groups: fetch, the checks of a bundle in the order of 02 R64, the look-ahead, the
slots, holds and repeats, stop points, barriers, freezes and the bundles of handlers (01 R10, R20 to R27, R39 to R43;
02 R51 to R69; 05 R145 to R149, R155 to R162). -/

namespace Sys2Proof.Machine

/-! ### The slots of a bundle -/

/-- One slot that acts at a bundle: its number, its decoded word, the address and value of the slot word, and whether it acts
by a hold. -/
structure Act where
  slot : Nat
  sl : Slot
  addr : Nat
  word : Nat
  held : Bool

/-- The slots of a bundle that decode, with the held slots of the engines it carries no slot for (02 R56). -/
def State.actsOf (s : State) (k : Nat) (b : RawBundle) : List Act :=
  (List.range 6).filterMap (fun n =>
    match b.slot? n with
    | some r =>
      match r.decode with
      | .ok sl => some ⟨n, sl, r.addr, r.word.toNat, false⟩
      | .error _ => none
    | none =>
      match FMap.get none (s.core k).hold n with
      | some h => some ⟨n, h.slot, h.addr, (((encodeSlot (spaceOfSlot n) h.slot).getD []).headD 0).toNat, true⟩
      | none => none)

/-- A trap of core `k` in a slot. -/
def coreTrap (k slot : Nat) (cause : Cause) (tval rank : Nat) : Trap :=
  { core := k, cause := cause, tval := tval, slot := slot, rank := rank }

/-- ILLEGAL of a bundle's header, which its TVAL names (02 R51, R60; log entry 92). -/
def headerTrap (k addr : Nat) (shadow : Bool) (ws : List Word32) : Option Trap :=
  trapIf (headerBad addr shadow ws) (coreTrap k 7 .illegal (wordTval addr (ws.headD 0).toNat) 1)

/-- The faults of a bundle's slots that stand in their words: encodings, and an inst that names no engine (02 R54 to R63); in shadow mode
only a C slot and a front-end X slot are allowed (05 R157). -/
def slotFaults (k : Nat) (shadow : Bool) (b : RawBundle) : List Trap :=
  b.slots.filterMap (fun r =>
    let at_ (cause : Cause) (rank : Nat) := some (coreTrap k r.slot cause (wordTval r.addr r.word.toNat) rank)
    match r.decode with
    | .error .inst => at_ .unreachable 3
    | .error _ => at_ .illegal 2
    | .ok sl =>
      if shadow && !(r.slot = 0 || ((r.slot = 4 || r.slot = 5) && 0x48 ≤ opcodeOf sl.op)) then at_ .illegal 2 else none)

/-- The trap that stands among those of one bundle: the first in the order of 02 R64, slots in the order C, T, M, V, X0, X1. -/
def firstOf : List Trap → Option Trap
  | [] => none
  | t :: l => some (l.foldl (fun x y => if y.rank < x.rank || (y.rank = x.rank && y.slot < x.slot) then y else x) t)

/-- The context of a slot of the bundle at `addr`. -/
def hereOf (k : Nat) (a : Act) (addr next n : Nat) (stop : Bool) (visit : Visit) : Here :=
  { core := k, slot := a.slot, bundle := addr, addr := a.addr, word := a.word, next := next, cycle := n, stop := stop,
    held := a.held, plain := a.sl.guard.val = 0 && !a.sl.neg, visit := visit }

/-- Run one slot: the state it leaves, or the trap it raises with the state unchanged. -/
def runSlot (s : State) (k : Nat) (a : Act) (addr next n : Nat) (stop : Bool) (visit : Visit) : State × Option Trap :=
  match exec a.sl.op { s with here := hereOf k a addr next n stop visit, trapNow := none } with
  | .next s' =>
    match s'.trapNow with
    | some t => (s, some t)
    | none => (s', none)
  | _ => (s, none)

/-- Traps that a slot raises whatever its guard: encoding, UNREACHABLE and ALLOTMENT; a repeat whose guard is false checks the
repeated bundle over a span of 1, and a transfer's target is not tested (02 R55, R60, R61, R63, R67). -/
def deadTrap (s : State) (k : Nat) (a : Act) (addr next n : Nat) (stop : Bool) : Option Trap :=
  let strides (svd sva svb : Fin 32) : Option Trap :=
    ({ s with here := hereOf k a addr next n stop .issue }).repeatChecks next 1 svd.val sva.val svb.val
  match a.sl.op with
  | .br _ => none
  | .call _ => none
  | .loop _ _ => none
  | .rept _ svd sva svb => strides svd sva svb
  | .repts _ _ svd sva svb => strides svd sva svb
  | _ =>
    match (runSlot s k a addr next n stop .issue).2 with
    | some t => if t.rank ≤ 4 then some t else none
    | none => none

/-- Whether a finding of the look-ahead is about a slot that acts at cycle `n`. -/
def Act.asked (a : Act) (n : Nat) (q : Ask) : Bool := q.cycle = n && q.slot = a.slot && q.addr = a.addr

/-- SCHED KIND 9: a guard that differs from the one the look-ahead of a larger group tested, for a slot it acts for (01 R23). -/
def guardChanged (c : Core) (k n : Nat) (acts : List Act) : Option Trap :=
  (acts.find? (fun a => c.asks.any (fun q => a.asked n q && q.acts && q.guard != guardOf a.sl c))).map (fun a =>
    coreTrap k 7 .sched (schedTval 9 (a.slot * 2 ^ 8 + a.sl.guard.val)) 7)

/-- SCHED KIND 3: a register write still pending at a stop point (05 R145, 08 R233); of several, the first of the list, which has the latest
issued first, is named (log entry 134). -/
def pendingTrap (c : Core) (k n : Nat) : Option Trap :=
  (c.pending.find? (fun p => n ≤ p.last)).map (fun p =>
    coreTrap k 7 .sched (schedTval 3 ((if p.vector then 2 ^ 8 else 0) + p.reg)) 8)

/-- The instruction of a V slot at a repeat's iteration, its fields stepped (02 R66). -/
def stepAct (c : Core) (a : Act) : Act :=
  if c.rep.active && c.pc = c.rep.addr && a.slot = 3 && !a.held then
    match stepVector a.sl.op c.rep.iter c.rep.svd c.rep.sva c.rep.svb with
    | some i => { a with sl := { a.sl with op := i } }
    | none => a
  else a

/-- Whether the bundle a core is about to issue is an iteration of its repeat, and a padding one. -/
def Core.repeating (c : Core) : Bool := c.rep.active && c.pc = c.rep.addr
def Core.padding (c : Core) : Bool := c.repeating && c.rep.left = 0

/-- The slots of a core's bundle that act, as their words stand: none in a padding iteration; a C slot under SKIPC is a NOP (02 R66,
05 R158). -/
def State.standing (s : State) (k : Nat) (b : RawBundle) : List Act :=
  let c := s.core k
  if c.padding then [] else (s.actsOf k b).filter (fun a => !(a.slot = 0 && c.skipC))

/-- The slots that act at a core's bundle, the vector fields of a repeat's iteration stepped; in a padding iteration none acts, and no hold
ends or begins (log entry 93). -/
def State.acting (s : State) (k : Nat) (b : RawBundle) : List Act := (s.standing k b).map (stepAct (s.core k))

/-- Whether a bundle holds a WAITEV served by the signal of the card that reported a trap: it is satisfied in the report's cycle, on a line
that the signal counted (11 R346, 14 R410). -/
def State.servedBy (s : State) (k : Nat) (d : DueTrap) (n : Nat) (acts : List Act) : Bool :=
  let c := s.core k
  acts.any (fun a => guardOf a.sl c && match a.sl.op with
    | .waitev _ base mask =>
      let lines := waitLines base mask
      lines.any d.lines.contains &&
        match c.asks.find? (a.asked n) with
        | some q => q.done && q.doneAt = d.wall
        | none => s.wall = d.wall && (s.col (colOf k)).linesReady lines
    | _ => false)

/-- The traps of a bundle found before its slots act (02 R64, ranks 1 to 8), and those due at a core's next bundle (09 R284, 11 R346,
14 R410). SLOT of a trap of the whole bundle is 7, none (log entry 115). -/
def bundleTraps (s : State) (k n : Nat) : List Trap :=
  let c := s.core k
  let col := colOf k
  match headerTrap k c.pc false c.fetched, splitBundle c.pc c.fetched with
  | some t, _ => [t]
  | none, none => []
  | none, some b =>
    let acts := s.acting k b
    let next := c.pc + b.len
    let first := (s.liveCores (s.groupNo k)).find? (fun j => colOf j = col)
    slotFaults k false b ++
    acts.filterMap (fun a => if guardOf a.sl c then none else deadTrap s k a c.pc next n b.stop) ++
    acts.filterMap (fun a =>
      if a.slot = 3 && !c.repeating then
        ({ s with here := hereOf k a c.pc next n b.stop .issue }).allotment a.slot a.sl.op 1 (fun _ => 0)
      else none) ++
    [
      trapIf (c.stopAt + Config.maxSpacing < n) (coreTrap k 7 .spacing (n - c.stopAt) 6),
      if 1 < (s.groupOf k).cols.length then guardChanged c k n acts else none,
      if b.stop then pendingTrap c k n else none,
      match (s.col col).due with
      | some v => trapIf (first = some k) (coreTrap k 7 .memTiming v 9)
      | none => none,
      (c.dueTraps.find? (fun d => d.at_ + s.lookDist k ≤ n && !s.servedBy k d n acts)).map (fun d => coreTrap k 7 d.cause d.tval 9)].filterMap id

/-- The traps that the live slots of a bundle raise whatever the values they find (02 R64, ranks 2 to 5). -/
def earlyTraps (s : State) (k : Nat) (acts : List Act) (addr next n : Nat) (stop : Bool) : List Trap :=
  ((acts.filter (fun a => guardOf a.sl (s.core k))).filterMap (fun a => (runSlot s k a addr next n stop .issue).2)).filter
    (fun t => t.core = k && t.rank < 9)

/-- The trap that stands first in the order of R64 among those of a bundle found before its slots act and those its slots would raise. -/
def firstBundleTrap (s : State) (k n : Nat) : Option Trap :=
  match bundleTraps s k n with
  | [] => none
  | t :: l =>
    let c := s.core k
    match splitBundle c.pc c.fetched with
    | some b => firstOf (t :: l ++ (if t.rank = 1 then [] else earlyTraps s k (s.acting k b) c.pc (c.pc + b.len) n b.stop))
    | none => some t

/-! ### Issuing -/

/-- Take the traps of a cycle, each at the bundle its core was to issue, with whether it is an unguarded TRAP. -/
def State.takeTraps (s : State) (l : List (Trap × Bool)) : State :=
  l.foldl (fun s t =>
    let b := (s.core t.1.core).pc % 65536
    let s := { s with here := { s.here with plain := t.2 } }
    let s := if t.1.slot = 7 then
        s.modCore t.1.core (fun c => { c with dueTraps := c.dueTraps.eraseP (fun d => d.cause = t.1.cause && d.tval = t.1.tval) })
      else s
    takeTrap s t.1 b) s

/-- Run the acting slots in the order T, M, V, X0, X1, C (01 R10): the C slot last, so that the others read the registers as
they stood. -/
def runSlots (s : State) (k : Nat) (acts : List Act) (addr next n : Nat) (stop : Bool) (visit : Visit) : State × List Trap :=
  let order := acts.filter (fun a => a.slot ≠ 0) ++ acts.filter (fun a => a.slot = 0)
  order.foldl (fun acc a =>
    let r := runSlot acc.1 k a addr next n stop visit
    (r.1, acc.2 ++ r.2.toList)) (s, [])

/-- The holds a bundle leaves: each slot it carries ends its engine's hold, and installs its own with H = 1 (02 R56). -/
def newHolds (h : FMap (Option Hold)) (acts : List Act) : FMap (Option Hold) :=
  acts.foldl (fun h a =>
    if a.held || a.slot = 0 then h
    else FMap.set none h a.slot (if a.sl.hold then some ⟨a.sl, a.addr⟩ else none)) h

/-- What issuing a bundle leaves in its core: the next fetch, the repeat's counts, the stop point and an interrupt that it
lets in (02 R52, R66; 01 R41, R42; log entry 93). -/
def Core.afterIssue (c old : Core) (b : RawBundle) (acts : List Act) (n dist : Nat) : Core :=
  let h := if c.mode = Mode.halted then [] else newHolds c.hold acts
  let c := { c with hold := h, asks := c.asks.filter (fun a => n < a.cycle), noIdle := false, skipC := false, readyRett := false, fetchAt := n + 1,
                    stopAt := if b.stop then n else c.stopAt,
                    irqNow := b.stop && c.tvec.toNat / 2 ^ 31 % 2 = 1 && c.mode ≠ Mode.halted &&
                      (match c.ireq with | some r => decide (r + dist ≤ n) | none => false) }
  if old.repeating then
    let r := old.rep
    let r := { r with iter := r.iter + 1, left := if r.left = 0 then 0 else r.left - 1,
                      pad := if r.left = 0 then r.pad - 1 else r.pad }
    if r.left + r.pad = 0 then { c with rep := { r with active := false }, pc := old.pc + b.len, fetched := [] }
    else { c with rep := r, pc := old.pc, fetched := old.fetched, issueAt := n + 1 + b.idle }
  else { c with fetched := [] }

/-- Issue a core's bundle: its slots act, then what it leaves. -/
def issueCore (visit : Visit) (s : State) (k n : Nat) : State × List Trap :=
  let c := s.core k
  match splitBundle c.pc c.fetched with
  | none => (s, [])
  | some b =>
    let acts := s.acting k b
    let words := s.standing k b
    let next := c.pc + b.len
    let s := s.modCore k (fun c => { c with pc := next, barrierAt := c.pc })
    let r := runSlots s k (acts.filter (fun a => guardOf a.sl c)) c.pc next n b.stop visit
    (r.1.modCore k (fun d => d.afterIssue c b words n (s.lookDist k)), r.2)

/-- The look-ahead's visit to one slot of a bundle of core `k` to issue at `n`: on the operands that the bundle is to find, with its
finding kept; a slot for which it has nothing to do leaves the state as it is (01 R22, R23). -/
def State.askOnce (s : State) (k : Nat) (q : Ask) : State :=
  let c := s.core k
  let swap (c : Core) : Core :=
    { c.setQueue .iq q.iq with s := q.regs, h := q.handles, iqAt := q.iqAt, ip := q.ip, ipAhead := 0 }
  let a : Act := ⟨q.slot % 8, q.sl, q.addr, q.word, q.held⟩
  let r := (runSlot (s.setCore k (swap c)) k a q.bundle q.next q.cycle q.stop .ask).1
  r.modCore k (fun d =>
    { d.setQueue .iq (c.queue .iq) with s := c.s, h := c.h, iqAt := c.iqAt, ip := c.ip, ipAhead := c.ipAhead })

/-- Whether an instruction is a barrier (01 R20, R39). -/
def isBarrier : Instr → Bool
  | .align => true
  | .frag => true
  | _ => false

/-- Visit a slot that has not been visited: of a barrier slot it is noted only that its guard was tested; for a false guard it is noted only that the look-ahead would act (01 R23). `waits` says
whether the slot may be left waiting. -/
def State.askFor (s : State) (k : Nat) (q : Ask) (waits : Bool) : State :=
  if isBarrier q.sl.op then s.modCore k (fun c => { c with asks := c.asks ++ [{ q with acts := true, done := true }] })
  else
  let r := (s.modCore k (fun c => { c with asks := c.asks ++ [q] })).askOnce k q
  match (r.core k).asks.find? (fun x => x.cycle = q.cycle && x.slot = q.slot && x.addr = q.addr) with
  | some x =>
    if !x.acts || (q.guard && !x.done && !waits) then s
    else if q.guard then r
    else s.modCore k (fun c => { c with asks := c.asks ++ [{ q with acts := true }] })
  | none => s

/-- What the look-ahead asks about a slot of the bundle that core `k` of `p` is to issue at `n`; the guard is tested with the
predicates of `c`. -/
def askOf (p : State) (c : Core) (k n : Nat) (b : RawBundle) (a : Act) : Ask :=
  let d := p.core k
  { cycle := n, slot := a.slot, sl := a.sl, addr := a.addr, word := a.word, held := a.held, bundle := d.pc, next := d.pc + b.len,
    stop := b.stop, guard := guardOf a.sl c, regs := d.s, handles := d.h, iq := d.queue .iq, iqAt := d.iqAt, ip := d.ip + d.ipAhead }

/-- The look-ahead's visit to a core's bundle, as `p` holds it, to issue at `n`; `pred` gives the predicates that it tests guards with. Only
slots of `may` may be left waiting, when given. -/
def lookCore (pred p s : State) (k n : Nat) (may : Option (List (Nat × Nat))) : State :=
  match splitBundle (p.core k).pc (p.core k).fetched with
  | none => s
  | some b =>
    (p.acting k b).foldl (fun s a =>
      if (s.core k).asks.any (a.asked n) then s
      else s.askFor k (askOf p (pred.core k) k n b a) (match may with | some l => l.contains (k, a.slot) | none => true)) s

/-- Slots whose look-ahead waits at cycle `n`. -/
def State.waiting (s : State) (ks : List Nat) (n : Nat) : List (Nat × Nat) :=
  ks.flatMap (fun k => ((s.core k).asks.filter (fun a => a.cycle = n && a.guard && !a.done)).map (fun a => (k, a.slot)))

/-- The cores of a group that may issue: running, in a colonnade that no trap has stopped. -/
def State.runCores (s : State) (g : Nat) : List Nat :=
  (s.group g).coreList.filter (fun k => (s.core k).mode = .run && !(s.core k).shadow && !(s.col (colOf k)).stopped)

/-- Fetch the bundles whose fetch cycle has come (02 R52). A bundle past word 65,535 has no words: a zero header stands for it, which is
faulty there (02 R60; log entry 92). -/
def State.fetchDue (s : State) (g n : Nat) : State :=
  (s.runCores g).foldl (fun s k =>
    let c := s.core k
    if c.fetched.isEmpty && c.fetchAt ≤ n then
      let ws := s.fetchWords k c.pc
      let ws := if ws.isEmpty then [0] else ws
      let idle := if c.noIdle then 0 else fld (ws.headD 0).toNat 0 20
      s.setCore k { c with fetched := ws, issueAt := c.fetchAt + idle }
    else s) s

/-- Whether a core's bundle holds an unguarded TRAP, which the look-ahead finds (01 R27). -/
def unguardedTrap (s : State) (k : Nat) : Bool :=
  match splitBundle (s.core k).pc (s.core k).fetched with
  | some b => (s.acting k b).any (fun a => match a.sl.op with
    | .trap _ => a.sl.guard.val = 0 && !a.sl.neg
    | _ => false)
  | none => false

/-- The source of scheduled work that judges rows, queues, lanes or an address when its cycle comes (01 R463). -/
def Work.judge : Work → Option Src
  | .move src .. => some src
  | .tap src .. => some src
  | .rmerge src .. => some src
  | .tcopy src .. => some src
  | .planes src .. => some src
  | .unplane src .. => some src
  | .sld src .. => some src
  | .rmwRead src .. => some src
  | .acq src .. => some src
  | .mgo src .. => some src
  | .mgoTap src .. => some src
  | .drain src .. => some src
  | .feed src .. => some src
  | .heapDrain src .. => some src
  | .treeImage src .. => some src
  | .vec src r _ => match r.op with | .vpop _ => some src | .vpush _ => some src | .vrdacc _ => some src | .vcoef _ _ => some src | _ => none
  | .dtlbRow src .. => some src
  | .put src .. => some src
  | .beat src .. => some src
  | .mcTranslate c => some c.src
  | .mcSend c => some c.src
  | _ => none

/-- Whether bundles issued at cycle `n` have work on an agenda that is still to judge. -/
def judging (n : Nat) (l : List Item) : Bool :=
  l.any (fun it => match it.work.judge with | some x => x.cycle = n | none => false)

/-- The cycle and the trap that work scheduled by bundles issued at or before cycle `n` brings a bundle of cycle `n` to, with no later bundle issued;
a trap of another colonnade stops that colonnade alone, and one of an earlier bundle answers none. -/
def State.ahead (g n : Nat) : Nat → State → Option (Nat × Trap)
  | 0, _ => none
  | fuel + 1, s =>
    match (s.group g).agenda with
    | [] => none
    | it :: rest =>
      if !judging n (it :: rest) then none
      else
        let s1 := s.modGroup g (fun gr => { gr with agenda := rest, sched := max gr.sched it.time })
        if (s.col it.col).stopped then State.ahead g n fuel s1
        else
          match runWork s1 it.work with
          | .next s2 =>
            (match s2.trapNow with
            | some x => if x.rank = 10 && x.cycle = n then some ((s1.group g).sched, x) else State.ahead g n fuel { s2 with trapNow := none }
            | none => State.ahead g n fuel s2)
          | _ => none

/-- Issue the bundles of a colonnade's cores: the state they leave, or, when any of them traps, the first trap of each core with
whether it is an unguarded TRAP (01 R27). `late` holds the traps that these bundles are known to come to later (01 R463), `found` those found before their slots act. -/
def issueCol (late found : List Trap) (s : State) (ks : List Nat) (n : Nat) : State × List (Trap × Bool) :=
  let pre := found.filter (fun t => ks.contains t.core)
  let r := (ks.filter (fun k => pre.all (·.core ≠ k))).foldl (fun acc k =>
    let q := issueCore .issue acc.1 k n
    (q.1, acc.2 ++ q.2)) (s, pre)
  let traps := r.2 ++ late.filter (fun t => ks.contains t.core)
  if traps.isEmpty then (r.1, [])
  else
    let cores := (traps.map (·.core)).eraseDups
    (s, cores.filterMap (fun k =>
      (firstOf (traps.filter (fun t => t.core = k))).map (fun t => (t, t.cause = .swTrap && unguardedTrap s k))))

/-- Issue the bundles of a cycle, colonnade by colonnade: the state they leave, and the traps they raise. -/
def issueCols (late found : List Trap) (s : State) (n : Nat) (due : List Nat) : State × List (Trap × Bool) :=
  ((due.map colOf).eraseDups).foldl (fun (acc : State × List (Trap × Bool)) c =>
    let q := issueCol late found acc.1 (due.filter (fun k => colOf k = c)) n
    (q.1, acc.2 ++ q.2)) (s, [])

/-- Whether a group is frozen. -/
def Group.isFrozen (g : Group) : Bool := match g.phase with | .frozen _ _ => true | _ => false

/-- Read FRAGSEL for the next release (01 R39). -/
def readFrag (g : Group) : Group := { g with entry := some g.fragIndex, fragValid := false }

/-- Whether an abandonment request waits at a group and may be taken at a schedule cycle (12 R368). -/
def State.abandonDue (s : State) (g n dist : Nat) : Bool :=
  (s.group g).cols.any (fun c => (s.col c).abandon.isSome && (s.col c).abandonAt + dist ≤ n)

/-- An event of the device run at once, without operands from outside. -/
def State.raise (s : State) (op : Instr) (a : EvArgs) : State :=
  match exec op { s with ev := a } with
  | .next s => s
  | _ => s

/-- A complete barrier at schedule cycle `n`: FRAGSEL is read L cycles before a FRAG's release, and the release comes 40
cycles after the last arrival; without a valid FRAGSEL the group freezes at the release until it is written (01 R20, R21, R39). -/
def barrierStep (s : State) (g n dist : Nat) : State :=
  match (s.group g).barrier with
  | none => s
  | some (r, false) => if r ≤ n then s.raise .alignRelease { group := g } else s
  | some (r, true) =>
    let s := if r ≤ n && s.abandonDue g n 0 then s.raise .abandonment { group := g } else s
    let gr := s.group g
    let s :=
      if gr.entry.isSome || n + dist < r then s
      else if gr.fragValid then s.modGroup g readFrag
      else s.freezeAtCycle g r .fragsel
    if n < r || (s.group g).entry.isNone then s else s.raise .fragRelease { group := g }

/-- Refresh debt and poll gap of a group's timetabled channels at a schedule cycle, counted once (09 R284, R287). -/
def debtStep (s : State) (g n : Nat) : State :=
  if n < (s.group g).debtAt then s
  else (s.group g).cols.foldl (fun s col =>
    (s.col col).chans.foldl (fun s p =>
      let c := p.2
      if !c.timetabled || c.selfRefresh then s
      else
        let s := if c.since < n && (n - c.since) % refreshUnit (s.refreshClass col) = 0
          then s.raise .refreshDebt { col := col, ch := p.1 } else s
        if n = c.poll + pollCycles then s.raise .pollGap { col := col, ch := p.1 } else s) s)
    (s.modGroup g (fun gr => { gr with debtAt := n + 1 }))

/-- After the bundles of a cycle: a common safe point lets a pre-emption in, a common stop point an abandonment, and cores
that all wait complete a barrier (01 R43, 05 R147, R162, 12 R368). -/
def afterCycle (s : State) (g n dist : Nat) (live due : List Nat) (bundles : List RawBundle) : State :=
  let common := live.all (fun k => due.contains k) && !live.isEmpty
  let s :=
    if common && (s.group g).preempt && bundles.all (fun b => b.stop && b.safe) then
      s.modGroup g (fun gr => { gr with freezeAfter := true })
    else if common && bundles.all (·.stop) && s.abandonDue g n dist then s.raise .abandonment { group := g }
    else s
  let now := s.liveCores g
  if now.isEmpty then s.modGroup g (fun gr => { gr with ending := true })
  else if (s.group g).barrier.isSome then s
  else if now.all (fun k => (s.core k).mode = .atAlign) then
    s.modGroup g (fun gr => { gr with barrier := some (n + Config.releaseDelay, false) })
  else if now.all (fun k => (s.core k).mode = .atFrag) then
    s.modGroup g (fun gr => { gr with barrier := some (n + Config.releaseDelay, true) })
  else s

/-! ### Handlers, and the conditions of a freeze -/

/-- The look-ahead that a handler's bundle makes for its X slots, on its own wall cycle (05 R157). -/
def shadowAsk (b : RawBundle) (s : State) (k : Nat) (a : Act) : State :=
  let c := s.core k
  let q := { askOf s c k c.trapAt b a with slot := a.slot + 8 }
  match c.asks.find? (fun x => x.slot = q.slot && x.addr = q.addr) with
  | none => s.askFor k q true
  | some x => if x.done then s else s.askOnce k x

/-- The bundle of a handler: a C slot and front-end X slots, on wall cycles; it waits while one of its X slots has no credit
(05 R156, R157). -/
def shadowIssue (s : State) (k : Nat) : State :=
  let c := s.core k
  let n := c.trapAt
  let ws := s.fetchWords k c.pc
  match headerTrap k c.pc true ws, splitBundle c.pc ws with
  | some t, _ => takeTrap s t c.pc
  | none, none => s
  | none, some b =>
    let acts := (s.actsOf k b).filter (fun a => !a.held)
    let next := c.pc + b.len
    let bad := slotFaults k true b ++ acts.filterMap (fun a => if guardOf a.sl c then none else deadTrap s k a c.pc next n false)
    match firstOf (if bad.isEmpty then [] else bad ++ earlyTraps s k acts c.pc next n false) with
    | some t => takeTrap s t c.pc
    | none =>
      let live := acts.filter (fun a => guardOf a.sl c)
      let s := (live.filter (fun a => a.slot ≠ 0)).foldl (fun s a => shadowAsk b s k a) s
      if (s.core k).asks.any (fun q => 8 ≤ q.slot && !q.done) then s.modCore k (fun c => { c with shadowAt := s.wall + 1 })
      else
        let r := runSlots (s.modCore k (fun c => { c with pc := next })) k live c.pc next n false .issue
        match firstOf r.2 with
        | some t => takeTrap s t c.pc
        | none =>
          r.1.modCore k (fun d =>
            let idle := fld ((s.fetchWords k d.pc).headD 0).toNat 0 20
            let d := { d with asks := d.asks.filter (fun q => q.slot < 8) }
            if d.shadow then { d with shadowAt := max d.shadowAt (s.wall + 1 + idle) } else d)

/-- Serve a freezing condition that may have cleared (01 R22, R24, R34): whether it has. -/
def serveCond (s : State) (g : Nat) (c : Freeze) : State × Bool :=
  match c with
  | .ask k cycle slot =>
    match (s.core k).asks.find? (fun a => a.cycle = cycle && a.slot = slot) with
    | none => (s, true)
    | some a =>
      if a.done then (s, true)
      else
        let r := (s.askOnce k a).setGroup g (s.group g)
        (r, !(r.core k).asks.any (fun x => x.cycle = cycle && x.slot = slot && !x.done))
  | .tileCache col keys =>
    (s, keys.all (fun n => match FMap.get none (s.col col).lines n with | some l => !l.filling | none => true))
  | .fragsel =>
    if s.abandonDue g ((s.group g).sched) 0 then (s.raise .abandonment { group := g }, true)
    else if (s.group g).entry.isSome then (s, true)
    else if (s.group g).fragValid then (s.modGroup g readFrag, true)
    else (s, false)
  | .absent k => (s, !s.hasAbsent k)
  | .handler => (s, (s.group g).coreList.all (fun k => !(s.core k).shadow))
  | .preempt => (s, !(s.group g).preempt)

/-- Serve those conditions of a list that `pick` names, in its order; the others, and those not yet satisfied, remain. -/
def serveConds (pick : Freeze → Bool) (s : State) (g : Nat) (l : List Freeze) : State × List Freeze :=
  l.foldl (fun (acc : State × List Freeze) c =>
    let q := if pick c then serveCond acc.1 g c else (acc.1, false)
    (q.1, if q.2 then acc.2 else acc.2 ++ [c])) (s, [])

/-- Serve conditions that a group has met, whether it is frozen yet or not (01 R22, R34, R461): those that `now` names for its next freeze,
and those that `later` names for the one after; the wall cycle on which the last one clears before its freeze is kept. -/
def pollSome (now later : Freeze → Bool) (s : State) (g : Nat) : State :=
  let r := serveConds now s g (s.group g).conds
  let q := serveConds later r.1 g (r.1.group g).later
  q.1.modGroup g (fun gr => { gr with
    clearedAt := if r.2.isEmpty && !gr.conds.isEmpty then s.wall else gr.clearedAt,
    laterClear := if q.2.isEmpty && !gr.later.isEmpty then s.wall else gr.laterClear,
    conds := r.2, later := q.2 })

/-- Serve all conditions that a group has met. -/
def pollConds (s : State) (g : Nat) : State := pollSome (fun _ => true) (fun _ => true) s g

/-- Whether a condition is a slot of core `k` that waits. -/
def Freeze.ofCore (k : Nat) : Freeze → Bool
  | .ask j _ _ => j = k
  | _ => false

/-- Whether a condition is none of a slot that waits. -/
def Freeze.other (c : Freeze) : Bool := c.rank = 0

/-- The handlers whose next bundle is due in a group (05 R156). -/
def runHandlers (s : State) (g : Nat) : State :=
  ((s.group g).coreList.filter (fun k => (s.core k).shadow && (s.core k).shadowAt ≤ s.wall)).foldl shadowIssue s

/-- The wall cycle on which a group that froze at `since` resumes when its last condition cleared at `at_` (01 R24). -/
def resumeWall (cols since at_ : Nat) : Nat :=
  let t := max (at_ + Config.resumeDelay cols) (since + 1)
  t + (11 - (t - since) % 11) % 11

/-! ### The look-ahead of a larger group (01 R22, R23, R464) -/

/-- Do the work of a group that is due at schedule cycle `n`, up to a phase. -/
def runDue (g n ph : Nat) : Nat → State → State
  | 0, s => s
  | fuel + 1, s =>
    match (s.group g).agenda with
    | [] => s
    | it :: rest =>
      if it.time < n || (it.time = n && it.phase ≤ ph) then
        let s1 := s.modGroup g (fun gr => { gr with agenda := rest })
        if (s.col it.col).stopped then runDue g n ph fuel s1
        else
          match runWork s1 it.work with
          | .next s2 => runDue g n ph fuel s2
          | _ => s1
      else s

/-- Entries of an agenda, and room for those they add to the same cycle. -/
def State.dueFuel (s : State) (g : Nat) : Nat := (s.group g).agenda.length + 64

/-- The cores of a group whose bundle issues at cycle `n`. -/
def State.dueCores (s : State) (g n : Nat) : List Nat :=
  (s.runCores g).filter (fun k => !(s.core k).fetched.isEmpty && (s.core k).issueAt ≤ n)

/-- The start of a cycle on the path: effects, releases and fetches. -/
def pathFetch (s : State) (g : Nat) : State :=
  let n := (s.group g).sched
  (barrierStep (runDue g n phEffect (s.dueFuel g) s) g n (Config.lookAhead (s.group g).cols.length)).fetchDue g n

/-- One schedule cycle of a group on the path that its bundles take when nothing delays them. -/
def pathCycle (s : State) (g : Nat) : State :=
  let n := (s.group g).sched
  let s := pathFetch s g
  let live := s.liveCores g
  let due := s.dueCores g n
  let bundles := due.filterMap (fun k => splitBundle (s.core k).pc (s.core k).fetched)
  let s := due.foldl (fun s k => (issueCore .path s k n).1) s
  let s := afterCycle s g n (Config.lookAhead (s.group g).cols.length) live due bundles
  (runDue g n phReg (s.dueFuel g) s).modGroup g (fun gr => { gr with sched := n + 1 })

/-- The state in which a group's bundles of cycle `n` are fetched, when nothing delays it. -/
def pathTo (g n : Nat) : Nat → State → State
  | 0, s => s
  | fuel + 1, s => if n ≤ (s.group g).sched then pathFetch s g else pathTo g n fuel (pathCycle s g)

/-- The slots that wait and the look-ahead of a larger group for the bundles of cycle `n`, found on the path from `p`: core by core, the
slots that wait of each served before its new bundle is looked at (01 R34). A bundle is looked at once, and not while it follows a FRAG
whose fragment is not known; without `n` none is. -/
def lookFor (p s : State) (g : Nat) (n : Option Nat) : State :=
  let gr := s.group g
  let unknown (n : Nat) : Bool := match gr.barrier with | some (r, true) => decide (r ≤ n) && gr.entry.isNone | _ => false
  match n.filter (fun n => gr.looked ≤ n && !unknown n) with
  | none => pollSome (fun c => !c.other) (fun c => !c.other) s g
  | some n =>
    let q := pathTo g n 48 p
    let due := q.dueCores g n
    (gr.coreList.foldl (fun t k =>
      let t := pollSome (Freeze.ofCore k) (Freeze.ofCore k) t g
      if due.contains k then lookCore s q t k n none else t) s).modGroup g (fun gr => { gr with looked := n + 1 })

/-- The slots that wait and the look-ahead of a larger group in a wall cycle before a release on wall cycle `at_`: for the bundle as far
behind the release as this cycle is inside the last 32 (01 R464). What it finds freezes the group after the release. -/
def lookBefore (p s : State) (g at_ : Nat) : State :=
  let gr := s.group g
  if gr.cols.length ≤ 1 then s
  else
    let n := if s.wall + 32 < at_ || at_ ≤ s.wall then none else some (gr.sched + 32 - (at_ - s.wall))
    let t := lookFor p (s.modGroup g (fun gr => { gr with conds := [], freezeAt := none })) g n
    t.modGroup g (fun h => { h with
      conds := gr.conds, freezeAt := gr.freezeAt, later := h.conds.foldl (fun l c => addCond c l) h.later,
      laterAt := match gr.laterAt, h.freezeAt with | some a, some b => some (min a b) | none, b => b | a, none => a })

/-- The issue cycle that the look-ahead of a running larger group visits in the cycle it issues `n`: 32 cycles on; but where FRAGSEL
came too late for the look-ahead of its fragment's first bundles, the one that the release in sight, delayed by R24, puts 32 wall cycles
on (01 R39, R464). -/
def lookAt (s : State) (g n : Nat) : Option Nat :=
  let gr := s.group g
  let l := Config.lookAhead gr.cols.length
  match gr.barrier, gr.freezeAt with
  | some (r, true), some f =>
    if r < n + l && gr.looked < n + l then
      if gr.conds.isEmpty then
        let since := s.wall + (f - n)
        let late := resumeWall gr.cols.length since (max gr.clearedAt 1) - since
        if late ≤ n + l then some (n + l - late) else none
      else none
    else some (n + l)
  | _, _ => some (n + l)

/-- Let EVARM's settings that are due in a group's cycle take hold, before any increment of the cycle; what they replace is kept for a
freeze at this cycle (05 R154; 01 R22; log entry 48). -/
def armGroup (s : State) (g : Nat) : State :=
  let n := (s.group g).sched
  let due := (s.group g).agenda.takeWhile (fun it => it.time ≤ n && it.phase = phEvarm)
  let s := ((due.map (·.col)).eraseDups).foldl (fun s c => s.modCol c (fun co =>
    match co.armed with
    | some _ => co
    | none => { co with armed := some { route := co.route, counts := co.counts, sticky := co.sticky, windows := co.windows,
                                        items := due.filter (·.col = c), pulses := [] } })) s
  runDue g n phEvarm (s.dueFuel g) s

/-! ### The issue of a group -/

/-- Keep what a TCOPY's descriptor row will hold when it is read, two cycles on, as far as the work scheduled by now writes it (log entry 17). -/
def State.noteDescriptor (s : State) (k n : Nat) (desc : Fin 4096) : State :=
  let g := s.groupNo k
  let r := rowAt k 0 desc.val
  let row := (runDue g (n + 2) phPop (s.dueFuel g) s).readRow r
  s.modCore k (fun c => { c with foreseen := (r.addr, row) :: c.foreseen })

/-- The taps of cooperative MGOs that a group issues within some cycles on its path, which take beats of cycle `n` off their lane (07 R218). -/
def foreTaps (g n : Nat) : Nat → State → List Item
  | 0, _ => []
  | fuel + 1, s =>
    let t := pathCycle s g
    (t.group g).agenda.filterMap (fun it => match it.work with
      | .mgoTap src r side start 0 =>
        if src.cycle = (s.group g).sched && !bitOf r.coop 7 && start ≤ n + 2 * (if side then r.pb else r.pa) + 1 then
          some ⟨n, phPop, src.core, colOf src.core, .foreTap src r side start⟩
        else none
      | _ => none) ++ foreTaps g n fuel t

/-- Whether a core has the cooperative side of its MGOs set to take beats off a lane. -/
def Core.tapsAway (c : Core) : Bool := bitOf c.mcoop 4 && !bitOf c.mcoop 6 && !bitOf c.mcoop 7

/-- Make known to the bundles of a cycle what they find out of one another or of work under way: the way masks of the cycle's TCRESIZEs
(06 R189), the descriptor rows of its TCOPYs (06 R178), and the beats of this cycle that MGOs still to issue take (07 R218). -/
def noteResizes (s : State) (n : Nat) (due : List Nat) : State :=
  let groups := (due.map s.groupNo).eraseDups.filter (fun g => (s.group g).coreList.any (fun k => (s.core k).tapsAway))
  let s := groups.foldl (fun s g =>
    (foreTaps g n 34 s).foldl (fun s it => s.modGroup g (fun gr => { gr with agenda := insertItem it gr.agenda })) s) s
  due.foldl (fun s k =>
    match splitBundle (s.core k).pc (s.core k).fetched with
    | some b => (s.acting k b).foldl (fun s a =>
        match a.sl.op with
        | .tcresize mask block =>
          if guardOf a.sl (s.core k) then s.noteResize (colOf k) (n + 2) block.val mask.toNat else s
        | .tcopy _ _ desc => s.noteDescriptor k n desc
        | _ => s) (s.modCore k (fun c => if c.foreseen.isEmpty then c else { c with foreseen := [] }))
    | none => s) s

/-- Instructions whose look-ahead probes the tile cache (06 R186). -/
def probesLines : Instr → Bool
  | .ldq .. | .ldqs .. | .stq .. | .stqs .. | .copy .. | .tcopy .. | .gather .. | .scatter .. | .rmerge .. | .planes .. | .unplane ..
  | .rpush .. | .rclaim .. | .rpop .. => true
  | _ => false

/-- At its own cycle a bundle of a larger group finds the lines its look-ahead has pinned; where one has been dropped since, by TCINV or a change
of ways, it is probed again, the ring entries it holds kept, and the group freezes (06 R186; log entry 119). -/
def reprobe (s : State) (k n : Nat) : State :=
  ((s.core k).asks.filter (fun a => a.cycle = n && a.guard && a.acts && a.done && a.trap.isNone && probesLines a.sl.op)).foldl (fun s a =>
    let open_ (x : Ask) : Ask := if x.cycle = n && x.slot = a.slot && x.addr = a.addr then { x with done := false, part := true } else x
    let t := (s.modCore k (fun c => { c with asks := c.asks.map open_ })).askOnce k { a with done := false, part := true }
    if (t.core k).asks.any (fun x => x.cycle = n && x.slot = a.slot && x.addr = a.addr && x.done) then s else t) s

/-- The look-ahead of a group of one colonnade, and, for bundles off the path foreseen, of a larger one. When it freezes the group, the
effects due at the cycle do not take place: `before` is the state without them (01 R22), and slots that wait only with them are left
to clear at once. -/
def lookCores (before s : State) (g n : Nat) (due : List Nat) : State :=
  let p := s
  let s1 := due.foldl (fun t k => lookCore p p t k n none) s
  let s1 := if (s.group g).cols.length ≤ 1 then s1 else due.foldl (fun t k => reprobe t k n) s1
  if !(s1.group g).isFrozen then s1
  else
    let may := s1.waiting due n
    let s0 := due.foldl (fun t k => lookCore p p t k n (some may)) before
    let s0 := if (s.group g).cols.length ≤ 1 then s0 else due.foldl (fun t k => reprobe t k n) s0
    if (s0.group g).isFrozen then s0
    else (s0.modGroup g (fun gr => { gr with clearedAt := s.wall })).freezeNow g

/-- The bundles of a larger group in a cycle where those of some colonnades trap: these stop, with none of their effects of the cycle, and
the bundles of the others issue (01 R27, R22); `before` is the state without the cycle's effects. -/
def issueAround : Nat → List Trap → List Trap → State → Nat → Nat → List Nat → List (Trap × Bool) → State
  | 0, _, _, before, _, _, _, traps => before.takeTraps traps
  | fuel + 1, late, found, before, g, n, due, traps =>
    let cols := (traps.map (fun t => colOf t.1.core)).eraseDups
    let s0 := cols.foldl (fun s c => (s.unarmCol g c).modCol c (fun co => { co with stopped := true })) before
    let s1 := (runDue g n phEffect (s0.dueFuel g) s0).fetchDue g n
    let rest := due.filter (fun k => !cols.contains (colOf k))
    let r := issueCols late found (lookCores s0 (noteResizes s1 n rest) g n rest) n rest
    if r.2.isEmpty then r.1.takeTraps traps else issueAround fuel late found before g n due (traps ++ r.2)

/-- Issue the bundles of a cycle. Traps stop their colonnades; with an unguarded TRAP among them no bundle of the group issues (01 R27),
and in a group of one colonnade no effect due at the cycle takes place (01 R22): `before` is the state without those effects. -/
def issueBundles (late found : List Trap) (before s : State) (g n : Nat) (due : List Nat) : State :=
  let r := issueCols late found s n due
  if r.2.isEmpty then r.1
  else if r.2.any (·.2) || (s.group g).cols.length ≤ 1 then (before.unarm g).takeTraps r.2
  else issueAround 16 late found before g n due r.2

/-- The bundles of a group's schedule cycle: the effects that take hold, the checks, the look-ahead, the slots. -/
def issueCycle (late : List Trap) (s : State) (g n : Nat) : State :=
  let s1 := (runDue g n phEffect (s.dueFuel g) s).fetchDue g n
  if (s1.group g).phase ≠ .run then s1
  else
    let live := s1.liveCores g
    let due := s1.dueCores g n
    let found := due.filterMap (fun k => firstBundleTrap s1 k n)
    let bad := (found.map (fun t => colOf t.core)).eraseDups
    let small := (s.group g).cols.length ≤ 1
    let s2 := if small && !found.isEmpty then s1
      else lookCores (s.unarm g) (noteResizes s1 n due) g n (due.filter (fun k => !bad.contains (colOf k)))
    if (s2.group g).phase ≠ .run then s2
    else
      let bundles := due.filterMap (fun k => splitBundle (s2.core k).pc (s2.core k).fetched)
      let s3 := issueBundles late found s s2 g n due
      if (s3.group g).phase = .run then
        afterCycle s3 g n (Config.lookAhead (s.group g).cols.length) live
          (due.filter (fun k => !(s3.col (colOf k)).stopped)) bundles
      else s3

/-- The issue of a running group at its schedule cycle: the freeze points that come due, barriers, the look-ahead, fetches,
interrupts, and the bundles. `late` holds the late decided traps that are precise at a bundle of this cycle. -/
def issueGroup (late : List Trap) (s : State) (g : Nat) : State :=
  let s := runHandlers (s.modGroup g (fun gr => { gr with checked := true })) g
  let gr := s.group g
  let n := gr.sched
  let dist := Config.lookAhead gr.cols.length
  let early : Bool := match gr.freezeAt with | some f => decide (f ≤ n) | none => false
  let ended : Bool := match gr.endAt with | some e => decide (e.1 ≤ n) | none => false
  let irq := (s.liveCores g).filter (fun k => (s.core k).irqNow && !(s.core k).shadow && !(s.col (colOf k)).stopped)
  if gr.phase ≠ .run then pollConds s g
  else if ended then s.endInstance gr.inst trapStatus (gr.endAt.getD (0, 0, 0)).2.1 (gr.endAt.getD (0, 0, 0)).2.2
  else if early then (pollConds (s.unarm g) g).freezeNow g
  else if gr.freezeAfter then
    (((pollConds (s.unarm g) g).modGroup g (fun gr => { gr with freezeAfter := false })).freezeGroup g .preempt).eventAt s.wall
      .preEmption { group := g }
  else
    let stops := (barrierStep s g n dist).group g |>.isFrozen
    let s := if stops || !irq.isEmpty then s.unarm g else s
    let s := if dist = 0 then pollConds s g else pollSome Freeze.other Freeze.other s g
    let s := barrierStep (debtStep s g n) g n dist
    if (s.group g).phase ≠ .run then if dist = 0 then s else pollConds s g
    else
      let s := if dist = 0 then s else lookFor s s g (lookAt s g n)
      if irq.isEmpty then issueCycle late s g n
      else irq.foldl (fun s k => s.raise .interrupt { core := k }) (s.fetchDue g n)

/-! ### While a group is frozen -/

/-- A frozen group in one wall cycle: captured commands, handlers, conditions served in their order, the look-ahead for the cycles after
the resumption, and the resumption at the first wall cycle that R24 allows. -/
def frozenStep (s : State) (g : Nat) : State :=
  let gr := s.group g
  match gr.endAt with
  | some (_, code, v) => s.endInstance gr.inst trapStatus code v
  | none =>
  let absent := gr.conds.any (fun c => match c with | .absent _ => true | _ => false)
  let s := if absent && !gr.captured then (s.capture g gr.sched).modGroup g (fun gr => { gr with captured := true }) else s
  let s := pollSome (fun _ => true) Freeze.other (runHandlers s g) g
  match (s.group g).phase with
  | .frozen since cleared =>
    if !(s.group g).conds.isEmpty then
      (pollSome (fun _ => false) (fun c => !c.other) s g).modGroup g (fun gr => { gr with phase := .frozen since none })
    else
      let at_ := cleared.getD s.wall
      let r := resumeWall gr.cols.length since at_
      if r ≤ s.wall then s.raise .resumption { group := g }
      else (lookBefore (s.raise .resumption { group := g }) s g r).modGroup g (fun gr => { gr with phase := .frozen since (some at_) })
  | _ => s

/-- The engine's own refreshes and polls in a frozen group's colonnades (01 R25, 09 R287). -/
def frozenChannels (s : State) (g : Nat) : State :=
  match (s.group g).phase with
  | .frozen since _ =>
    (s.group g).cols.foldl (fun s col =>
      (s.col col).chans.foldl (fun s p =>
        if !p.2.timetabled || s.wall ≤ since then s
        else
          let s := if (s.wall - since) % refreshUnit (s.refreshClass col) = 0
            then s.raise .frozenRefresh { col := col, ch := p.1 } else s
          if (s.wall - since) % pollCycles = 0 then s.raise .frozenPoll { col := col, ch := p.1 } else s) s) s
  | _ => s

/-! ### One piece of a group's cycle -/

/-- Whether a running group has Trellis increments or ring count changes of this cycle, or work of an earlier one, to do (01 R22, R34). -/
def State.pulseDue (s : State) (g : Nat) : Bool :=
  let gr := s.group g
  gr.phase = .run &&
    match gr.agenda with
    | it :: _ => it.time < gr.sched || (it.time = gr.sched && it.phase ≤ phPulse)
    | [] => false

/-- The next piece of work of a group in this wall cycle, and whether the group is then done with the cycle; `issue` issues its
bundles. -/
def groupStep (issue : State → Nat → State) (s : State) (g : Nat) : Host.Outcome State Fault Refusal × Bool :=
  let gr := s.group g
  let item (it : Item) : Host.Outcome State Fault Refusal × Bool :=
    let s := s.modGroup g (fun gr => { gr with agenda := gr.agenda.tail })
    if (s.col it.col).stopped then (.next s, false) else (runWork s it.work, false)
  match gr.phase with
  | .idle => (.next s, true)
  | .preempted => (.next s, true)
  | .releasing at_ _ =>
    if s.wall < at_ then
      (.next (lookBefore (s.raise .alignRelease { group := g }) (pollSome (fun _ => true) Freeze.other s g) g at_), true)
    else (exec .alignRelease { s with ev := { group := g } }, false)
  | .frozen _ _ =>
    let s' := frozenChannels (frozenStep s g) g
    (.next (if (s'.group g).isFrozen then s'.unarm g else s'), decide ((s'.group g).phase ≠ .run))
  | .run =>
    match gr.agenda with
    | it :: _ =>
      if it.time ≤ gr.sched && it.phase = phEvarm then (.next (armGroup s g), false)
      else if it.time < gr.sched || (it.time = gr.sched && (it.phase ≤ phPulse || gr.checked)) then item it
      else if gr.checked then (.next s, true) else (.next (issue s g), false)
    | [] => if gr.checked then (.next s, true) else (.next (issue s g), false)

end Sys2Proof.Machine
end

