-- ==== Sys2Proof/Machine/Clock.lean ====
section
/-! DEFINITION. The wall clock: one piece of the device's work, in the order inputs, due work, groups, engines, and then the
next wall cycle; and the placing of an instruction where the machine fetches next. -/

namespace Sys2Proof.Machine

/-- The groups of the device, by number. -/
def State.groupKeys (s : State) : List Nat := s.groups.map (·.1)

/-- A trap that an engine reported to a core which has halted since (11 R346). -/
def State.haltedTrap (s : State) (g : Nat) : Option DueTrap :=
  (s.group g).coreList.findSome? (fun k => if (s.core k).mode = .halted then (s.core k).dueTraps.head? else none)

/-- A group at the end of a wall cycle: its schedule goes on, or its stalls do, those of a save and a restore with them (01 R19, R24; 09 R288; log entry 75); a group whose cores have all
halted and whose work is done lets its instance retire (01 R46, 05 R148). -/
def endCycle (s : State) (g : Nat) : State :=
  let gr := s.group g
  match gr.phase with
  | .run =>
    match s.haltedTrap g with
    | some d => s.endInstance gr.inst trapStatus (endedCause d.cause) d.tval
    | none =>
    if gr.ending && gr.agenda.isEmpty then
      let i := s.inst gr.inst
      if i.groups.all (fun h => (s.group h).ending && (s.group h).agenda.isEmpty) then s.endInstance gr.inst 0 0 0
      else s.setGroup g { gr with sched := gr.sched + 1, checked := true }
    else s.setGroup g { gr with sched := gr.sched + 1, checked := gr.ending }
  | .frozen _ _ => s.setGroup g { gr with stalls := gr.stalls + 1, freezeStalls := gr.freezeStalls + 1 }
  | .preempted => s.setGroup g { gr with stalls := gr.stalls + 1 }
  | .releasing _ again => if again then s.setGroup g { gr with stalls := gr.stalls + 1 } else s
  | _ => s

/-- Whether a group runs in this wall cycle: it is running, or frozen with its resumption in this cycle (01 R24). -/
def State.runsNow (s : State) (g : Nat) : Bool :=
  let gr := s.group g
  match gr.phase with
  | .run => true
  | .frozen since (some at_) => gr.conds.isEmpty && resumeWall gr.cols.length since at_ ≤ s.wall
  | _ => false

/-- A new wall cycle of a group: the settings of the last one stand for good, and those due now take hold before the increments of any group
(05 R154). -/
def startCycle (s : State) (g : Nat) : State :=
  let s := (s.group g).cols.foldl (fun s c => s.modCol c (fun co => { co with armed := none })) s
  if s.runsNow g then armGroup s g else s

/-- The next wall cycle: when all groups have done their work the engines' queues and the front end serve what waits; groups end their
cycle, EVARM's settings take hold, and device time, once firmware runs, goes on with its ticks and decisions (01 R34; 05 R154; 13 R376; 15 R423;
16 R451). -/
def nextWall (s : State) : State :=
  let s := s.serveQueues.serveFront
  let s := s.groupKeys.foldl endCycle s
  let s : State := { s with wall := s.wall + 1, cursor := 0, stage := if s.stage = 1 then 2 else s.stage }
  let s := s.groupKeys.foldl startCycle s
  if s.stage < 3 then s else s.tickDt.timeCycle

/-- The stage of the boot from which a thing reaches the device (16 R450, R451): the management port and the resets at any, what the PCIe link
carries at 4, and the rest when firmware runs, at 3. -/
def heardFrom : Instr → Nat
  | .mainPower => 0 | .mainPowerLoss => 0 | .thermalTrip => 0 | .status => 0 | .read => 0 | .write => 0 | .reset => 0
  | .fundamentalReset => 0 | .pcieLinkUp => 0
  | .doorbell => 4 | .registerWrite => 4 | .hostWindowWrite => 4 | .hostWindowRead => 4 | .flr => 4 | .hotReset => 4
  | _ => 3

/-- What reaches the device after a fatal error, reads of the dump and resets, while it has no power, and while it boots (15 R445; 16 R450,
R451). -/
def State.hears (s : State) (op : Instr) : Bool :=
  if !s.powered then match op with | .mainPower => true | _ => false
  else if s.fatal then match op with
    | .status => true | .read => true | .hostWindowRead => true | .reset => true | .fundamentalReset => true
    | .thermalTrip => true | .mainPowerLoss => true | _ => false
  else heardFrom op ≤ s.stage && (heardFrom op < 4 || s.pcieUp)

/-- The ticks, decisions and deadlines of this cycle: they come before what arrives in it (13 R388, R392, R398). -/
def State.timely (s : State) : Bool :=
  match s.agenda with
  | [] => false
  | it :: _ => it.time ≤ s.wall && (match it.work with
    | .event e => (match e.op with | .tick => true | .decision => true | .watchDeadline => true | _ => false)
    | _ => false)

/-- One piece of the device's work; `issue` issues a group's bundles. -/
def stepWith (issue : State → Nat → State) (s : State) : Host.Outcome State Fault Refusal :=
  if s.powered && !s.fatal && s.timely then stepOn s
  else
  match s.inputs with
  | (t, e) :: rest =>
    if t ≤ s.wall then
      if s.hears e.op then exec e.op { s with inputs := rest, ev := e.args } else .next { s with inputs := rest }
    else if !s.powered || s.fatal then .next { s with wall := t }
    else stepOn s
  | [] => if !s.powered then .fault .poweredOff else if s.fatal then .fault .fatal else stepOn s
where
  /-- With power on and no input due. -/
  stepOn (s : State) : Host.Outcome State Fault Refusal :=
    match s.agenda with
    | it :: rest => if it.time ≤ s.wall then runWork { s with agenda := rest } it.work else stepGroups s
    | [] => stepGroups s
  /-- The increments and count changes of all groups, then the groups in order, then the next wall cycle. -/
  stepGroups (s : State) : Host.Outcome State Fault Refusal :=
    match s.groupKeys.find? s.pulseDue with
    | some g => (groupStep issue s g).1
    | none =>
      match s.groupKeys[s.cursor]? with
      | none => .next (nextWall s)
      | some g =>
        match groupStep issue s g with
        | (.next s', true) => .next { s' with cursor := s'.cursor + 1 }
        | (r, _) => r

/-! ### Traps decided after their bundle's issue (01 R463; log entry 10) -/

/-- Whether the device, going on with every later bundle, comes to trap `x` at cycle `t` too, before its colonnade meets any other: then
the events that decide it are those of bundles issued at or before its own. -/
def State.comesTo (g t : Nat) (x : Trap) : Nat → State → Bool
  | 0, _ => false
  | fuel + 1, s =>
    match stepWith (issueGroup []) { s with trapNow := none } with
    | .next s1 =>
      if s1.trapNow = some x then (s1.group g).sched = t
      else if (s1.col (colOf x.core)).stopped || (s1.group g).phase = .idle || t < (s1.group g).sched then false
      else
        match s1.trapNow with
        | some y => if colOf y.core = colOf x.core then false else State.comesTo g t x fuel s1
        | none => State.comesTo g t x fuel s1
    | _ => false

/-- The cycle by which scheduled work has made a judgement that later bundles may still change, although its trap is raised at its own
bundle: the watermark of a VRDACC, and the limit on the feeds of a heap row (07 R215, R223). -/
def State.foreseen (s : State) (n : Nat) (it : Item) : Option Nat :=
  match it.work with
  | .vec src r _ => match r.op with | .vrdacc _ => if src.cycle = n then some it.time else none | _ => none
  | .drain src d _ =>
    if src.cycle = n && epiHeap d.epi && (s.core src.core).feeds.any (fun p => 4096 ≤ p.2 + 64) then some (it.time + d.count + 6) else none
  | _ => none

/-- The trap that such a judgement brings a bundle of cycle `n` to by cycle `t`, the device going on with every later bundle. -/
def State.foresee (g n t : Nat) : Nat → State → Option Trap
  | 0, _ => none
  | fuel + 1, s =>
    match stepWith (issueGroup []) { s with trapNow := none } with
    | .next s1 =>
      if (s1.group g).phase = .idle || t < (s1.group g).sched then none
      else
        match s1.trapNow with
        | some y => if y.rank = 10 && y.cycle = n then some y else if (s1.groupOf y.core).inst = (s1.group g).inst then none else State.foresee g n t fuel s1
        | none => State.foresee g n t fuel s1
    | _ => none

/-- The late decided trap that is precise at a bundle which a group has just issued at cycle `n` (01 R27, R463): one that the work of
bundles up to that cycle brings by itself, and that later bundles do not change; or one of a cause that is precise whatever decides it. -/
def State.lateAt (s : State) (g n : Nat) : Option Trap :=
  if (s.group g).phase = .run && judging n (s.group g).agenda then
    let found := match State.ahead g n (2 ^ 32) { s with trapNow := none } with
      | some (t, x) => if State.comesTo g t x (2 ^ 64) s then some x else none
      | none => none
    match found with
    | some x => some x
    | none =>
      match ((s.group g).agenda.filterMap (s.foreseen n)) with
      | [] => none
      | l =>
        let t := l.foldl max 0
        match State.foresee g n t (2 ^ 64) s with
        | some x => if x.cause = .watermark || x.cause = .sched && x.tval / 2 ^ 60 = 7 then some x else none
        | none => none
  else none

/-- Issue a group's bundles; as long as one of them comes to a trap that is precise at it, issue again with that trap taken. -/
def issueExact : Nat → List Trap → State → Nat → State
  | 0, late, s, g => issueGroup late s g
  | fuel + 1, late, s, g =>
    let r := issueGroup late s g
    match r.lateAt g (s.group g).sched with
    | some x => issueExact fuel (late ++ [x]) s g
    | none => r

/-- The trap that work of cycle `t` of a group, its bundles of that cycle issued, brings a bundle of an earlier cycle to, with the address of
that bundle (01 R463). -/
def State.lateNow (g t : Nat) : Nat → State → Option (Trap × Nat)
  | 0, _ => none
  | fuel + 1, s =>
    if (s.group g).phase ≠ .run || (s.group g).sched ≠ t then none
    else
      match stepWith (issueGroup []) { s with trapNow := none } with
      | .next s1 =>
        (match s1.trapNow with
        | some x => if x.rank = 10 && x.cycle < t && s.groupNo x.core = g then some (x, (s1.core x.core).epc.toNat % 65536) else State.lateNow g t fuel s1
        | none => State.lateNow g t fuel s1)
      | _ => none

/-- Issue a group's bundles of a cycle; where work of the cycle brings an earlier bundle to a trap, the colonnade of its core stops before
the cycle instead, with none of its bundles and events of it (01 R463, R22). -/
def issueLate : Nat → State → Nat → State
  | 0, s, g => issueExact Config.nCols [] s g
  | fuel + 1, s, g =>
    let r := issueExact Config.nCols [] s g
    let t := (s.group g).sched
    if (s.group g).agenda.any (fun it => it.time ≤ t && it.work.judge.isSome) then
      match State.lateNow g t (2 ^ 64) r with
      | none => r
      | some (x, b) =>
        let u := takeTrap (s.unarmCol g (colOf x.core)) x b
        if (u.group g).phase = .run then issueLate fuel u g else u
    else r

/-- One piece of the device's work. -/
def stepState (s : State) : Host.Outcome State Fault Refusal := stepWith (issueLate Config.nCols) s

/-! ### Placing an instruction (log entry 12) -/

/-- The header of a bundle with the one slot of a space. -/
def headerOf (sp : Space) : Word32 :=
  match sp with
  | .c => 0x20000000#32
  | .t => 0x10000000#32
  | .m => 0x08000000#32
  | .v => 0x04000000#32
  | .x => 0x02000000#32

/-- A slot word as the only slot of a bundle at word 0 of core 0 of colonnade 0, its literal zero, with that core running in a
group of its colonnade alone and the other cores halted: what a launch of an object of shape 1, 0 sets up. -/
def State.placeWord (s : State) (w : Nat) : State :=
  let sp := match slotOfWord w with | some p => p.1 | none => .c
  let bytes := leBytes 4 (headerOf sp).toNat ++ leBytes 4 w ++ leBytes 4 0
  let core (k : Nat) : Core :=
    if k = 0 then { s.core 0 with mode := .run, pc := 0, fetched := [], fetchAt := (s.group 0).sched, noIdle := true }
    else { s.core k with mode := .halted }
  let s := { s with mem := s.mem.writeBytes (imAddr 0 0) bytes, cursor := 0 }
  let s := (List.range 8).foldl (fun s k => s.setCore k (core k)) s
  let s := s.modCol 0 (fun c => { c with inst := some 0, group := 0 })
  let s := s.setInst 0 { s.inst 0 with groups := [0], placed := true, cols := [(0, 1)] }
  s.setGroup 0 { s.group 0 with cols := [0], phase := .run, started := true, checked := false }

end Sys2Proof.Machine
end

