-- ==== Sys2Proof/Safety.lean ====
section
/-! DEFINITION. What counts as a safe run, in the terms the statements use: memory in canonical form, a device that does its
work, an instruction that completes, and what an instruction leaves unchanged. -/

namespace Sys2Proof.Machine

/-- The byte memory is in its one canonical form: addresses strictly rising, no entry equal to an unlisted byte. -/
def State.Canonical (s : State) : Prop := s.mem.wf = true

/-- Main power is on and no fatal error has happened: the device does its work (15 R445; 16 R451, R457). -/
def State.Alive (s : State) : Prop := s.powered = true ∧ s.fatal = false

/-- The instruction answers a next state, of which `P` holds. -/
def Completes (i : Instr) (s : State) (P : State → Prop) : Prop := ∃ t, exec i s = .next t ∧ P t

/-- Every byte of memory reads as before. -/
def State.SameMem (s t : State) : Prop := ∀ a, t.mem.read a = s.mem.read a

/-- Every byte of memory outside `n` bytes from `a` reads as before. -/
def State.SameMemBut (s t : State) (a n : Nat) : Prop := ∀ x, x < a ∨ a + n ≤ x → t.mem.read x = s.mem.read x

/-- Every other core than the issuing one is as before. -/
def State.SameOthers (s t : State) : Prop := ∀ j, j ≠ s.here.core → t.core j = s.core j

/-- Nothing of the device but the state of its cores differs: memory, tags, colonnades, groups, engines, the front end. -/
def State.OnlyCores (s t : State) : Prop := { t with cores := s.cores } = s

/-- Nothing but the issuing core differs. -/
def State.OnlyMe (s t : State) : Prop := s.OnlyCores t ∧ s.SameOthers t ∧ s.SameMem t

/-- In the issuing core nothing differs but scalar register `d` of the bank in use: every other scalar register, the predicates,
the handles, the flags, the special and exception registers and the accumulators are as before. -/
def State.OnlyS (s : State) (d : SReg) (t : State) : Prop :=
  s.OnlyMe t ∧ (∀ r : Nat, r ≠ d.val → t.me.sreg r = s.me.sreg r) ∧
  { t.me with s := s.me.s, sh := s.me.sh, cwrote := s.me.cwrote } = s.me ∧
  (if s.me.shadow then t.me.s = s.me.s else t.me.sh = s.me.sh)

/-- `t` is `s` with `v` in s[d], as the bundle of the next cycle reads it; s0 goes on reading zero (05 R129, R130). -/
def State.GivesS (s : State) (d : SReg) (v : Word) (t : State) : Prop :=
  t.rs d = (if d.val = 0 then 0 else v) ∧ s.OnlyS d t

/-- The low bits of a register that a width code selects (05 R136). -/
def State.low (s : State) (r : SReg) (sz : Sz) : BitVec sz.bits := (s.rs r).setWidth sz.bits

/-- `t` is `s` with `v` in p[d]; p0 goes on reading 1 (05 R129). -/
def State.GivesP (s : State) (d : PReg) (v : Bool) (t : State) : Prop :=
  t.me.preg d.val = (if d.val = 0 then true else v) ∧ s.OnlyMe t ∧
  (∀ r : Nat, r ≠ d.val → t.me.preg r = s.me.preg r) ∧
  { t.me with p := s.me.p, ph := s.me.ph } = s.me ∧
  (if s.me.shadow then t.me.p = s.me.p else t.me.ph = s.me.ph)

/-- `t` is `s` with `v` in H[d]; nothing else differs. -/
def State.GivesH (s : State) (d : HReg) (v : Handle) (t : State) : Prop :=
  t.rh d = v ∧ s.OnlyMe t ∧ (∀ r : Nat, r ≠ d.val → t.me.hreg r = s.me.hreg r) ∧ { t.me with h := s.me.h } = s.me

/-! ### Scheduled work -/

/-- Between `s` and `t` nothing differs but the agenda of the issuing core's group: no register, no flag, no byte of memory. -/
def State.OnlyAgenda (s t : State) : Prop :=
  { t with groups := s.groups } = s ∧ s.SameMem t ∧
  (∀ g, { t.group g with agenda := (s.group g).agenda } = s.group g) ∧
  (∀ g, g ≠ s.groupNo s.here.core → t.group g = s.group g)

/-- `t` is `s` with one piece of work more on the agenda of the issuing core's group, `d` cycles after the bundle; nothing else
differs. -/
def State.Schedules (s : State) (d phase rank : Nat) (w : Work) (t : State) : Prop :=
  (t.groupOf s.here.core).agenda =
    insertItem ⟨s.here.cycle + d, phase, rank, colOf s.here.core, w⟩ (s.groupOf s.here.core).agenda ∧
  s.OnlyAgenda t

/-- A piece of work stands on the agenda of core `k`'s group. -/
def State.HasWork (s : State) (k time phase rank : Nat) (w : Work) : Prop :=
  (⟨time, phase, rank, colOf k, w⟩ : Item) ∈ (s.groupOf k).agenda

/-- The acting slot acts: its bundle issues, and its look-ahead has made its reservation and found no trap (01 R22). -/
def State.Acting (s : State) : Prop :=
  s.here.visit = .issue ∧ ∃ a, s.myAsk.filter (·.done) = some a ∧ a.trap = none

/-- The acting slot acts, its look-ahead having made its reservation, or finding nothing to look ahead for (01 R22). -/
def State.ActingOn (s : State) (l : State → Look) : Prop :=
  s.Acting ∨ (s.here.visit = .issue ∧ s.myAsk.filter (·.done) = none ∧ l s = .free)

/-- The ring count from which the acting slot's look-ahead has reserved or claimed (06 R193, R194). -/
def State.askStart (s : State) : Nat := ((s.myAsk.filter (·.done)).map (·.start)).getD 0

/-- No untimed work is in hand, and none has begun to write its rows. -/
def State.NoWork (s : State) : Prop :=
  s.olds = [] ∧ s.since = 0 ∧ s.work = 0 ∧ s.port = [] ∧ s.wrote = [] ∧
  ∀ q c, (s.queue q).running = some c → c.free = [] ∧ c.run = none

/-- No timed access stands in the way of any bank, no running group holds a channel, and no untimed work is in hand: an engine's access is
performed at once (04 R110; 09 R281). -/
def State.Quiet (s : State) : Prop :=
  (∀ c, (s.col c).uses = [] ∧ (s.col c).reqs = [] ∧ s.unheld c = true) ∧ s.NoWork

/-- The registers that programs and handlers see are the same in two states of a core: scalar registers, predicates, handles,
vector registers and masks, accumulators, coefficients, operand queues, flags, special and exception registers. -/
def Core.SameRegs (c d : Core) : Prop :=
  d.s = c.s ∧ d.sh = c.sh ∧ d.h = c.h ∧ d.p = c.p ∧ d.ph = c.ph ∧ d.v = c.v ∧ d.m = c.m ∧ d.acc = c.acc ∧ d.accBase = c.accBase ∧
  d.coef = c.coef ∧ d.queues = c.queues ∧ d.aflags = c.aflags ∧ d.tvec = c.tvec ∧ d.epc = c.epc ∧ d.tcause = c.tcause ∧
  d.tval = c.tval ∧ d.imask = c.imask ∧ d.ipend = c.ipend ∧ d.valloc = c.valloc ∧ d.livemap = c.livemap ∧ d.stage = c.stage ∧
  d.rep = c.rep ∧ d.hold = c.hold ∧ d.shadow = c.shadow ∧ d.mode = c.mode

/-- Lane `l` of vector register `r` of a core (08 R228). -/
def Core.lane (c : Core) (r l : Nat) : Word32 := FMap.get 0 (FMap.get [] c.v r) l

/-- Issuing changed no register of any core and no byte of memory. -/
def State.SameMachine (s t : State) : Prop := s.SameMem t ∧ t.tags = s.tags ∧ ∀ k, (s.core k).SameRegs (t.core k)

end Sys2Proof.Machine
end

