-- ==== Sys2Proof/Certificates/Slice0/Obligations.lean ====
section
/-! DEFINITION. The statements about the model, for the provers: each is named for what it states, its docstring names the rule
of the spec it formalises. -/

open Sys2Proof Sys2Proof.Machine

/-! ### The sequencer's registers and arithmetic (03, 05) -/

/-- R136 and R97: every register form but the divisions. With w = 64 >> sz, x and y the low w bits of s[a] and s[b], s[d]
takes the sign-extended w-bit result (zero-extended for the unsigned minimum and maximum and the counts), no flag is raised, and
nothing else of the machine changes. -/
def Obligations.RegisterFormsGiveTheirResults : Prop :=
  ∀ (s : State) (d a b : SReg) (sz : Sz),
    let w := sz.bits
    let x := s.low a sz
    let y := s.low b sz
    let m := s.low d sz
    let R (i : RArgs → Instr) (v : BitVec w) : Prop := Completes (i ⟨d, a, b, sz⟩) s (s.GivesS d (v.signExtend 64))
    let Z (i : RArgs → Instr) (v : BitVec w) : Prop := Completes (i ⟨d, a, b, sz⟩) s (s.GivesS d (v.setWidth 64))
    let C (i : SReg → SReg → Sz → Instr) (n : Nat) : Prop := Completes (i d a sz) s (s.GivesS d (BitVec.ofNat 64 n))
    R .add (x + y) ∧ R .sub (x - y) ∧ R .mul (x * y) ∧
    R .mulh (BitVec.ofInt w (x.toInt * y.toInt / 2 ^ w)) ∧
    R .and (x &&& y) ∧ R .or (x ||| y) ∧ R .xor (x ^^^ y) ∧
    R .shl (x <<< y.toNat) ∧ R .shr (x >>> y.toNat) ∧ R .sar (x.sshiftRight y.toNat) ∧
    R .min (if x.toInt ≤ y.toInt then x else y) ∧ R .max (if x.toInt ≤ y.toInt then y else x) ∧
    Z .minn (if x.toNat ≤ y.toNat then x else y) ∧ Z .maxn (if x.toNat ≤ y.toNat then y else x) ∧
    R .sel ((x &&& m) ||| (y &&& ~~~m)) ∧
    Completes (.mov d a sz) s (s.GivesS d (x.signExtend 64)) ∧
    C .popc ((List.range w).countP (fun i => x.getLsbD i)) ∧
    (∀ n, n ≤ w → (∀ i, w - n ≤ i → i < w → x.getLsbD i = false) → (n < w → x.getLsbD (w - 1 - n) = true) → C .clz n) ∧
    (∀ n, n ≤ w → (∀ i, i < n → x.getLsbD i = false) → (n < w → x.getLsbD n = true) → C .ffs n)

/-- R98 with R136: the divisions at width w with their special cases; DZ (16) or OF (2) is merged into AFLAGS one cycle on, and
without a flag nothing but s[d] changes. -/
def Obligations.DivisionsGiveQuotientAndRemainder : Prop :=
  ∀ (s : State) (d a b : SReg) (sz : Sz),
    let w := sz.bits
    let x := s.low a sz
    let y := s.low b sz
    let flag : Nat := if y = 0 then 16 else if x = BitVec.intMin w ∧ y = BitVec.allOnes w then 2 else 0
    let flagN : Nat := if y = 0 then 16 else 0
    let D (i : RArgs → Instr) (v : Word) (f : Nat) : Prop :=
      Completes (i ⟨d, a, b, sz⟩) s (fun t => ∃ u, s.GivesS d v u ∧ t = u.flagsAfter 1 f)
    D .div (if y = 0 then BitVec.allOnes 64 else (x.sdiv y).signExtend 64) flag ∧
    D .rem (if y = 0 then x.signExtend 64 else (x.srem y).signExtend 64) flag ∧
    D .divn (if y = 0 then (BitVec.allOnes w).setWidth 64 else (x / y).setWidth 64) flagN ∧
    D .remn (if y = 0 then x.setWidth 64 else (x % y).setWidth 64) flagN

/-- R137, R138: the immediate forms over all 64 bits of s[d]; a shift by 64 or more raises ILLEGAL (R137) at the bundle. -/
def Obligations.ImmediateFormsGiveTheirResults : Prop :=
  ∀ (s : State) (d : SReg) (imm : BitVec 14) (l : Word32),
    let x := s.rs d
    let e : Word := imm.signExtend 64
    let k := imm.toNat
    let R (i : Instr) (v : Word) : Prop := Completes i s (s.GivesS d v)
    R (.addi d imm) (x + e) ∧ R (.andi d imm) (x &&& e) ∧ R (.ori d imm) (x ||| e) ∧ R (.xori d imm) (x ^^^ e) ∧
    R (.movi d imm) e ∧ R (.lit d l) (l.signExtend 64) ∧
    R (.lith d l) (l.setWidth 64 <<< 32 ||| (x &&& 0xFFFFFFFF#64)) ∧
    (k < 64 → R (.shli d imm) (x <<< k) ∧ R (.shri d imm) (x >>> k) ∧ R (.sari d imm) (x.sshiftRight k)) ∧
    (64 ≤ k → ∀ i ∈ [Instr.shli d imm, .shri d imm, .sari d imm],
      exec i s = .next (takeTrap s (s.illegal 2) s.here.bundle))

/-- R139, R140: comparisons and predicate operations; p0 discards the write. -/
def Obligations.PredicatesTakeTheirTests : Prop :=
  ∀ (s : State) (pd pa pb : PReg) (a b : SReg) (l : Word32),
    let x := s.rs a
    let P (i : Instr) (v : Bool) : Prop := Completes i s (s.GivesP pd v)
    let T (i : Cond → Instr) (y : Word) : Prop :=
      P (i .eq) (x == y) ∧ P (i .ne) (x != y) ∧ P (i .lt) (x.slt y) ∧ P (i .le) (x.sle y) ∧
      P (i .ltn) (x.ult y) ∧ P (i .len) (x.ule y)
    let p := s.me.preg pa.val
    let q := s.me.preg pb.val
    T (fun c => .cmp pd c a b) (s.rs b) ∧ T (fun c => .cmpi pd c a l) (l.signExtend 64) ∧
    P (.plog pd .and pa pb) (p && q) ∧ P (.plog pd .or pa pb) (p || q) ∧ P (.plog pd .xor pa pb) (Bool.xor p q) ∧
    P (.plog pd .andn pa pb) (p && !q) ∧ P (.plog pd .orn pa pb) (p || !q) ∧ P (.plog pd .xnor pa pb) (p == q)

/-- R131, R141, R142: the handle instructions outside shadow mode; HMAKE beyond s63 and each of them in shadow mode raise ILLEGAL
(R157). R143: HADV steps the tile index by s[a] tiles, wrapping round the grid of ⌈DIM0/TILEW⌉ by ⌈DIM1/TILEH⌉ tiles, along rows or
columns as COL says; every other field but the tag stays, and a grid with a zero field does not move. -/
def Obligations.HandleInstructionsGiveTheirFields : Prop :=
  (∀ (s : State) (hd ha : HReg) (a d : SReg) (f : HField) (tag : Bool),
     (s.me.shadow = false →
       Completes (.hmov hd ha) s (s.GivesH hd (s.rh ha)) ∧
       (a.val ≤ 60 → Completes (.hmake hd a) s (fun t => s.GivesH hd (t.rh hd) t ∧
         ∀ i, i < 4 → (t.rh hd).extractLsb' (64 * i) 64 = s.me.sreg (a.val + i))) ∧
       Completes (.hget ha d f) s (s.GivesS d (((s.rh ha).extractLsb' (hplace f).1 (hplace f).2).setWidth 64)) ∧
       Completes (.hset hd a f) s (fun t => s.GivesH hd (t.rh hd) t ∧
         (t.rh hd).extractLsb' (hplace f).1 (hplace f).2 = (s.rs a).setWidth (hplace f).2 ∧
         ∀ i, (i < (hplace f).1 ∨ (hplace f).1 + (hplace f).2 ≤ i) → (t.rh hd).getLsbD i = (s.rh hd).getLsbD i) ∧
       Completes (.htag hd ha a) s (fun t => s.GivesH hd (t.rh hd) t ∧
         hget (t.rh hd) .tag = (if hget (s.rh ha) .tag = 0 then 0
           else (((hget (s.rh ha) .tag : Int) - 1 + (s.rs a).toInt) % 255 + 1).toNat) ∧
         ∀ i, i < 64 ∨ 72 ≤ i → (t.rh hd).getLsbD i = (s.rh ha).getLsbD i)) ∧
     (60 < a.val → exec (.hmake hd a) s = .next (takeTrap s (s.illegal 2) s.here.bundle)) ∧
     (s.me.shadow = true →
       (a.val ≤ 60 → exec (.hmake hd a) s = .next (takeTrap s s.illegal s.here.bundle)) ∧
       ∀ i ∈ [Instr.hmov hd ha, .hset hd a f, .hget ha d f, .hadv hd ha a tag, .htag hd ha a],
         exec i s = .next (takeTrap s s.illegal s.here.bundle))) ∧
  (∀ (s : State) (hd ha : HReg) (a : SReg) (tag : Bool), s.me.shadow = false →
     Completes (.hadv hd ha a tag) s (fun t =>
       let h := s.rh ha
       let g := t.rh hd
       let nx := (hget h .dim0 + hget h .tilew - 1) / hget h .tilew
       let ny := (hget h .dim1 + hget h .tileh - 1) / hget h .tileh
       s.GivesH hd g t ∧
       (∀ f, f ≠ .tx → f ≠ .ty → f ≠ .tag → hget g f = hget h f) ∧
       hget g .tag = (if tag then nextTag (hget h .tag) 1 else hget h .tag) ∧
       (hget h .tilew = 0 ∨ hget h .tileh = 0 ∨ hget h .dim0 = 0 ∨ hget h .dim1 = 0 →
         hget g .tx = hget h .tx ∧ hget g .ty = hget h .ty) ∧
       (hget h .tilew ≠ 0 → hget h .tileh ≠ 0 → hget h .dim0 ≠ 0 → hget h .dim1 ≠ 0 →
         hget g .tx < nx ∧ hget g .ty < ny ∧
         (if hget h .walk % 2 = 0 then
           ((hget g .ty * nx + hget g .tx : Nat) : Int) = (((hget h .ty * nx + hget h .tx : Nat) : Int) + (s.rs a).toInt) % ((nx * ny : Nat) : Int)
         else
           ((hget g .tx * ny + hget g .ty : Nat) : Int) = (((hget h .tx * ny + hget h .ty : Nat) : Int) + (s.rs a).toInt) % ((nx * ny : Nat) : Int)))))

/-! ### Control of the sequencer (02, 05) -/

/-- R53, R62: a spacer and a NOP, an X slot's with any literal, leave the machine as it is. R60, R146: a transfer within instruction
memory moves the pc alone (CALL also writes s63, LOOP its counter); one outside 0 to 65,535 raises ILLEGAL at the bundle. -/
def Obligations.TransfersMoveThePcAndNopsNothing : Prop :=
  (∀ (s : State) (l : Word32), ∀ i ∈ [Instr.spacer, .nop, .nopX l], exec i s = .next s) ∧
  (∀ (s : State) (a : SReg) (off : BitVec 20) (off14 : BitVec 14),
     let G (i : Instr) (n : Nat) : Prop :=
       Completes i s (fun t => t.me.pc = n ∧ s.OnlyMe t ∧ { t.me with pc := s.me.pc } = s.me)
     let B : Int := s.here.bundle
     let inside (x : Int) : Prop := 0 ≤ x ∧ x ≤ 65535
     (inside (B + off.toInt) → G (.br off) (B + off.toInt).toNat ∧
       Completes (.call off) s (fun t => ∃ u, s.GivesS 63 (BitVec.ofNat 64 s.here.next) u ∧
         t = u.modMe (fun c => { c with pc := (B + off.toInt).toNat }))) ∧
     (¬ inside (B + off.toInt) → ∀ i ∈ [Instr.br off, .call off], exec i s = .next (takeTrap s (s.illegal 2) s.here.bundle)) ∧
     ((s.rs a).toNat ≤ 65535 → G (.jmp a) (s.rs a).toNat) ∧
     ((s.rs 63).toNat ≤ 65535 → G .ret (s.rs 63).toNat) ∧
     (65535 < (s.rs a).toNat →
       exec (.jmp a) s = .next (takeTrap s (s.trapHere .illegal (s.rs a).toNat 9) s.here.bundle)) ∧
     (65535 < (s.rs 63).toNat →
       exec .ret s = .next (takeTrap s (s.trapHere .illegal (s.rs 63).toNat 9) s.here.bundle)) ∧
     (inside (B + off14.toInt) →
       Completes (.loop a off14) s (fun t => ∃ u, s.GivesS a (if s.rs a = 0 then 0 else s.rs a - 1) u ∧
         t = if s.rs a = 0 ∨ s.rs a = 1 then u else u.modMe (fun c => { c with pc := (B + off14.toInt).toNat }))) ∧
     (¬ inside (B + off14.toInt) → exec (.loop a off14) s = .next (takeTrap s (s.illegal 2) s.here.bundle)))

/-- R65, R66: a repeat, where the checks of the repeated bundle pass, latches its counts and strides for the bundle that
follows, REPEAT the encoded count and REPEATS the count in s[a] (padding to the encoded span); nothing else changes. -/
def Obligations.RepeatsLatchTheirCounts : Prop :=
  ∀ (s : State) (a : SReg) (n : Fin 4096) (svd sva svb : Fin 32),
    let span := max n.val 1
    let k := (s.rs a).toNat
    let L (i : Instr) (left : Nat) : Prop := Completes i s (fun t =>
      t.me.rep.active = true ∧ t.me.rep.left = left ∧ t.me.rep.pad = span - left ∧ t.me.rep.iter = 0 ∧
      t.me.rep.svd = svd.val ∧ t.me.rep.sva = sva.val ∧ t.me.rep.svb = svb.val ∧ t.me.rep.addr = s.here.next ∧
      s.OnlyMe t ∧ { t.me with rep := s.me.rep } = s.me)
    (s.me.shadow = false → s.repeatChecks s.here.next span svd.val sva.val svb.val = none →
      L (.rept n svd sva svb) n.val ∧ (k ≤ n.val → L (.repts a n svd sva svb) k) ∧
      (n.val < k → exec (.repts a n svd sva svb) s = .next (takeTrap s (s.trapHere .repeatRange k 5) s.here.bundle))) ∧
    (s.me.shadow = true → ∀ i ∈ [Instr.rept n svd sva svb, .repts a n svd sva svb],
      exec i s = .next (takeTrap s s.illegal s.here.bundle))

/-- R147, R148: ALIGN and FRAG stop the core at their barrier and HALT stops it for good, clearing its holds (R57), bindings and
interrupt request; nothing else of the machine changes. -/
def Obligations.BarriersAndHaltStopTheCore : Prop :=
  ∀ (s : State), s.me.shadow = false →
    let B (i : Instr) (m : Mode) : Prop := Completes i s (fun t =>
      t.me.mode = m ∧ t.me.arrivedAt = s.here.cycle ∧ s.OnlyMe t ∧
      { t.me with mode := s.me.mode, arrivedAt := s.me.arrivedAt, barrierAt := s.me.barrierAt } = s.me)
    B .align .atAlign ∧ B .frag .atFrag ∧
    Completes .halt s (fun t => t.me.mode = .halted ∧ t.me.hold = [] ∧ t.me.binds = [] ∧ t.me.ireq = none ∧ s.OnlyMe t ∧
      { t.me with mode := s.me.mode, hold := s.me.hold, binds := s.me.binds, ireq := s.me.ireq } = s.me)

/-- R133 to R135: KRD writes s[d] with the register as it stands; the registers outside shadow mode by number. KWR takes effect at
c+1, the bits marked RO kept. A reserved knum, a KWR of a read-only one, and a shadow-only one outside shadow mode raise ILLEGAL.
R149: ICINV marks its rows at c+1; FETCHB takes at the end of its cycle the rows so marked, to be applied 24 cycles later; in shadow
mode both raise ILLEGAL. -/
def Obligations.SpecialRegistersReadWriteAndFence : Prop :=
  (∀ (s : State) (d a : SReg) (n : BitVec 12) (v : Word), s.me.shadow = false →
     let k := s.here.core
     let R (n : BitVec 12) (v : Word) : Prop := Completes (.krd d n) s (s.GivesS d v)
     R 0x000 (BitVec.ofNat 64 s.here.cycle) ∧ R 0x001 (BitVec.ofNat 64 (s.groupOf k).stalls) ∧
     R 0x002 (BitVec.ofNat 64 (((if s.me.mode = .atAlign ∨ s.me.mode = .atFrag then min s.here.cycle s.me.arrivedAt else s.here.cycle) -
       s.me.stopAt) % 4096)) ∧ R 0x003 (BitVec.ofNat 64 s.me.rep.word) ∧
     R 0x004 (BitVec.ofNat 64 (s.shapeWord k)) ∧ R 0x005 (BitVec.ofNat 64 (s.coreIdWord k)) ∧
     R 0x006 (s.me.stage.setWidth 64) ∧ R 0x007 s.me.valloc ∧ R 0x008 s.me.aflags ∧
     R 0x009 (BitVec.ofNat 64 (s.groupOf k).fragWord) ∧ R 0x00A s.me.livemap ∧ R 0x00B (BitVec.ofNat 64 (predBits s.me.p)) ∧
     R 0x010 s.me.tvec ∧ R 0x011 s.me.epc ∧ R 0x012 s.me.tcause ∧ R 0x013 s.me.tval ∧ R 0x014 s.me.imask ∧ R 0x015 s.me.ipend ∧
     (knumReadable n.toNat = false → exec (.krd d n) s = .next (takeTrap s (s.illegal 2) s.here.bundle)) ∧
     (knumWritable n.toNat = false → exec (.kwr a n) s = .next (takeTrap s (s.illegal 2) s.here.bundle)) ∧
     (0x100 ≤ n.toNat → n.toNat ≤ 0x140 → ∀ i ∈ [Instr.krd d n, .kwr a n], exec i s = .next (takeTrap s s.illegal s.here.bundle)) ∧
     exec (.kwr a 0x011) s = .next (takeTrap s s.illegal s.here.bundle) ∧
     (∀ n ∈ [0x008#12, 0x009#12, 0x00B#12, 0x010#12, 0x014#12, 0x015#12],
       Completes (.kwr a n) s (s.Schedules 1 phEffect 0 (.eff k (.kwr n.toNat (s.rs a))))) ∧
     (let W (n : Nat) (P : Core → Prop) : Prop := ∃ t, runWork s (.eff k (.kwr n v)) = .next t ∧ P (t.core k) ∧ s.SameMem t
      W 0x008 (fun c => c = { s.me with aflags := v &&& 0x1F }) ∧
      W 0x010 (fun c => c = { s.me with tvec := v &&& 0x8000FFFF }) ∧
      W 0x014 (fun c => c.imask = v &&& 0xF ∧ c.ipend = s.me.ipend) ∧
      W 0x015 (fun c => c.ipend = s.me.ipend &&& ~~~ (v &&& 0xF) ∧ c.imask = s.me.imask) ∧
      W 0x00B (fun c => ∀ i, i < 8 → c.preg i = (i == 0 || v.getLsbD i)) ∧
      ((s.groupOf k).gnextAt ≠ s.wall + 1 → ∃ t, runWork s (.eff k (.kwr 0x009 v)) = .next t ∧
        (t.groupOf k).fragWord = 2 ^ 8 + v.toNat % 256))) ∧
  (∀ (s : State) (a b : SReg),
     (s.me.shadow = false →
       Completes (.icinv a b) s (s.Schedules 1 phEffect 0 (.eff s.here.core (.icinv (s.rs a).toNat (s.rs b).toNat))) ∧
       Completes .fetchb s (s.Schedules 0 phReg 1 (.eff s.here.core (.fenceSnap [])))) ∧
     (s.me.shadow = true → ∀ i ∈ [Instr.icinv a b, .fetchb], exec i s = .next (takeTrap s s.illegal s.here.bundle)) ∧
     (∀ k x y, ∃ t, runWork s (.eff k (.icinv x y)) = .next t ∧
       (t.core k).icinv = (if y = 0 ∨ 1024 ≤ x then (s.core k).icinv else (x, y) :: (s.core k).icinv)) ∧
     (∀ k, ∃ t, runWork s (.eff k (.fenceSnap [])) = .next t ∧ (t.core k).icinv = [] ∧
       ∃ rows, t.HasWork k ((s.groupOf k).sched + 24) phEffect 0 (.eff k (.fenceApply rows)) ∧
         ∀ r, r < 1024 → (s.core k).icinv.any (fun p => p.1 ≤ r && r < p.1 + p.2) = true →
           (r, s.readRow (rowAt k 9 r)) ∈ rows))

/-! ### Traps (01 R27; 05 R155 to R158) -/

/-- R155 to R158: TRAP with TVEC.EN = 1 outside shadow mode takes SW_TRAP: TCAUSE holds 0x12 with the slot, TVAL the code, EPC
the bundle with SKIPC set, the holds are saved and cleared, shadow mode is on, and the handler's first bundle, at TVEC.ADDR, issues
12 wall cycles after the freeze point, which in a group of one colonnade is now. No other register changes, nor does memory. -/
def Obligations.TrapEntersItsHandler : Prop :=
  ∀ (s : State) (code : BitVec 20),
    let c := s.me
    let g := s.groupNo s.here.core
    c.shadow = false → c.tvec.getLsbD 31 = true → (s.group g).cols.length ≤ 1 → (s.group g).phase = .run → s.here.slot < 8 →
    s.here.bundle < 65536 →
    Completes (.trap code) s (fun t =>
      t.me.shadow = true ∧ t.me.pc = (c.tvec &&& 0xFFFF).toNat ∧
      t.me.tcause = 0x12#64 ||| (BitVec.ofNat 64 s.here.slot <<< 8) ∧ t.me.tval = code.setWidth 64 ∧
      t.me.epc = BitVec.ofNat 64 s.here.bundle ||| 0x10000#64 ∧ t.me.savedHold = c.hold ∧ t.me.hold = [] ∧
      t.me.shadowAt = s.wall + 12 ∧ (t.group g).isFrozen = true ∧ Freeze.handler ∈ (t.group g).conds ∧
      t.me.s = c.s ∧ t.me.sh = c.sh ∧ t.me.p = c.p ∧ t.me.ph = c.ph ∧ t.me.h = c.h ∧ t.me.aflags = c.aflags ∧
      t.me.tvec = c.tvec ∧ t.me.imask = c.imask ∧ t.me.ipend = c.ipend ∧ t.me.rep = c.rep ∧ t.me.v = c.v ∧ t.me.acc = c.acc ∧
      s.SameOthers t ∧ s.SameMem t)

/-- R156, R157: with TVEC.EN = 0 a trap taken outside shadow mode, and any trap raised in shadow mode (with DOUBLE and ENDING
set), ends the instance of a group of one colonnade with status 2, its TCAUSE and its TVAL. -/
def Obligations.TrapWithoutHandlerEndsTheInstance : Prop :=
  ∀ (s : State) (t : Trap) (b : Nat),
    let c := s.core t.core
    let i := (s.col (colOf t.core)).inst.getD 0
    (s.inst i).status = none → (s.group (s.groupNo t.core)).cols.length ≤ 1 → t.slot < 8 →
    (c.shadow = true ∨ c.tvec.getLsbD 31 = false) →
    let u := takeTrap s t b
    (u.inst i).status = some 2 ∧ (u.inst i).cause = (u.core t.core).tcause.toNat ∧ (u.inst i).tval = t.tval ∧
    (u.core t.core).tcause.toNat % 256 = t.cause.code ∧ (u.core t.core).tcause.getLsbD 11 = true ∧
    (u.core t.core).tcause.getLsbD 12 = c.shadow ∧ (u.core t.core).tval = BitVec.ofNat 64 t.tval ∧
    (∀ g ∈ (s.inst i).groups, (u.group g).phase = .idle ∧ (u.group g).agenda = []) ∧ s.SameMem u

/-- R158: RETT in shadow mode, ENDING clear and the group able to resume, leaves the handler: the holds come back, the bundle at
EPC.ADDR issues next with its C slot a NOP under SKIPC; no other register and no byte of memory changes. Outside shadow mode RETT
raises ILLEGAL. -/
def Obligations.RettLeavesTheHandler : Prop :=
  ∀ (s : State), let c := s.me
    (c.shadow = true → c.tcause.getLsbD 11 = false → mayResume s = true → c.mode ≠ .halted →
      Completes .rett s (fun t =>
        t.me.shadow = false ∧ t.me.hold = c.savedHold ∧ t.me.savedHold = [] ∧ t.me.pc = (c.epc &&& 0xFFFF).toNat ∧
        t.me.skipC = c.epc.getLsbD 16 ∧ t.me.readyRett = true ∧ t.me.mode = c.mode ∧
        t.me.s = c.s ∧ t.me.sh = c.sh ∧ t.me.p = c.p ∧ t.me.ph = c.ph ∧ t.me.h = c.h ∧ t.me.aflags = c.aflags ∧
        t.me.tvec = c.tvec ∧ t.me.epc = c.epc ∧ t.me.tcause = c.tcause ∧ t.me.tval = c.tval ∧ t.me.imask = c.imask ∧
        t.me.ipend = c.ipend ∧ t.me.v = c.v ∧ t.me.acc = c.acc ∧
        (t.me.rep = c.rep ∨ (t.me.rep = {} ∧ c.rep.addr ≠ (c.epc &&& 0xFFFF).toNat)) ∧ s.OnlyMe t)) ∧
    (c.shadow = false → exec .rett s = .next (takeTrap s s.illegal s.here.bundle))

/-- R156 with R158: a trap that enters its handler, then RETT from it at once, comes back to the bundle that trapped, with every
register of the main bank, the holds and a repeat in progress as they were. -/
def Obligations.TrapThenRettComesBack : Prop :=
  ∀ (s : State) (x : Trap) (b : Nat) (h : Here),
    let c := s.core x.core
    c.shadow = false → c.tvec.getLsbD 31 = true → x.cause.ending = false → (s.group (s.groupNo x.core)).cols.length ≤ 1 →
    c.mode ≠ .halted → x.slot < 8 → b < 65536 → h.core = x.core → (c.rep.active = true → c.rep.addr = b) →
    ∃ t, exec .rett { takeTrap s x b with here := h } = .next t ∧
      (t.core x.core).shadow = false ∧ (t.core x.core).pc = b ∧ (t.core x.core).hold = c.hold ∧
      (t.core x.core).s = c.s ∧ (t.core x.core).p = c.p ∧ (t.core x.core).h = c.h ∧ (t.core x.core).rep = c.rep ∧
      (t.core x.core).v = c.v ∧ (t.core x.core).aflags = c.aflags ∧ s.SameMem t

/-! ### Waiting and signalling (05 R150 to R154) -/

/-- R150, R151: a wait whose look-ahead is satisfied completes: RWFIL and RWFRE change nothing, WAITEV gives s[d] the cycles its
freeze added to STALLS, 0 without a freeze. The look-ahead of WAITEV takes one count off each named line at once when all have one;
RWFIL's and RWFRE's find their entries or their room and take nothing, or freeze the group, or raise RING_OVERRUN above the capacity;
with n = 0 they wait for nothing. A WAITEV of no line, or of one above
127, and each of the three in shadow mode (R157), raise ILLEGAL. -/
def Obligations.WaitsCompleteWhenServed : Prop :=
  ∀ (s : State) (g : GReg) (n : BitVec 14) (d : SReg) (base : Fin 128) (mask : Word32),
    let col := colOf s.here.core
    let r := (s.col col).ring g.val
    let lines := waitLines base mask
    let froze : Bool := match s.myAsk with | some a => a.missed | none => false
    (s.me.shadow = false → s.Acting →
      exec (.rwfil g n) s = .next s ∧ exec (.rwfre g n) s = .next s ∧
      (mask ≠ 0 → (∀ l ∈ lines, l ≤ 127) → Completes (.waitev d base mask) s
        (s.GivesS d (BitVec.ofNat 64 (if froze then (s.groupOf s.here.core).freezeStalls else 0))))) ∧
    (mask = 0 ∨ (∃ l ∈ lines, 127 < l) → exec (.waitev d base mask) s = .next (takeTrap s (s.illegal 2) s.here.bundle)) ∧
    (s.me.shadow = true → exec (.rwfil g n) s = .next (takeTrap s s.illegal s.here.bundle) ∧
      exec (.rwfre g n) s = .next (takeTrap s s.illegal s.here.bundle) ∧
      (mask ≠ 0 → (∀ l ∈ lines, l ≤ 127) → exec (.waitev d base mask) s = .next (takeTrap s s.illegal s.here.bundle))) ∧
    ((∀ l ∈ lines, FMap.get 0 (s.col col).counts l ≠ 0) →
      lookWait lines s = .ok 0 (s.modCol col (fun c => c.takeLines lines))) ∧
    ((∃ l ∈ lines, FMap.get 0 (s.col col).counts l = 0) → lookWait lines s = .wait s) ∧
    (lines.Nodup → ∀ l, FMap.get 0 ((s.col col).takeLines lines).counts l =
      FMap.get 0 (s.col col).counts l - (if l ∈ lines then 1 else 0)) ∧
    (n ≠ 0 → r.e < n.toNat → lookFilled g.val n.toNat s = .trap (s.overrun g.val n.toNat) ∧
      lookRoom g.val n.toNat s = .trap (s.overrun g.val n.toNat)) ∧
    (n.toNat ≤ r.e → r.filled < n.toNat → lookFilled g.val n.toNat s = .wait s) ∧
    (n.toNat ≤ r.e → r.room < n.toNat → lookRoom g.val n.toNat s = .wait s) ∧
    (n ≠ 0 → n.toNat ≤ r.e → n.toNat ≤ r.filled → lookFilled g.val n.toNat s = .ok 0 s) ∧
    (n ≠ 0 → n.toNat ≤ r.e → n.toNat ≤ r.room → lookRoom g.val n.toNat s = .ok 0 s) ∧
    (n = 0 → lookFilled g.val n.toNat s = .free ∧ lookRoom g.val n.toNat s = .free)

/-- R152 to R154 with R32, R35: SIGEV's pulses come at c+2, a remote SIGEV's at c+28 as source 88 + RIDX of the colonnade named,
EVARM's writes at c+1; each pulse adds one to every line its source is routed to, up to 255, where the sticky bit is set. A SIGEV of no
pulse, a window that the engine lacks or that runs beyond line 127, and each of them in shadow mode (R157), raise ILLEGAL. -/
def Obligations.SignalsReachTheirLines : Prop :=
  ∀ (s : State) (n : Byte) (col : Fin 16) (ridx : Fin 32) (src line : Fin 128) (v : Bool) (e q : Fin 16) (base : Fin 128) (x : Byte),
    let k := s.here.core
    let c := colOf k
    (s.me.shadow = false → n ≠ 0 →
      Completes (.sigev n) s (s.Schedules 2 phPulse k (.pulse c (coreNo k) n.toNat)) ∧
      (∀ p, s.physical col.val = some p →
        Completes (.sigevRemote col ridx n) s (s.Schedules 28 phPulse k (.pulse p (88 + ridx.val) n.toNat))) ∧
      (s.physical col.val = none →
        exec (.sigevRemote col ridx n) s = .next (takeTrap s s.unreachable s.here.bundle))) ∧
    (s.me.shadow = false →
      Completes (.evarmRoute src line v) s (s.Schedules 1 phEvarm k (.evRoute c src.val line.val v)) ∧
      (q.val < engineQueues e.val → base.val ≤ 112 →
        Completes (.evarmWindow e q base) s (s.Schedules 1 phEvarm k (.evWindow c (e.val * 16 + q.val) base.val))) ∧
      Completes (.evarmCount line x v) s (s.Schedules 1 phEvarm k (.evCount c line.val x.toNat v))) ∧
    (n = 0 → ∀ i ∈ [Instr.sigev n, .sigevRemote col ridx n], exec i s = .next (takeTrap s (s.illegal 2) s.here.bundle)) ∧
    (engineQueues e.val ≤ q.val ∨ 112 < base.val →
      exec (.evarmWindow e q base) s = .next (takeTrap s (s.illegal 2) s.here.bundle)) ∧
    (s.me.shadow = true →
      (n ≠ 0 → ∀ i ∈ [Instr.sigev n, .sigevRemote col ridx n], exec i s = .next (takeTrap s s.illegal s.here.bundle)) ∧
      (q.val < engineQueues e.val → base.val ≤ 112 → exec (.evarmWindow e q base) s = .next (takeTrap s s.illegal s.here.bundle)) ∧
      ∀ i ∈ [Instr.evarmRoute src line v, .evarmCount line x v], exec i s = .next (takeTrap s s.illegal s.here.bundle)) ∧
    (∃ t, runWork s (.pulse c src.val n.toNat) = .next t ∧ s.SameMem t ∧
      ∀ l, l < 128 → FMap.get 0 (t.col c).counts l =
        (if FMap.get false (s.col c).route (routeKey src.val l) = true then min 255 (FMap.get 0 (s.col c).counts l + n.toNat)
         else FMap.get 0 (s.col c).counts l) ∧
        FMap.get false (t.col c).sticky l = (FMap.get false (s.col c).sticky l ||
          (FMap.get false (s.col c).route (routeKey src.val l) && decide (255 < FMap.get 0 (s.col c).counts l + n.toNat)))) ∧
    (∃ t, runWork s (.evRoute c src.val line.val v) = .next t ∧
      FMap.get false (t.col c).route (routeKey src.val line.val) = v) ∧
    (∃ t, runWork s (.evCount c line.val x.toNat v) = .next t ∧ FMap.get 0 (t.col c).counts line.val = x.toNat ∧
      (v = true → FMap.get false (t.col c).sticky line.val = false))

/-- R141 to R143, R150 to R154: for every state outside shadow mode, with no other condition on it, the handle instructions and the signals
complete: HMOV, HMAKE (up to s60), HSET, HADV and HTAG in the core's next handle, HGET in s[d], SIGEV and EVARM in work on the agenda of the
core's group, a remote SIGEV where its colonnade belongs to the instance; and the waits RWFIL, RWFRE and WAITEV complete where their look-ahead
has found what they wait for. -/
def Obligations.HandlesSignalsAndWaitsComplete : Prop :=
  ∀ (s : State) (hd ha : HReg) (a d : SReg) (f : HField) (tag v : Bool) (n x : Byte) (col e q : Fin 16) (ridx : Fin 32) (src line base : Fin 128)
    (g : GReg) (m : BitVec 14) (mask : Word32), s.me.shadow = false →
    (∃ t, exec (.hmov hd ha) s = .next t ∧ t = s.wh hd (t.rh hd)) ∧
    (a.val ≤ 60 → ∃ t, exec (.hmake hd a) s = .next t ∧ t = s.wh hd (t.rh hd)) ∧
    (∃ t, exec (.hset hd a f) s = .next t ∧ t = s.wh hd (t.rh hd)) ∧
    (∃ t, exec (.hget ha d f) s = .next t ∧ t = s.ws d (t.rs d)) ∧
    (∃ t, exec (.hadv hd ha a tag) s = .next t ∧ t = s.wh hd (t.rh hd)) ∧
    (∃ t, exec (.htag hd ha a) s = .next t ∧ t = s.wh hd (t.rh hd)) ∧
    (n ≠ 0 → ∃ t, exec (.sigev n) s = .next t ∧ s.OnlyAgenda t) ∧
    (n ≠ 0 → (s.physical col.val).isSome = true → ∃ t, exec (.sigevRemote col ridx n) s = .next t ∧ s.OnlyAgenda t) ∧
    (∃ t, exec (.evarmRoute src line v) s = .next t ∧ s.OnlyAgenda t) ∧
    (q.val < engineQueues e.val → base.val ≤ 112 → ∃ t, exec (.evarmWindow e q base) s = .next t ∧ s.OnlyAgenda t) ∧
    (∃ t, exec (.evarmCount line x v) s = .next t ∧ s.OnlyAgenda t) ∧
    (s.Acting → exec (.rwfil g m) s = .next s ∧ exec (.rwfre g m) s = .next s ∧
      (mask ≠ 0 → (∀ l ∈ waitLines base mask, l ≤ 127) → ∃ t, exec (.waitev d base mask) s = .next t ∧ t = s.ws d (t.rs d)))

/-! ### The stream engine (04, 06) -/

/-- R144: outside shadow mode SLD reads its word at bank cycle c+2 and s[d] takes the sign-extended low w bits two cycles later;
SST's word is written at c+4 of its read-modify-write slot, and nothing but its eight bytes changes in memory, no tag with it. R144
with R110: in shadow mode SLD and SST go through the open port at once, and the next bundle waits until they complete; where a
read-modify-write slot that straddles the freeze point reserves the row, the access and the next bundle are held off. -/
def Obligations.ScratchpadAccessesLoadAndStore : Prop :=
  (∀ (s u : State) (r : RArgs) (d a b : SReg) (src : Src) (v : Word),
     let k := s.here.core
     let row (x : Word) : RowAt := rowAt k 0 (x.extractLsb' 8 12).toNat
     let word (x : Word) : Nat := (x.extractLsb' 3 5).toNat
     (s.me.shadow = false →
       (let x := s.rs r.a + s.rs r.b
        s.claimBanks [(row x, s.here.cycle + 2, false)] = (u, none) →
        Completes (.sld r) s (fun t => s.SameMachine t ∧
          t.HasWork k (s.here.cycle + 2) phRead k (.sld s.src (row x) (word x) r.sz.bits r.d.val))) ∧
       (let x := s.rs a + s.rs b
        s.claimBanks (rmwUses (row x) (s.here.cycle + 2)) = (u, none) →
        Completes (.sst d a b) s (fun t => s.SameMachine t ∧
          t.HasWork k (s.here.cycle + 4) phWrite rkRmw (.masked s.src (row x) 0 false (64 * word x) 64 (s.rs d).toNat)))) ∧
     (∀ (p : RowAt) (w n : Nat), w < 32 → ∃ t, runWork s (.sld src p w n d.val) = .next t ∧ s.SameMachine t ∧
       t.HasWork src.core ((s.groupOf src.core).sched + 2) phReg 0
         (.eff src.core (.setS d.val (sextW n (leNat (s.mem.readBytes (p.addr + 8 * w) 8)))))) ∧
     (∃ t, runWork s (.eff k (.setS d.val v)) = .next t ∧
       (s.me.cwrote = some ((s.groupOf k).sched, d.val) → t.me = s.me) ∧
       (s.me.cwrote ≠ some ((s.groupOf k).sched, d.val) →
         t.rs d = (if s.me.shadow then s.rs d else if d.val = 0 then 0 else v) ∧
         (d.val ≠ 0 → FMap.get 0 t.me.s d.val = v) ∧ t.me.sh = s.me.sh)) ∧
     (∀ (p : RowAt) (w : Nat), w < 32 → p.space ≤ 9 →
       ∃ t, runWork s (.masked src p 0 false (64 * w) 64 v.toNat) = .next t ∧ t.tags = s.tags ∧
         t.mem.readBytes (p.addr + 8 * w) 8 = leBytes 8 v.toNat ∧ s.SameMemBut t (p.addr + 8 * w) 8)) ∧
  (∀ (s : State) (r : RArgs) (d a b : SReg), s.me.shadow = true →
     let k := s.here.core
     (let x := s.rs r.a + s.rs r.b
      let p := rowAt k 0 (x.extractLsb' 8 12).toNat
      let v := leNat (s.mem.readBytes (p.addr + 8 * (x.extractLsb' 3 5).toNat) 8)
      (s.slotHeld p = false →
        Completes (.sld r) s (fun t => t.rs r.d = (if r.d.val = 0 then 0 else sextW r.sz.bits v) ∧ t.me.shadowAt = s.wall + 5 ∧
          s.OnlyMe t ∧ t.me.s = s.me.s)) ∧
      (s.slotHeld p = true → Completes (.sld r) s (fun t => s.OnlyMe t ∧ s.wall + 5 < t.me.shadowAt ∧
        { t.me with shadowAt := s.me.shadowAt } = s.me))) ∧
     (let x := s.rs a + s.rs b
      let p := rowAt k 0 (x.extractLsb' 8 12).toNat
      let at_ := p.addr + 8 * (x.extractLsb' 3 5).toNat
      (s.slotHeld p = false →
        Completes (.sst d a b) s (fun t => t.mem.readBytes at_ 8 = leBytes 8 (s.rs d).toNat ∧ s.SameMemBut t at_ 8 ∧ t.tags = s.tags ∧
          t.me.shadowAt = s.wall + 5 ∧ { t.me with shadowAt := s.me.shadowAt } = s.me)) ∧
      (s.slotHeld p = true → Completes (.sst d a b) s (fun t => s.OnlyMe t ∧ s.wall + 5 < t.me.shadowAt ∧
        { t.me with shadowAt := s.me.shadowAt } = s.me))))

/-- R169 to R179: loads, stores, copies, gathers and scatters. Where the checks of the handles pass, the rows of both ends exist,
the look-ahead is done, the plan of the groups stands, and its banks are free, the instruction puts each group's move on the agenda
at the cycle the plan gives it, and changes no register and no byte of memory at its issue. -/
def Obligations.MovesAreScheduledByTheirPlans : Prop :=
  ∀ (s u : State) (q : QueueId) (h : HReg) (n : Fin 2048) (bias : Word32) (steps : List Step),
    let hv := s.rh h
    let cv := s.me.hreg (h.val + 1)
    let Go (i : Instr) (a b : End) (m : Nat) (one : Bool) : Prop :=
      s.ActingOn (lookEnds a b) → s.plan a b m (s.here.cycle + 2) one = .ok steps → s.poisonOf a = none →
      s.claimBanks (planUses (a.alpha + b.beta) steps) = (u, none) →
      Completes i s (fun t => s.SameMachine t ∧ ∀ st ∈ steps,
        t.HasWork s.here.core st.time (match a with | .queue _ => phPop | _ => phRead) s.here.core
          (.move s.src (a.source st) (b.dest st) (a.alpha + b.beta)))
    handleUsable hv = true →
    (∀ e, n.val ≠ 0 → q.loadable = true ∨ q = .iq → spaceIn hv true true false = true → seqEnd hv n.val = some e →
      Go (.ldq q h n) e (.queue q) n.val false) ∧
    (∀ e, q.loadable = true ∨ q = .iq → spaceIn hv true true false = true → rowEnd hv n.val = some e →
      Go (.ldqs q h n) e (.queue q) 1 false) ∧
    (∀ e, n.val ≠ 0 → q.storable = true → spaceIn hv true true true = true → seqEnd hv n.val = some e →
      Go (.stq q h n) (.queue q) e n.val false) ∧
    (∀ e, q.storable = true → spaceIn hv true true true = true → rowEnd hv n.val = some e →
      Go (.stqs q h n) (.queue q) e 1 false) ∧
    (∀ a b, n.val ≠ 0 → h.val ≤ 30 → handleUsable cv = true → spaceIn cv true true false = true →
      spaceIn hv true true true = true → seqEnd cv n.val = some a → seqEnd hv n.val = some b → Go (.copy h n) a b n.val false) ∧
    (∀ e l, n.val ≠ 0 → q.loadable = true → spaceIn hv true true false = true → s.indices n.val = some l →
      idxEnd hv bias.toInt l = some e → Go (.gather q h n bias) e (.queue q) n.val true) ∧
    (∀ e l, n.val ≠ 0 → q.storable = true → spaceIn hv true true true = true → s.indices n.val = some l →
      idxEnd hv bias.toInt l = some e → Go (.scatter q h n bias) (.queue q) e n.val true)

/-- R106, R171 to R173: a move at its cycle. Rows whose tags match (an expected tag of 0 compares nothing) are read and handed on
after the delay; a first row that differs raises SCHED KIND 0 at the reading bundle. A pop of n rows takes the n oldest, and an
underrun raises SCHED KIND 4. -/
def Obligations.MovesReadTheirRows : Prop :=
  ∀ (s : State) (src : Src) (rs : List RowAt) (tag n delay : Nat) (dest : Dest) (q : QueueId),
    let k := src.core
    let now := (s.groupOf k).sched
    let ph := dest.phase k
    ((tag = 0 ∨ ∀ r ∈ rs, r.space ≤ 8 → s.rowTag r = tag) →
      ∃ t, runWork s (.move src (.rows rs tag) dest delay) = .next t ∧ s.SameMachine t ∧
        t.HasWork k (now + delay) ph.1 ph.2 (.put src dest (rs.map (fun r => s.mem.readBytes r.addr 256)))) ∧
    (∀ r l, rs = l ++ [r] → tag ≠ 0 → r.space ≤ 8 → s.rowTag r ≠ tag → (∀ x ∈ l, x.space ≤ 8 → s.rowTag x = tag) →
      runWork s (.move src (.rows rs tag) dest delay) = .next (lateTrap s src .sched (tagTval r tag (s.rowTag r)))) ∧
    (n ≤ ((s.core k).queue q).length →
      ∃ t, runWork s (.move src (.pop q n) dest delay) = .next t ∧ s.SameMem t ∧
        (t.core k).queue q = ((s.core k).queue q).drop n ∧
        t.HasWork k (now + delay) ph.1 ph.2 (.put src dest (((s.core k).queue q).take n))) ∧
    (((s.core k).queue q).length < n →
      runWork s (.move src (.pop q n) dest delay) =
        .next (lateTrap s src .sched (queueTval q true ((s.core k).queue q).length)))

/-- R105, R172, R188: rows that reach their destination. A queue takes them at its tail, or overruns (SCHED KIND 4) above its depth;
rows of a memory are written, each with its data and the tag, and no byte outside them changes; an im row waits in the patch buffer:
one already pending is replaced there, and a ninth distinct one performs the oldest. -/
def Obligations.RowsReachTheirDestination : Prop :=
  ∀ (s : State) (src : Src) (rows : List Row) (rs : List RowAt) (d : Row) (tag : Nat) (set : Bool) (q : QueueId) (n : Nat),
    let k := src.core
    (((s.core k).queue q).length + rows.length ≤ q.depth →
      ∃ t, runWork s (.put src (.queue q) rows) = .next t ∧ (t.core k).queue q = (s.core k).queue q ++ rows ∧ s.SameMem t) ∧
    (q.depth < ((s.core k).queue q).length + rows.length →
      runWork s (.put src (.queue q) rows) =
        .next (lateTrap s src .sched (queueTval q false ((s.core k).queue q).length))) ∧
    ((∀ x ∈ rows, x.length = 256) → rs.Pairwise (fun r r' => r.addr + 256 ≤ r'.addr ∨ r'.addr + 256 ≤ r.addr) →
      ∃ t, runWork s (.put src (.rows rs tag set) rows) = .next t ∧
        (∀ p ∈ rs.zip rows, t.mem.readBytes p.1.addr 256 = p.2 ∧ (set = true → p.1.space ≤ 8 → t.rowTag p.1 = tag % 256)) ∧
        (set = false → t.tags = s.tags) ∧
        ∀ x, (∀ r ∈ rs, x < r.addr ∨ r.addr + 256 ≤ x) → t.mem.read x = s.mem.read x) ∧
    (∃ t, runWork s (.put src (.patch [n]) [d]) = .next t ∧
      ((∀ p ∈ (s.core k).patch, p.1 ≠ n) → (s.core k).patch.length < 8 →
        (t.core k).patch = (s.core k).patch ++ [(n, d)] ∧ s.SameMem t) ∧
      ((∃ p ∈ (s.core k).patch, p.1 = n) →
        (t.core k).patch.length = (s.core k).patch.length ∧ (∃ p ∈ (t.core k).patch, p.1 = n) ∧
        (∀ p ∈ (t.core k).patch, p.1 = n → p.2 = d) ∧ (∀ p, p.1 ≠ n → (p ∈ (t.core k).patch ↔ p ∈ (s.core k).patch)) ∧ s.SameMem t) ∧
      (∀ o rest, (s.core k).patch = o :: rest → rest.length = 7 → (∀ p ∈ o :: rest, p.1 ≠ n) → o.2.length = 256 →
        (t.core k).patch = rest ++ [(n, d)] ∧ t.mem.readBytes (imAddr k o.1) 256 = o.2 ∧ s.SameMemBut t (imAddr k o.1) 256))

/-- R178: TCOPY, its checks passed and its look-ahead done, reads its descriptor row at c+2. R180: RMERGE reads rows 0 and 1 at c+2
and a row each cycle after. R183, R184: LPUT reads or pops its row at c+2, LTAP takes its two beats at c+3 and c+4. At issue no
register and no byte of memory changes. -/
def Obligations.CopiesMergesAndLanesAreScheduled : Prop :=
  ∀ (s u : State) (q : QueueId) (h h2 : HReg) (n off : Fin 2048) (desc : Fin 4096) (tag sh : Byte) (lane : Fin 16) (keep : Bool)
    (f : Ref) (r : RowAt) (fs : List Ref) (rs : List RowAt),
    let hv := s.rh h
    let sv := s.rh h2
    let k := s.here.core
    let c := s.here.cycle
    s.me.shadow = false → handleUsable hv = true →
    (s.ActingOn (lookTcopy sv hv (rowAt k 0 desc.val)) → handleUsable sv = true → spaceIn sv true true false = true → spaceIn hv true true true = true →
      s.claimBanks [(rowAt k 0 desc.val, c + 2, false)] = (u, none) →
      Completes (.tcopy h h2 desc) s (fun t => s.SameMachine t ∧ ∃ seen, (seen = [] ∨ seen = s.foreseenRow (rowAt k 0 desc.val)) ∧
        t.HasWork k (c + 2) phRead k (.tcopy s.src sv hv (rowAt k 0 desc.val) seen))) ∧
    (s.ActingOn (lookEnds (.rows hv fs) (.queue q)) → q.loadable = true ∨ q = .iq → n.val ≠ 0 → n.val ≤ 2046 → spaceIn hv true true false = true → seqRefs hv (n.val + 1) = some fs →
      s.placesAt hv (fs.zipIdx.map (fun p => (p.1, c + 2 + (p.2 - 1)))) = .ok rs → s.poisonCheck hv fs = none →
      s.claimBanks (rmergeUses c rs) = (u, none) →
      Completes (.rmerge q h n sh) s (fun t => s.SameMachine t ∧
        t.HasWork k (c + 2) phRead k (.rmerge s.src none rs (hget hv .tag) sh.toNat q (alphaOf (hget hv .space))))) ∧
    (spaceIn hv true false false = true → idxRef hv off.val = some f → s.resolve hv f (c + 2) = .ok r →
      s.claimBanks [(r, c + 2, false)] = (u, none) →
      Completes (.lput h off tag lane) s (fun t => s.SameMachine t ∧
        t.HasWork k (c + 2) phRead k (.move s.src (.rows [r] (hget hv .tag))
          (.lane lane.val (spaceStation k (hget hv .space)) tag.toNat) 1))) ∧
    (q.storable = true →
      Completes (.lputQ q tag lane) s (fun t => s.SameMachine t ∧
        t.HasWork k (c + 2) phPop k (.move s.src (.pop q 1) (.lane lane.val (stationOf k) tag.toNat) 1))) ∧
    (q.loadable = true ∨ q = .iq →
      Completes (.ltap q keep lane) s (fun t => s.SameMachine t ∧ ∃ b, ∀ half ∈ [0, 1],
        t.HasWork k (c + 3 + half) phRead k (.tap s.src lane.val (stationOf k) keep half (.queue q) b))) ∧
    (spaceIn hv true false false = true → idxRef hv off.val = some f → s.resolve hv f (c + 5) = .ok r →
      s.claimBanks [(r, c + 5, false)] = (u, none) →
      Completes (.ltapRow h off keep lane) s (fun t => s.SameMachine t ∧ ∃ b, ∀ half ∈ [0, 1],
        t.HasWork k (c + 3 + half) phRead k
          (.tap s.src lane.val (spaceStation k (hget hv .space)) keep half (.rows [r] 0 true) b)))

/-- R7, R183, R184: a beat put on a free place of a lane is found there by a tap at the station it has reached; a collision raises
SCHED KIND 1, an empty place SCHED KIND 2. A tap with KEEP = 0 takes its beat at its own cycle. The second half of a tap hands on both halves as one row a cycle later. -/
def Obligations.LanesCarryBeats : Prop :=
  ∀ (s : State) (src : Src) (lane station tag hops : Nat) (d : List Byte) (keep : Bool) (dest : Dest) (b : Nat) (x : Beat),
    let col := colOf src.core
    let now := (s.groupOf src.core).sched
    (lane < 16 → station < 16 → hops < 16 → (s.col col).beatAt lane station now = none →
      ∃ t, runWork s (.beat src lane station tag d) = .next t ∧ s.SameMachine t ∧
        (⟨lane, station, now, 0, tag, d⟩ : Beat) ∈ (t.col col).beats ∧
        (⟨lane, station, now, 0, tag, d⟩ : Beat).stationOf (now + hops) =
          some (if lane < 8 then (station + hops) % 16 else (station + 16 - hops) % 16)) ∧
    ((s.col col).beatAt lane station now ≠ none →
      runWork s (.beat src lane station tag d) = .next (lateTrap s src .sched (laneTval 1 lane station))) ∧
    ((s.col col).beatAt lane station now = none →
      runWork s (.tap src lane station keep 0 dest b) = .next (lateTrap s src .sched (laneTval 2 lane station))) ∧
    (∀ q, (s.col col).beatAt lane station now = some x →
      ∃ t, runWork s (.tap src lane station keep 1 (.queue q) b) = .next t ∧ s.SameMem t ∧
        t.HasWork src.core (now + 1) phPush src.core
          (.put src (.queue q) [(FMap.get [] (s.core src.core).buffers b).headD [] ++ x.data]) ∧
        (keep = false → ({ x with gone := now + 1 } : Beat) ∈ (t.col col).beats))

/-- R181, R182: a tile conversion whose checks pass, its look-ahead done and its plan and banks granted, is scheduled: scale rows one
a cycle from c+2 and element rows by groups, then the conversion; no register and no byte of memory changes at issue. -/
def Obligations.TileConversionsAreScheduled : Prop :=
  ∀ (s u : State) (hd hs : HReg) (tr : Bool) (el sc ds : List Ref) (steps : List Step) (scs dsts : List RowAt),
    let sv := s.rh hs
    let dv := s.rh hd
    let k := s.here.core
    let c := s.here.cycle
    handleUsable sv = true → spaceIn sv true true false = true → handleUsable dv = true →
    (let src : End := .rows sv el
     let p := match planeFmt (hget dv .fmt) with | some (p, _) => p | none => 0
     let t0 := if sc.isEmpty then c + 3 else c + 2 + sc.length
     let tl := steps.foldl (fun m st => max m st.time) t0
     let w0 := tl + src.alpha + 3 + betaOf (hget dv .space)
     s.ActingOn (lookEnds (.rows sv (sc ++ el)) (.queue .lq)) → spaceIn dv true false false = true → planesOk sv dv tr = true → seqRefs sv (hget sv .tileh) = some el →
     planesScaleRefs sv = some sc → s.plan src (.buffer 0) el.length t0 false = .ok steps →
     s.placesAt sv (sc.zipIdx.map (fun x => (x.1, c + 2 + x.2))) = .ok scs → seqRefs dv (p + 1) = some ds →
     s.placesAt dv (ds.zipIdx.map (fun x => (x.1, w0 + x.2))) = .ok dsts → s.poisonCheck sv sc = none → s.poisonCheck sv el = none →
     s.claimBanks (scs.zipIdx.map (fun x => (x.1, c + 2 + x.2, false)) ++ planUses 0 steps ++
       dsts.zipIdx.map (fun x => (x.1, w0 + x.2, false))) = (u, none) →
     Completes (.planes hd hs tr) s (fun t => s.SameMachine t ∧ ∃ b,
       t.HasWork k (tl + src.alpha + 3) phPush k (.planes s.src sv dv tr b (b + 1) dsts) ∧
       ∀ st ∈ steps, t.HasWork k st.time phRead k (.move s.src (src.source st) (.buffer b) src.alpha))) ∧
    (let src : End := .rows sv el
     let p := match planeFmt (hget sv .fmt) with | some (p, _) => p | none => 0
     let tl := steps.foldl (fun m st => max m st.time) (c + 2)
     let w0 := tl + src.alpha + 3 + betaOf (hget dv .space)
     s.ActingOn (lookEnds (.rows sv el) (.rows dv ds)) → spaceIn dv true true false = true → unplaneOk sv dv = true → seqRefs sv (p + 1) = some el → seqRefs dv 64 = some ds →
     s.plan src (.buffer 0) el.length (c + 2) false = .ok steps →
     s.placesAt dv (ds.zipIdx.map (fun x => (x.1, w0 + x.2))) = .ok dsts → s.poisonCheck sv el = none →
     s.claimBanks (planUses 0 steps ++ dsts.zipIdx.map (fun x => (x.1, w0 + x.2, false))) = (u, none) →
     Completes (.unplane hd hs) s (fun t => s.SameMachine t ∧ ∃ b,
       t.HasWork k (tl + src.alpha + 3) phPush k (.unplane s.src sv dv b dsts) ∧
       ∀ st ∈ steps, t.HasWork k st.time phRead k (.move s.src (src.source st) (.buffer b) src.alpha)))

/-- R186 to R189: the tile cache's instructions. TCPF starts the fills of the missing lines it names; TCWB and TCINV act on theirs
at c+2 (for im handles on the patch buffer's rows: TCWB one a cycle from c+3, TCINV at c+2); TCRESIZE's mask takes effect at
c+2, dropping the lines of the ways it changes; of several masks of one cycle the last noted, the highest core's, stands. -/
def Obligations.TileCacheInstructionsComplete : Prop :=
  ∀ (s : State) (h : HReg) (n : Fin 2048) (fs : List Ref) (mask : BitVec 16) (block : Fin 8) (m : Nat) (l : List (Nat × Nat × Nat)),
    let hv := s.rh h
    let k := s.here.core
    let col := colOf k
    let dv := hget hv .space = 10
    let im := hget hv .space = 9 ∧ ∀ f ∈ fs, f.row < 1024
    (s.me.shadow = false → n.val ≠ 0 → handleUsable hv = true → seqRefs hv n.val = some fs →
      (dv → Completes (.tcpf h n) s (fun t => t = (needsOf fs).foldl State.prefetchLine s)) ∧
      (dv → Completes (.tcwb h n) s (s.Schedules 2 phTag k (.tcLines 0 col ((needsOf fs).map (·.tag))))) ∧
      (dv → Completes (.tcinv h n) s (s.Schedules 2 phTag k (.tcLines 1 col ((needsOf fs).map (·.tag))))) ∧
      (im → Completes (.tcwb h n) s (fun t => s.OnlyAgenda t ∧
        ∀ p ∈ fs.zipIdx, t.HasWork k (s.here.cycle + 3 + p.2) phRead k (.eff k (.patchPerform [p.1.row])))) ∧
      (im → Completes (.tcinv h n) s (s.Schedules 2 phTag k (.eff k (.patchDiscard (fs.map (·.row))))))) ∧
    (s.me.shadow = false → (s.col col).useInWays block.val mask.toNat (s.here.cycle + 2) s.here.cycle = false →
      Completes (.tcresize mask block) s
        ((s.noteResize col (s.here.cycle + 2) block.val mask.toNat).Schedules 2 phEffect k (.ways col block.val mask.toNat))) ∧
    ((s.col col).resizes = l ++ [((s.groupOf k).sched, block.val, m)] →
      ∃ t, runWork s (.ways col block.val mask.toNat) = .next t ∧ FMap.get 0 (t.col col).ways block.val = m ∧ s.SameMem t ∧
        ∀ p ∈ (t.col col).lines, p ∈ (s.col col).lines ∧ (p.1 / 512 = block.val →
          bitOf (FMap.get 0 (s.col col).ways block.val) (p.1 / 32 % 16) = bitOf m (p.1 / 32 % 16))) ∧
    (∀ need v, (s.col col).findLine need.tid need.tx need.ty need.j = none →
      s.victim col (setOf need.tid need.tx need.ty need.j) s.here.cycle = some v →
      (∀ r ∈ need.rows, ∀ o ∈ [0, 128], ∃ a b c d, s.me.translate (r * 256 + o) = .ok a b c d) →
      ∃ l, FMap.get none ((s.prefetchLine need).col col).lines v = some l ∧ l.filling = true ∧ l.rows = need.rows ∧
        ∃ it ∈ (s.prefetchLine need).agenda, s.wall < it.time ∧
          it.work = .event ⟨.tileCacheFill, { core := k, col := col, index := v, value := s.wall + 1 }⟩)

/-- R190 to R195: ring instructions without a handle, and RINIT and RSTAT. RINIT at c+1 sets the counts to zero with the descriptor's
fields; RPUSH publishes and RPOP releases its entries at c+1; RPUSH reserves and RCLAIM claims at its look-ahead, once; RPUSH on a ring whose
earlier push is still copying raises RING_OVERRUN; RSTAT writes the ring's words at c+3, as the order of the cores leaves them. Counts run modulo 2^20. -/
def Obligations.RingInstructionsMoveTheirCounts : Prop :=
  ∀ (s u : State) (g : GReg) (h : HReg) (e thresh : Fin 8192) (n : Fin 512) (f : Ref) (p : RowAt) (start : Nat),
    let hv := s.rh h
    let k := s.here.core
    let col := colOf k
    let r := s.myRing g
    let q := s.ringFor k g
    (s.me.shadow = false → s.Acting → n.val ≠ 0 →
      (r.copying = false →
        Completes (.rpush g 0 n) s (s.Schedules 1 phPulse k (.ringTail col g.val s.askStart n.val false))) ∧
      (r.copying = true → exec (.rpush g 0 n) s = .next (takeTrap s (s.overrun g.val n.val) s.here.bundle)) ∧
      exec (.rclaim g 0 n) s = .next s ∧
      Completes (.rpop g 0 n) s (s.Schedules 1 phPulse k (.ringHead col g.val n.val))) ∧
    (n.val ≤ r.e → n.val ≤ r.filled →
      ∃ t, lookClaim g n.val false s = .ok r.claim t ∧ (t.myRing g).claim = (r.claim + n.val) % 2 ^ 20 ∧ (t.myRing g).tail = r.tail) ∧
    (n.val ≤ r.e → n.val ≤ r.room →
      ∃ t, lookPush g n.val s = .ok r.res t ∧ (t.myRing g).res = (r.res + n.val) % 2 ^ 20 ∧ (t.myRing g).tail = r.tail) ∧
    (r.done = [] → n.val ≠ 0 → r.tail = start → r.tail < 2 ^ 20 →
      ∃ t, runWork s (.ringTail col g.val start n.val false) = .next t ∧ (t.myRing g).tail = (r.tail + n.val) % 2 ^ 20 ∧ s.SameMem t) ∧
    (r.freed = [] → ∃ t, runWork s (.ringHead col g.val n.val) = .next t ∧ (t.myRing g).head = (r.head + n.val) % 2 ^ 20 ∧
      (t.myRing g).tail = r.tail ∧ s.SameMem t) ∧
    (s.me.shadow = false → h.val ≠ 0 → handleUsable hv = true → spaceIn hv true false false = true →
      e.val ∈ [1, 2, 4, 8, 16, 32, 64, 128, 256, 512, 1024, 2048, 4096] → thresh.val ≤ e.val →
      s.ringRowsOk (hget hv .space) (hget hv .base) e.val = true →
      Completes (.rinit g h e thresh) s (fun t => ∃ d, s.Schedules 1 phEffect k (.ringInit col g.val d) t ∧
        ∃ w, runWork s (.ringInit col g.val d) = .next w ∧ (w.myRing g).head = 0 ∧ (w.myRing g).claim = 0 ∧
          (w.myRing g).tail = 0 ∧ (w.myRing g).res = 0 ∧ (w.myRing g).e = e.val ∧ (w.myRing g).thresh = thresh.val ∧
          (w.myRing g).space = hget hv .space ∧ (w.myRing g).base = hget hv .base)) ∧
    (s.me.shadow = false → h.val ≠ 0 → handleUsable hv = true → spaceIn hv true false false = true → idxRef hv 0 = some f →
      s.resolve hv f (s.here.cycle + 3) = .ok p → s.claimBanks [(p, s.here.cycle + 3, false)] = (u, none) →
      Completes (.rstat g h) s (fun t => s.SameMachine t ∧
        t.HasWork k (s.here.cycle + 3) phWrite (rkStore k) (.put s.src (.rows [p] (hget hv .tag) true)
          [padTo 256 (leBytes 8 (q.head * 2 ^ 40 + q.claim * 2 ^ 20 + q.tail) ++ leBytes 8 q.descriptor ++ leBytes 8 q.res)])))

/-- R193, R194: ring instructions with a handle copy the rows of their entries as a move does, and publish or release them in the
cycle after the last row's. -/
def Obligations.RingCopiesAreScheduled : Prop :=
  ∀ (s u : State) (g : GReg) (h : HReg) (n : Fin 512) (e : End) (steps : List Step),
    let hv := s.rh h
    let k := s.here.core
    let ring := s.ringEnd g s.askStart n.val
    let Go (a b : End) (t : State) : Prop := s.SameMachine t ∧ ∀ st ∈ steps,
      t.HasWork k st.time phRead k (.move s.src (a.source st) (b.dest st) (a.alpha + b.beta))
    let Free (a b : End) : Prop :=
      s.plan a b n.val (s.here.cycle + 2) false = .ok steps ∧ s.poisonOf a = none ∧
      s.claimBanks (planUses (a.alpha + b.beta) steps) = (u, none)
    s.Acting → n.val ≠ 0 → h.val ≠ 0 → handleUsable hv = true → seqEnd hv n.val = some e →
    (spaceIn hv true true false = true → (s.myRing g).copying = false → Free e ring →
      Completes (.rpush g h n) s (fun t => Go e ring t ∧
        t.HasWork k (planEnd (e.alpha + ring.beta) steps s.here.cycle + 1) phPulse k
          (.ringTail (colOf k) g.val s.askStart n.val true))) ∧
    (spaceIn hv true true true = true → Free ring e →
      Completes (.rclaim g h n) s (Go ring e) ∧
      Completes (.rpop g h n) s (fun t => Go ring e t ∧
        t.HasWork k (planEnd 0 steps s.here.cycle + 1) phPulse k (.ringHead (colOf k) g.val n.val)))

/-- R198, R199: an atomic's read comes at bank cycle c+2 of its read-modify-write slot; two cycles on, the field takes the operation's
result and s[d] the sign-extended old field; ATRADD's stochastic sum is read in the same way. -/
def Obligations.AtomicsReadModifyAndWrite : Prop :=
  ∀ (s u : State) (x : AtArgs) (f : Ref) (r : RowAt) (rest : List RowAt),
    let hv := s.rh x.handle
    let k := s.here.core
    let c := s.here.cycle
    let w := x.sz.bits
    let a := (s.low x.a x.sz).toNat
    let b := (s.low x.b x.sz).toNat
    let At (i : AtArgs → Instr) (op : Nat) : Prop := Completes (i x) s (fun t => s.SameMachine t ∧
      t.HasWork k (c + 2) phRead k (.rmwRead s.src op r x.byte.val w x.d.val a b))
    (s.me.shadow = false → x.byte.val % (w / 8) = 0 → handleUsable hv = true → spaceIn hv true false false = true →
      idxRef hv x.off.val = some f → s.placesAt hv [(f, c + 2), (f, c + 3), (f, c + 4)] = .ok (r :: rest) →
      s.claimBanks (rmwUses r (c + 2)) = (u, none) →
      At .atcas 4 ∧ (x.b.val = 0 → At .atadd 0 ∧ At .atmin 1 ∧ At .atmax 2 ∧ At .atxch 3 ∧ At .ator 5 ∧
        (x.sz = .w32 → At .atradd 6))) ∧
    (∀ (src : Src) (op d : Nat), op < 6 →
      let v := fieldAt (s.readRow r) x.byte.val w
      let now := (s.groupOf src.core).sched
      ∃ t, runWork s (.rmwRead src op r x.byte.val w d a b) = .next t ∧ s.SameMachine t ∧
        t.HasWork src.core (now + 2) phWrite rkRmw (.masked src r 0 false (8 * x.byte.val) w
          (match op with
           | 0 => (v + a) % 2 ^ w
           | 1 => minS w v a
           | 2 => maxS w v a
           | 3 => a
           | 4 => if v = a then b else v
           | _ => (v ||| a) % 2 ^ w)) ∧
        t.HasWork src.core (now + 2) phReg 0 (.eff src.core (.setS d (sextW w v))))

/-- R200 to R204: BIND at c+1 makes the core's list of bound regions the one that its region gives; ACQ of a row reads it at c+2 and gives its
field to s[d]; ACQ of a device or peer object gives the field of the version that its freeze fetched; REL of a row writes s[d] into its field
no earlier than c+3 and after the core's last access to its regions; REL of a device or peer object is sent after that access; a
QFENCE notes the open cards of its queues and the core's RELs to rows on their way; SEQTAG writes its rows' tags by groups from c+2. -/
def Obligations.EntryConsistencyInstructionsComplete : Prop :=
  ∀ (s u : State) (h ho : HReg) (d : SReg) (sz : Sz) (i : Fin 8) (n : Fin 2048) (f : Ref) (r : RowAt) (e : End) (steps : List Step)
    (l : List Binding) (mask : Byte) (eng : Fin 16),
    let hv := s.rh h
    let o := s.rh ho
    let k := s.here.core
    let c := s.here.cycle
    let home := hget hv .space
    let regions := s.me.regionsOf home (hget hv .base)
    let w := sz.bits
    let byte := i.val * (w / 8)
    let rels := (s.me.rels.filter (fun r => r.tag ≤ 8)).map (·.gen)
    s.me.shadow = false → handleUsable hv = true →
    (handleUsable o = true → regionSpace hv = true → regionSpace o = true →
      bindings s.me.binds home (hget hv .base) (regionRows hv) (hget o .space) (hget o .base) = some l →
      Completes (.bind h ho) s (s.Schedules 1 phEffect 0
        (.eff k (.bind home (hget hv .base) (regionRows hv) (hget o .space) (hget o .base)))) ∧
      ∃ t, runWork s (.eff k (.bind home (hget hv .base) (regionRows hv) (hget o .space) (hget o .base))) = .next t ∧
        t.me.binds = l ∧ s.OnlyMe t) ∧
    (home ≤ 8 → idxRef hv 0 = some f → s.resolve hv f (c + 2) = .ok r → s.claimBanks [(r, c + 2, false)] = (u, none) →
      Completes (.acq h d sz i) s (fun t => s.SameMachine t ∧
        t.HasWork k (c + 2) phRead k (.acq s.src r (i.val * (w / 8)) w d.val (1 + alphaOf home) regions))) ∧
    (let at_ := max (c + 3) (s.me.lastTouch k regions + 1)
     home ≤ 8 → (∀ x ∈ regions, x.1 ≤ 8) → idxRef hv 0 = some f → s.resolve hv f at_ = .ok r →
     s.claimBanks [(r, at_, false)] = (u, none) →
     Completes (.rel h d sz i) s (fun t => s.SameMachine t ∧
       t.HasWork k at_ phWrite (rkStore k) (.masked s.src r 0 false (8 * (i.val * (w / 8))) w (s.low d sz).toNat))) ∧
    (s.Acting → 10 ≤ home → home ≤ 13 → byte + w / 8 ≤ 32 → (home = 10 → hget hv .base < 2 ^ 44) →
      Completes (.acq h d sz i) s (fun t => s.SameMachine t ∧ t.me.acqData = none ∧
        t.HasWork k (c + 4) phReg 0 (.eff k (.acqDone d.val
          (BitVec.ofNat 64 (match s.me.acqData with | some b => leAt b byte (w / 8) | none => 0)) regions)))) ∧
    (10 ≤ home → home ≤ 13 → byte + w / 8 ≤ 32 → (home = 10 → hget hv .base < 2 ^ 44 ∧ s.me.translate (hget hv .base * 256) ≠ .range) →
      Completes (.rel h d sz i) s (fun t => s.SameMachine t ∧ ∃ a : EvArgs, t.me.rels = s.me.rels ++ [a] ∧
        a.core = k ∧ a.tag = home ∧ a.addr = hget hv .base ∧ a.index = byte ∧ a.bytes = leBytes (w / 8) (s.low d sz).toNat ∧
        (if s.me.lastTouch k regions < c then ∃ it ∈ t.agenda, s.wall < it.time ∧ it.work = .event ⟨.untimedRel, a⟩
         else t.HasWork k (s.me.lastTouch k regions + 1) phReg 1 (.event ⟨.untimedRel, a⟩)))) ∧
    (mask ≠ 0 → engineQueues eng.val ≠ 0 → mask.toNat < 2 ^ engineQueues eng.val →
      Completes (.qfence false mask eng) s (fun t => s.OnlyMe t ∧ { t.me with fences := s.me.fences } = s.me ∧
        (⟨fenceKeys false mask.toNat eng.val, s.openCards k (fenceKeys false mask.toNat eng.val) ++ rels, s.me.lastWrite⟩ : Fence) ∈ t.me.fences)) ∧
    (Completes (.qfence true 0 0) s (fun t => s.OnlyMe t ∧ { t.me with fences := s.me.fences } = s.me ∧
        (⟨fenceKeys true 0 0, s.openCards k (fenceKeys true 0 0) ++ rels, s.me.lastWrite⟩ : Fence) ∈ t.me.fences)) ∧
    (n.val ≠ 0 → spaceIn hv true false false = true → seqEnd hv n.val = some e → s.plan e (.queue .lq) n.val (c + 2) false = .ok steps →
      s.claimBanks (planUses 0 steps) = (u, none) →
      Completes (.seqtag h n) s (fun t => s.SameMachine t ∧
        ∀ st ∈ steps, t.HasWork k st.time phTag k (.tagRows s.src st.src (hget hv .tag)))) ∧
    (∀ src tag, r.space ≤ 8 → ∃ t, runWork s (.tagRows src [r] tag) = .next t ∧ t.rowTag r = tag % 256 ∧ s.SameMem t)

/-! ### The matrix engine (07) -/

/-- R209, R210, R213, R216, R217, R219, R221, R224: the settings of the matrix engine. Where its fields are ones its encoding may
carry and no slot or feed it names is busy, each takes effect at c+1 (the masks at c+4; MMASK.TREE reads its image at c+2 and c+3),
and nothing else of the machine changes at issue. R209, R210, R213, R214: what the settings do when they take effect: MCFG replaces
a shadow word, MCFGI the low 12 bits of one, MSWAP exchanges the two copies, MSCALE sets the slot's exponent, MCLR clears its
accumulators and sticky bits, and MREL its ownership. -/
def Obligations.MatrixSettingsAreScheduledAndTakeEffect : Prop :=
  (∀ (s : State) (field level : Fin 8) (n : Fin 4096) (l plen : Word32) (a : ASlot) (e : BitVec 15) (d w : BitVec 16) (hk hr : Fin 64),
     let k := s.here.core
     let c := s.here.cycle
     let At (i : Instr) (delay : Nat) (f : Effect) : Prop := Completes i s (s.Schedules delay phEffect 0 (.eff k f))
     let idle := s.me.busyAt a.val c = false
     s.me.shadow = false →
     ((Instr.mcfg field l).wf = true → At (.mcfg field l) 1 (.mcfg field.val l.toNat)) ∧
     ((Instr.mcfgi level n).wf = true → At (.mcfgi level n) 1 (.mcfgi level.val n.val)) ∧
     At .mswap 1 .mswap ∧
     ((Instr.mconst l).wf = true → At (.mconst l) 1 (.mconst l.toNat)) ∧ At .mconstOff 1 (.mconst 0) ∧
     ((Instr.mcoop l).wf = true → At (.mcoop l) 1 (.mcoop l.toNat)) ∧ At .mcoopOff 1 (.mcoop 0) ∧
     ((Instr.mepi l).wf = true → At (.mepi l) 1 (.mepi l.toNat)) ∧
     At (.mmaskCausal d) 4 (.mmask { mode := 0, d := d.toInt }) ∧ At .mmaskNone 4 (.mmask { mode := 3 }) ∧
     ((Instr.mmaskWindow d w).wf = true → At (.mmaskWindow d w) 4 (.mmask { mode := 1, d := d.toInt, w := w.toNat })) ∧
     (idle → At (.mscale a e) 1 (.mscale a.val e.toInt)) ∧
     (s.me.feedEnd < c + 2 → At (.mheapReset hk hr) 1 (.mheapReset (hk.val + 1) (hr.val + 1))) ∧
     (idle → Completes (.mrel a) s (fun t => s.SameMachine t ∧ t.HasWork k (c + 1) phEffect 0 (.eff k (.mrel a.val)))) ∧
     (idle → Completes (.mclr a) s (fun t => s.SameMachine t ∧ t.HasWork k (c + 1) phEffect 0 (.eff k (.own a.val)) ∧
       t.HasWork k (c + 1) phWrite 1 (.eff k (.mclr a.val)))) ∧
     (∀ (h : HReg) (u : State) (f0 f1 : Ref) (r0 r1 : RowAt), let hv := s.rh h
       handleUsable hv = true → spaceIn hv true false false = true → idxRef hv 0 = some f0 → idxRef hv 1 = some f1 →
       s.placesAt hv [(f0, c + 2), (f1, c + 3)] = .ok [r0, r1] → s.claimBanks [(r0, c + 2, false), (r1, c + 3, false)] = (u, none) →
       Completes (.mmaskTree h plen) s (fun t => s.SameMachine t ∧
         t.HasWork k (c + 2) phRead k (.treeImage s.src r0 r1 (hget hv .tag) plen.toNat none)))) ∧
  (∀ (s : State) (k a n w : Nat) (e : Int),
     let W (f : Effect) (P : Core → Prop) : Prop := ∃ t, runWork s (.eff k f) = .next t ∧ P (t.core k) ∧ s.SameMem t
     let c := s.core k
     W (.mcfg n w) (fun d => FMap.get 0 d.cfgS n = w ∧ d.cfgA = c.cfgA ∧ ∀ j, j ≠ n → FMap.get 0 d.cfgS j = FMap.get 0 c.cfgS j) ∧
     (w < 4096 → W (.mcfgi n w) (fun d => FMap.get 0 d.cfgS n % 4096 = w ∧
       FMap.get 0 d.cfgS n / 4096 = FMap.get 0 c.cfgS n / 4096)) ∧
     W .mswap (fun d => d.cfgA = c.cfgS ∧ d.cfgS = c.cfgA) ∧
     W (.mscale a e) (fun d => FMap.get 0 d.accE a = e ∧ d.acc = c.acc) ∧
     W (.mclr a) (fun d => (∀ row col, d.accWord a row col = 0) ∧ FMap.get false d.accSat a = false ∧ FMap.get false d.accNx a = false ∧
       ∀ b, b ≠ a → FMap.get [] d.acc b = FMap.get [] c.acc b) ∧
     W (.own a) (fun d => d.isOwned a = true ∧ ∀ b, b ≠ a → d.isOwned b = c.isOwned b) ∧
     W (.mrel a) (fun d => d.isOwned a = false ∧ d.acc = c.acc ∧ ∀ b, b ≠ a → d.isOwned b = c.isOwned b) ∧
     W (.mepi n) (fun d => d.epi = n) ∧ W (.mconst n) (fun d => d.mconst = n) ∧ W (.mcoop n) (fun d => d.mcoop = n))

/-- R211, R215, R220, R224: MGO and MDRAIN whose operands and slots pass their checks, and the heap drains, are scheduled at c+2; nothing of the registers or
memory changes at issue. -/
def Obligations.MatrixRunsAreScheduled : Prop :=
  ∀ (s : State) (clr : Bool) (a : ASlot) (h : HReg) (q0 nq : Fin 4),
    let k := s.here.core
    let c := s.here.cycle
    let r : MgoRun := { words := (List.range 7).map (FMap.get 0 s.me.cfgA), clr := clr, const := s.me.mconst, coop := s.me.mcoop,
                        lasts := [], seen := [], pass := 0, total := 0 }
    let first := 16 * q0.val
    let n := 16 * (nq.val + 1)
    s.me.shadow = false →
    (s.me.mgoEnd ≤ c + 3 → r.bad = false → (r.latchPlan false s.me.laPlanes).2 = false → (r.latchPlan true s.me.lbPlanes).2 = false →
      (∀ p ∈ r.reach, (clr = true ∨ s.me.isOwned p.1 = true) ∧ s.me.drainBusyAt p.1 c = false) →
      Completes (.mgo clr) s (fun t => s.SameMachine t ∧
        t.HasWork k (c + 2) phPop k (.mgo s.src { r with lasts := r.reach.map (fun p => (p.1, p.2.2)), total := r.passes }) ∧
        ∀ p ∈ r.reach, t.me.mgoBusyAt p.1 (c + 3 + (p.2.2 + 1) * r.len + 5) = true)) ∧
    (q0.val + nq.val + 1 ≤ 4 → handleUsable (s.rh h) = true →
      (∀ i, i < n → first + i < s.me.markAt a.val (c + 2 + i)) →
      Completes (.mdrain a h q0 nq) s (fun t => s.SameMachine t ∧ t.me.drainBusyAt a.val (c + 1 + n) = true ∧
        t.HasWork k (c + 2) phRead k (.drain s.src
          { slot := a.val, tx := hget (s.rh h) .tx, ty := hget (s.rh h) .ty, first := first, count := n, epi := s.me.epi,
            mask := s.me.mask, carry := [], flags := 0 } 0))) ∧
    (s.me.feedEnd < c + 2 →
      Completes .mheapDrain s (s.Schedules 2 phRead k (.heapDrain s.src false)) ∧
      Completes .mheapDrainr s (s.Schedules 2 phRead k (.heapDrain s.src true)))

/-- R88, R211: the write-back of rows 16q to 16q+15 of a pass. With a slot exponent and tile exponents of zero, each accumulator
takes its old value (0 when the pass clears) plus the sum of the products of its lines, held to 64 bits; rows of the other quarters and the other slots stay. -/
def Obligations.WriteBackAccumulatesProducts : Prop :=
  ∀ (c : Core) (slot q : Nat) (clr : Bool) (ta tb : Tile) (pa pb : Nat) (sa sb : Bool) (m n : Nat),
    q < 4 → m < 64 → n < 64 → FMap.get 0 c.accE slot = 0 → (∀ i, i < 64 → ta.exp pa i = 0 ∧ tb.exp pb i = 0) →
    let d := c.writeBack slot q clr ta tb pa pb sa sb
    let old : Int := if clr then 0 else (c.accWord slot m n).toInt
    let sum := old + dot (ta.line pa sa m) (tb.line pb sb n)
    (m / 16 = q → -(2 ^ 63) ≤ sum → sum < 2 ^ 63 → (d.accWord slot m n).toInt = sum) ∧
    (m / 16 = q → 2 ^ 63 ≤ sum → (d.accWord slot m n).toInt = 2 ^ 63 - 1 ∧ FMap.get false d.accSat slot = true) ∧
    (m / 16 ≠ q → d.accWord slot m n = c.accWord slot m n) ∧
    (∀ b, b ≠ slot → FMap.get [] d.acc b = FMap.get [] c.acc b) ∧ d.owned = c.owned ∧ d.s = c.s ∧ d.v = c.v

/-! ### The vector engine (08) -/

/-- R230 to R234: every vector instruction (VADD to VMOV, VIMM, VMULH, the moves, reductions and scans, VPOP, VPUSH, VRDACC, VWRACC, VSFN, VCOEF) whose fields its encoding may carry, whose registers
lie in the core's allotment, whose backlog is at most 32 cycles, and which passes the accumulator check of R257, enters the pipeline: it starts at the later of c+1 and the cycle after the one before it finishes, its quarters (or its
one whole-register piece) on the agenda from there; no register and no byte of memory changes at issue. -/
def Obligations.VectorInstructionsEnterThePipeline : Prop :=
  ∀ (s : State) (i : Instr), (vectorArgs i).isSome = true →
    let k := s.here.core
    let start := max (s.here.cycle + 1) (s.me.vfin + 1)
    i.wf = true → s.allotment s.here.slot i 1 (fun _ => 0) = none → start ≤ s.here.cycle + 33 → s.vecCheck i = none →
    Completes i s (fun t => s.SameMachine t ∧ t.me.vfin = vecFinish i start ∧
      (∀ x ∈ vecWrites i, (⟨true, x, vecLast i start⟩ : PendingWrite) ∈ t.me.pending) ∧
      ∀ q ∈ (if (vecClass i).1 then [3] else List.range (vecQuarters i)), ∃ ph,
        t.HasWork k (start + q) ph k (.vec s.src { op := i, sched := s.here.cycle, start := start } q))

/-- R237 to R246 on 32-bit integer elements: the quarter of an elementwise instruction at its cycle writes lanes 256q to 256q+255 of
vd, D cycles on, each with the operation's result on the lanes of va and vb (and the old vd), wrapped to 32 bits. -/
def Obligations.VectorIntegerResults : Prop :=
  ∀ (s : State) (src : Src) (vd va vb : VReg) (c start q l : Nat) (lit : Word32), q < 4 → l < 256 →
    let k := src.core
    let x := (s.core k).lane va.val (256 * q + l)
    let y := (s.core k).lane vb.val (256 * q + l)
    let z := (s.core k).lane vd.val (256 * q + l)
    let v : VArgs := ⟨vd, va, vb, .i32, 0⟩
    let G (i : Instr) (d : Nat) (r : Word32) : Prop :=
      ∃ t lanes, runWork s (.vec src { op := i, sched := c, start := start } q) = .next t ∧ s.SameMachine t ∧
        t.HasWork k (start + q + d) phWrite 0 (.eff k (.vlanes vd.val (256 * q) lanes)) ∧ lanes.length = 256 ∧ lanes[l]? = some r
    G (.vadd v) 1 (x + y) ∧ G (.vsub v) 1 (x - y) ∧ G (.vmul v) 2 (x * y) ∧ G (.vmac v) 2 (z + x * y) ∧
    G (.vmulh v) 2 (BitVec.ofInt 32 (x.toInt * y.toInt / 2 ^ 32)) ∧
    G (.vmin v) 1 (if x.slt y then x else y) ∧ G (.vmax v) 1 (if x.slt y then y else x) ∧
    G (.vabs v) 1 x.abs ∧ G (.vneg v) 1 (-x) ∧
    G (.vand v) 1 (x &&& y) ∧ G (.vor v) 1 (x ||| y) ∧ G (.vxor v) 1 (x ^^^ y) ∧ G (.vnot v) 1 (~~~x) ∧
    G (.vshl v) 1 (x <<< y.toNat) ∧ G (.vshr v) 1 (x >>> y.toNat) ∧ G (.vsar v) 1 (x.sshiftRight y.toNat) ∧
    G (.vmov v) 1 x ∧ G (.viota v) 1 (BitVec.ofNat 32 (256 * q + l)) ∧ G (.vimm v lit) 1 lit

/-- R251 to R253: moves within a register, lane by lane: rotations of rows (to the right, or with mode 2 to the left, by vb, 0 standing
for 32) and of columns, broadcasts, the transposition of 16 by 16 blocks, and row shuffles by the low six bits of vb's lane. -/
def Obligations.VectorMovesPermuteLanes : Prop :=
  ∀ (c : Core) (draw : Nat → Nat → Nat) (n : Nat) (vd va vb : VReg) (ty : VType) (l : Nat), l < 1024 →
    let row := l / 64
    let col := l % 64
    let all := List.range 1024
    let by_ := if vb.val = 0 then 32 else vb.val
    let G (i : Instr) (at_ : Nat) : Prop :=
      ∃ lanes, (vecOut c draw n i all).lanes = [(vd.val, 0, lanes)] ∧ lanes[l]? = some (c.lane va.val at_)
    G (.vrotr ⟨vd, va, vb, ty, 0⟩) (64 * row + (col + 64 - by_) % 64) ∧
    G (.vrotr ⟨vd, va, vb, ty, 2⟩) (64 * row + (col + by_) % 64) ∧
    G (.vrotc ⟨vd, va, vb, ty, 0⟩) ((row + 16 - vb.val % 16) % 16 * 64 + col) ∧
    G (.vbcr ⟨vd, va, vb, ty, 0⟩) (64 * row + vb.val) ∧ G (.vbcr ⟨vd, va, vb, ty, 1⟩) (64 * row + 32 + vb.val) ∧
    G (.vbcc ⟨vd, va, vb, ty, 0⟩) (64 * (vb.val % 16) + col) ∧
    G (.vtrn ⟨vd, va, vb, ty, 0⟩) (64 * (col % 16) + 16 * (col / 16) + row) ∧
    G (.vshfr ⟨vd, va, vb, ty, 0⟩) (64 * row + (c.lane vb.val l).toNat % 64)

/-- R233, R255: a vector write reaches its lanes and no other, and VPOP's rows come off the head of its queue into the next cycle's write, four a quarter. -/
def Obligations.VectorWritesReachTheirLanes : Prop :=
  ∀ (s : State) (k reg first : Nat) (lanes : List Word32) (src : Src) (v : VArgs) (c start q : Nat),
    (∃ t, runWork s (.eff k (.vlanes reg first lanes)) = .next t ∧ s.SameMem t ∧
      (∀ l, first ≤ l → l < first + lanes.length → lanes[l - first]? = some ((t.core k).lane reg l)) ∧
      (∀ l, l < first ∨ first + lanes.length ≤ l → (t.core k).lane reg l = (s.core k).lane reg l) ∧
      (∀ r l, r ≠ reg → (t.core k).lane r l = (s.core k).lane r l) ∧ { t.core k with v := (s.core k).v } = s.core k) ∧
    (let qu : QueueId := match v.va.val with | 0 => .vq0 | 1 => .vq1 | 2 => .vq2 | _ => .vq3
     let n := min 4 (v.vb.val + 1 - 4 * q)
     0 < n → n ≤ ((s.core src.core).queue qu).length →
     ∃ t, runWork s (.vec src { op := .vpop v, sched := c, start := start } q) = .next t ∧ s.SameMem t ∧
       (t.core src.core).queue qu = ((s.core src.core).queue qu).drop n ∧
       t.HasWork src.core (start + q + 1) phWrite 0
         (.eff src.core (.vlanes v.vd.val (256 * q) ((((s.core src.core).queue qu).take n).flatMap rowWords))))

/-! ### The memory command engine (09) -/

/-- R264, R268, R270 to R275, R280: a memory command outside shadow mode, on a channel of its colonnade, that the checks of R270 let
pass, is on its way: it stands among the commands its channel has yet to send, and is sent at its send edge, the first edge at or
after c+4; DACT, DRD and DWR are translated at c+2 first. No register and no byte of memory changes at issue. A breach raises
MEM_TIMING, and a channel the colonnade lacks UNREACHABLE, at the bundle. Where an earlier command's translation or a reserved slot is
still open, the table of c+2 is one that a DTLB has yet to read, or the command's own translation is pending, only rule 0x01 is judged at
issue, the others at the send edge (the model's reading, log entry 10). -/
def Obligations.MemoryCommandsAreOnTheirWay : Prop :=
  ∀ (s u : State) (ch bank : Fin 16) (a : SReg) (off : BitVec 10) (r : RowRef) (half : Bool) (tag mr v : Byte) (mask : BitVec 16),
    let k := s.here.core
    let c := s.here.cycle
    let send := edgeAt (c + 4)
    let new (op : Nat) : MemCmd := { op := op, ch := ch.val, send := send, edge := edgeIndex send, src := s.src }
    let chan (t : State) : Chan := (t.col (colOf k)).chan ch.val
    let Fit (m : MemCmd) : Prop :=
      (chan s).foreseen m = none ∧ ((chan s).settled m = true → s.overRefresh (colOf k) ch.val m.op c send = false)
    let full (m : MemCmd) : MemCmd := { m with lit := m.literal }
    let Sent (m : MemCmd) (t : State) : Prop := s.SameMachine t ∧ (chan t).pend = (chan s).pend ++ [full m] ∧
      t.HasWork k send phRead 0 (.mcSend (full m))
    let Go (i : Instr) (m : MemCmd) : Prop :=
      (Fit m → Completes i s (Sent m)) ∧
      (∀ n, (chan s).foreseen m = some n →
        exec i s = .next (takeTrap s (s.trapHere .memTiming (timingTval n m.op ch.val) 9) s.here.bundle))
    let row : RowAt := rowAt k r.space.val r.row.val
    let x := cmdAddr (s.rs a) off
    let tr := (s.tableAt k (c + 2)).map (fun l => ({ locked := l } : Core).translate x)
    let addr (op : Nat) : MemCmd :=
      { (match tr with | some p => (new op).place p | none => { new op with state := 1 }) with x := x, value := (s.rs a).toNat }
    let Moved (m : MemCmd) (t : State) : Prop := Sent m t ∧ t.HasWork k (c + 2) phRead 0 (.mcTranslate (full m))
    let rw (op : Nat) : MemCmd := { addr op with row := row, half := half.toNat, tag := tag.toNat }
    let free (cycle : Nat) : Prop := s.rowOk k row cycle = true ∧ s.claimBanks [(row, cycle, false)] = (u, none)
    (s.me.shadow = false → ch.val < Config.channelsOf (colOf k) →
      Go (.dpre ch bank) { new 4 with bank := bank.val } ∧ Go (.dprea ch) (new 5) ∧ Go (.dref ch) (new 6) ∧
      Go (.drefb ch bank) { new 7 with bank := bank.val } ∧
      (0x20 ≤ mr.toNat → mr.toNat ≤ 0x3F → Go (.dmrw ch mr v) { new 8 with half := mr.toNat, value := v.toNat }) ∧
      Go (.dzqStart ch) (new 0xA) ∧ Go (.dzqLatch ch) (new 0x1A) ∧ Go (.dsrefEnter ch) (new 0xB) ∧ Go (.dsrefExit ch) (new 0x1B) ∧
      (mask ≠ 0 → Go (.dpfs ch mask) { new 0xE with value := mask.toNat }) ∧
      (free (send + 96) → Go (.dmrr ch mr r tag) { new 9 with row := row, half := mr.toNat, tag := tag.toNat }) ∧
      (tr ≠ some .range →
        (Fit (addr 1) → Completes (.dact ch a off) s (Moved (addr 1))) ∧
        (Fit (rw 2) → free (send + 96) → Completes (.drd ch a off r half tag) s (Moved (rw 2))) ∧
        (Fit (rw 3) → free (c + 2) → Completes (.dwr ch a off r half tag) s (Moved (rw 3)))) ∧
      (tr = some .range → ∀ i ∈ [Instr.dact ch a off, .drd ch a off r half tag, .dwr ch a off r half tag],
        exec i s = .next (takeTrap s (s.trapHere .translationRange x 9) s.here.bundle))) ∧
    (s.me.shadow = false → Config.channelsOf (colOf k) ≤ ch.val →
      ∀ i ∈ [Instr.dact ch a off, .drd ch a off r half tag, .dwr ch a off r half tag, .dpre ch bank, .dprea ch, .dref ch, .drefb ch bank,
        .dmrr ch mr r tag, .dzqStart ch, .dzqLatch ch, .dsrefEnter ch, .dsrefExit ch],
        exec i s = .next (takeTrap s s.unreachable s.here.bundle))

/-- R264: CK edges are the cycles t with t mod 11 in 0, 3, 6, 9, numbered in order; the send edge of a command that arrives at t is
the first at or after t. R270: when the checks let a command pass. No other command of the channel may have its edge, the banks must
be in the state the command needs, and every minimum of the table that it is measured by must have passed since the send edges kept.
-/
def Obligations.CommandsKeepTheirNumberedEdges : Prop :=
  (∀ (t : Nat), (isEdge t = true ↔ t % 11 = 0 ∨ t % 11 = 3 ∨ t % 11 = 6 ∨ t % 11 = 9) ∧
     t ≤ edgeAt t ∧ isEdge (edgeAt t) = true ∧ (∀ x, t ≤ x → x < edgeAt t → isEdge x = false) ∧
     (isEdge t = true → edgeIndex t = 4 * (t / 11) + (t % 11) / 3 ∧ edgeCycle (edgeIndex t) = t) ∧
     isEdge (edgeCycle t) = true ∧ edgeIndex (edgeCycle t) = t ∧ edgeCycle t < edgeCycle (t + 1)) ∧
  (∀ (c : Chan) (m : MemCmd), m.state ≠ 2 →
     let b := c.bank m.bank
     let Gap (last : Option Nat) (n : Nat) : Prop := ∀ e, last = some e → e + n ≤ m.edge
     let Common : Prop := c.lastSend ≠ some m.edge ∧ c.selfRefresh = false ∧ Gap c.xsrAt 232 ∧ Gap c.refAllAt 224
     let Idle : Prop := ∀ n, n < 16 → (c.bank n).row = none
     let Column : Prop := b.row = some m.drow ∧ m.xch = m.ch ∧ Gap b.actAt 15 ∧ Gap c.rdAt 3 ∧ Gap c.wrAt 3
     let Act : Prop := b.row = none ∧ Gap b.preAt 15 ∧ Gap c.acts.head? 4 ∧ (c.acts.filter (fun a => m.edge < a + 16)).length < 4
     let Shut (b : Bank) : Prop := b.row.isSome = true → Gap b.actAt 34 ∧ Gap b.wrAt 45 ∧ Gap b.rdAt 6
     (m.op = 1 → (c.breach m = none ↔ Common ∧ Act ∧ m.xch = m.ch ∧ Gap b.refAt 112)) ∧
     (m.op = 7 → (c.breach m = none ↔ Common ∧ Act)) ∧
     (m.op = 2 → (c.breach m = none ↔ Common ∧ Column ∧ Gap c.wrAt 25)) ∧
     (m.op = 3 → (c.breach m = none ↔ Common ∧ Column ∧ Gap c.rdAt 19)) ∧
     (m.op = 4 → (c.breach m = none ↔ Common ∧ Shut b)) ∧
     (m.op = 5 → (c.breach m = none ↔ Common ∧ ∀ n, n < 16 → Shut (c.bank n))) ∧
     (m.op = 6 → (c.breach m = none ↔ Common ∧ Idle ∧ Gap c.preAt 15)) ∧
     (m.op = 8 → (c.breach m = none ↔ Common ∧ Idle ∧ Gap c.mrAt 8)) ∧
     (m.op = 0x1A → (c.breach m = none ↔ Common ∧ c.zqAt ≠ none ∧ Gap c.zqAt 800)) ∧
     (m.op = 0xB → (c.breach m = none ↔ Common ∧ Idle)) ∧
     (m.op = 0x1B → (c.breach m = none ↔ c.lastSend ≠ some m.edge ∧ c.selfRefresh = true ∧ Gap c.xsrAt 232 ∧ Gap c.refAllAt 224)) ∧
     (m.op = 0xE → (c.breach m = none ↔ c.lastSend ≠ some m.edge)))

/-- R269 to R275: what a command that passes its checks leaves at its send edge. DACT opens its row, DPRE and DPREA close their
banks, DREFB and DREF are noted; a DRD's 128 bytes land at t_s + 96, a DWR's are written at the 17th edge on; self refresh
begins and ends, a DMRW keeps the value, and a DPFS offers its slot to untimed traffic. -/
def Obligations.SentCommandsMoveTheirBanks : Prop :=
  ∀ (s : State) (m : MemCmd),
    let col := colOf m.src.core
    let old := (s.col col).chan m.ch
    let now (t : State) : Chan := (t.col col).chan m.ch
    let at_ := unitAddr col m.ch m.bank m.drow m.column
    let Does (P : State → Prop) : Prop := ∃ t, runWork s (.mcSend m) = .next t ∧ s.SameMem t ∧ P t
    s.findCmd col m = some m → m.state = 0 → (∀ p ∈ s.pending col, p.state ≠ 2) → old.breach m = none →
    (s.dropCmd col m).overRefresh col m.ch m.op ((s.groupOf m.src.core).debtAt - 1) m.send = false →
    (m.op = 1 → Does (fun t => ((now t).bank m.bank).row = some m.drow ∧ ((now t).bank m.bank).actAt = some m.edge ∧
      ∀ b, b ≠ m.bank → (now t).bank b = old.bank b)) ∧
    (m.op = 2 → s.errs = [] → Does (fun t => (now t).rdAt = some m.edge ∧ ((now t).bank m.bank).row = (old.bank m.bank).row ∧
      t.HasWork m.src.core (m.send + 96) phWrite rkDrd (.event ⟨.drdLanding,
        { core := m.src.core, col := col, ch := m.ch, index := m.row.space, addr := m.row.row, tag := m.tag, flag := m.tag ≠ 0,
          count := m.half, bytes := s.mem.readBytes at_ 128 }⟩))) ∧
    (m.op = 3 → Does (fun t => (now t).wrAt = some m.edge ∧ ((now t).bank m.bank).row = (old.bank m.bank).row ∧
      t.HasWork m.src.core (edgeCycle (m.edge + 17)) phWrite 0 (.dramWrite at_ m.data))) ∧
    (m.op = 4 → Does (fun t => ((now t).bank m.bank).row = none ∧ ∀ b, b ≠ m.bank → (now t).bank b = old.bank b)) ∧
    (m.op = 5 → Does (fun t => ∀ b, b < 16 → ((now t).bank b).row = none)) ∧
    (m.op = 6 → Does (fun t => (now t).refAllAt = some m.edge)) ∧
    (m.op = 7 → Does (fun t => ((now t).bank m.bank).refAt = some m.edge ∧ ((now t).bank m.bank).row = none)) ∧
    (m.op = 8 → Does (fun t => (now t).mrAt = some m.edge ∧ FMap.get 0 (now t).mr m.half = BitVec.ofNat 8 m.value)) ∧
    (m.op = 9 → Does (fun t => (now t).mrAt = some m.edge ∧ ∃ e : EvArgs, e.core = m.src.core ∧ e.index = m.row.space ∧
      e.addr = m.row.row ∧ e.count = m.half ∧ t.HasWork m.src.core (m.send + 96) phWrite rkDrd (.event ⟨.dmrrLanding, e⟩))) ∧
    (m.op = 0xA → Does (fun t => (now t).zqAt = some m.edge)) ∧ (m.op = 0x1A → Does (fun t => (now t).zqAt = none)) ∧
    (m.op = 0xB → Does (fun t => (now t).selfRefresh = true)) ∧
    (m.op = 0x1B → Does (fun t => (now t).selfRefresh = false ∧ (now t).debt = 0 ∧ (now t).xsrAt = some m.edge)) ∧
    (m.op = 0xE → old.selfRefresh = false →
      Does (fun t => (s.wall + 1, m.ch, m.src.core, m.value) ∈ (t.col col).slots ∧ (now t).lastSend = some m.edge)) ∧
    (∀ a d, ∃ t, runWork s (.dramWrite a d) = .next t ∧ t.mem.readBytes a d.length = d ∧ s.SameMemBut t a d.length)

/-- R276, R277: DTLB reads its rows one a cycle from c+2, and the entries of a row take effect in the next cycle if all are well
formed; else ILLEGAL, and none does. DTLBQ takes its entry at c+2 and writes its row at c+4. -/
def Obligations.TableLoadsTakeEffect : Prop :=
  ∀ (s u : State) (ch : Fin 16) (first index : Fin 1024) (count : Fin 64) (row : Fin 4096) (r : RowRef) (tag : Byte) (src : Src)
    (n j : Nat) (e : BitVec 128),
    let k := s.here.core
    let c := s.here.cycle
    let rows := (count.val + 1 + 15) / 16
    let p : RowAt := rowAt k r.space.val r.row.val
    let now := (s.groupOf src.core).sched
    let entry (i : Nat) : BitVec 128 := BitVec.ofNat 128 (leNat (s.mem.readBytes (spAddr src.core row.val + 16 * i) 16))
    let m := min 16 (n - 16 * j)
    (s.me.shadow = false → ch.val < Config.channelsOf (colOf k) →
      (first.val + count.val + 1 ≤ 1024 → row.val + rows ≤ 4096 →
        s.claimBanks ((List.range rows).map (fun j => (rowAt k 0 (row.val + j), c + 2 + j, false))) = (u, none) →
        Completes (.dtlb ch first count row) s (fun t => s.SameMachine t ∧ ∀ j, j < rows →
          t.HasWork k (c + 2 + j) phRead 0 (.dtlbRow s.src first.val (count.val + 1) j (row.val + j)))) ∧
      (s.rowOk k p (c + 4) = true → s.claimBanks [(p, c + 4, false)] = (u, none) →
        Completes (.dtlbq ch index r tag) s (fun t => s.SameMachine t ∧
          t.HasWork k (c + 2) phRead 0 (.dtlbqRead s.src index.val p tag.toNat)))) ∧
    ((∀ i, i < m → entryWf (Config.channelsOf (colOf src.core)) (entry i) = true) →
      ∃ t, runWork s (.dtlbRow src first.val n j row.val) = .next t ∧ s.SameMachine t ∧ ∀ i, i < m →
        t.HasWork src.core (now + 1) phEffect 0 (.eff src.core (.lock (first.val + 16 * j + i) (entry i)))) ∧
    ((∃ i, i < m ∧ entryWf (Config.channelsOf (colOf src.core)) (entry i) = false) →
      runWork s (.dtlbRow src first.val n j row.val) = .next (lateTrap s src .illegal (wordTval src.addr src.word))) ∧
    (∃ t, runWork s (.dtlbqRead src index.val p tag.toNat) = .next t ∧ s.SameMachine t ∧
      t.HasWork src.core (now + 2) phWrite (rkStore src.core) (.put src (.rows [p] tag.toNat (tag.toNat ≠ 0))
        [padTo 256 (leBytes 16 (FMap.get 0 (s.core src.core).locked index.val).toNat)])) ∧
    (∃ t, runWork s (.eff k (.lock index.val e)) = .next t ∧ s.OnlyMe t ∧ { t.me with locked := s.me.locked } = s.me ∧
      FMap.get 0 t.me.locked index.val = e ∧ ∀ i, i ≠ index.val → FMap.get 0 t.me.locked i = FMap.get 0 s.me.locked i)

/-- R271, R274, R293: a DRD's landing writes its 128 bytes into its half of the row, and its tag where it has one; with an
uncorrectable burst it writes nothing and raises MACHINE_CHECK. A DMRR's landing writes the whole row. -/
def Obligations.LandingsWriteTheirRows : Prop :=
  ∀ (s : State),
    let e := s.ev
    let r := rowAt e.core e.index e.addr
    let Tag (t : State) : Prop := if e.flag = true ∧ e.index ≤ 8 then t.rowTag r = e.tag % 256 else t.tags = s.tags
    let wide := e.bytes ++ List.replicate (256 - e.bytes.length) 0
    (e.opt = none → e.bytes.length = 128 → Completes .drdLanding s (fun t =>
      t.mem.readBytes (r.addr + 128 * e.count) 128 = e.bytes ∧ s.SameMemBut t (r.addr + 128 * e.count) 128 ∧ Tag t ∧
      ∀ k, t.core k = s.core k)) ∧
    (∀ x, e.opt = some x → exec .drdLanding s =
      .next (takeTrap s { core := e.core, cause := .machineCheck, tval := x, slot := 7, rank := 10 } ((s.core e.core).pc % 65536))) ∧
    (e.bytes.length ≤ 256 → Completes .dmrrLanding s (fun t =>
      t.mem.readBytes r.addr 256 = wide ∧ s.SameMemBut t r.addr 256 ∧ Tag t ∧ ∀ k, t.core k = s.core k))

/-- R269, R284 to R288: the debt of a timetabled channel rises by one and at 129 MEM_TIMING 0x20 is due; a poll gap makes 0x22 due; the
engine's own refreshes are counted and change no bank; its own poll reports a band that exceeds the class; a report asks for the
pre-emption of the instance's groups, and of several the hottest stands. -/
def Obligations.RefreshAndTemperatureAreKept : Prop :=
  ∀ (s : State),
    let e := s.ev
    let c := (s.col e.col).chan e.ch
    let now (t : State) : Chan := (t.col e.col).chan e.ch
    let b := bandOfBytes (leBytes 2 (Config.freeWord s.ctr).toNat)
    let Due (v : Nat) : Option Nat := some (match (s.col e.col).due with | some w => min w v | none => v)
    Completes .refreshDebt s (fun t => now t = { c with debt := c.debt + 1 } ∧ s.SameMachine t ∧
      (t.col e.col).due = (if c.debt = 128 then Due (0x20 * 2 ^ 40 + e.ch) else (s.col e.col).due)) ∧
    Completes .pollGap s (fun t => (t.col e.col).due = Due (0x22 * 2 ^ 40 + e.ch) ∧ now t = c ∧ s.SameMachine t) ∧
    Completes .frozenRefresh s (fun t => now t = { c with own := c.own + 1 } ∧ s.SameMachine t) ∧
    Completes .untimetabledRefresh s (fun t => now t = (if c.timetabled then c else { c with own := c.own + 1 }) ∧ s.SameMachine t) ∧
    ((c.mr.find? (fun p => p.1 = 4)) = none →
      Completes .frozenPoll s (fun t => s.SameMachine t ∧
        (exceeds (s.refreshClass e.col) b = true → (now t).coolFrom = none ∧ ∃ it ∈ t.agenda, it.time = s.wall + 24 ∧
          it.work = .event ⟨.temperatureReport, { col := e.col, ch := e.ch, value := b }⟩) ∧
        (exceeds (s.refreshClass e.col) b = false → b ≠ 0 → (now t).coolFrom = none ∧ t.agenda = s.agenda) ∧
        (b = 0 → (now t).coolFrom ≠ none))) ∧
    (∀ n, (s.col e.col).inst = some n → Completes .temperatureReport s (fun t => s.SameMachine t ∧
      (let h := (s.inst n).heat
       (t.inst n).heat = (if h = 2 ∨ 2 ≤ e.value then 2 else if h = 1 ∨ e.value = 1 then 1 else 3)) ∧
      ∀ g ∈ (s.inst n).groups, (t.group g).preempt = true)) ∧
    ((s.col e.col).inst = none → exec .temperatureReport s = .next s)

/-- R186, R278, R291, R293: the front end brings in an absent page, while the group does not run: the table holds the entry and the bytes are
written through it; a page it cannot supply raises TRANSLATION_ABSENT for the command that met it. A tile-cache line is filled whole from the
rows it holds, where no timed access or running group keeps the fill waiting; while one of them is absent the fill is tried again. -/
def Obligations.AbsentPagesAndFillsComplete : Prop :=
  ∀ (s : State) (l : TcLine) (data : List Row),
    let e := s.ev
    let k := e.core
    let get (i : Nat) : Option Row := s.readDv k ((l.rows[i]?.getD 0) * 256) 256
    (e.flag = false → (s.groupOf k).phase = .run → exec .translationAbsent s = .next s) ∧
    (e.flag = true → Completes .translationAbsent s (fun t => s.SameMachine t ∧ t.cores = s.cores)) ∧
    (∀ n, e.flag = false → (s.groupOf k).phase ≠ .run → e.entry = some n →
      let s' := s.modCore k (fun c => { c with locked := FMap.set 0 c.locked e.index n })
      Completes .translationAbsent s (fun t => FMap.get 0 (t.core k).locked e.index = n ∧
        (∀ i, i ≠ e.index → FMap.get 0 (t.core k).locked i = FMap.get 0 (s.core k).locked i) ∧
        t.mem = (e.rows.foldl (fun s p => s.writeDv k p.1 p.2) s').mem)) ∧
    (∀ m, e.flag = false → (s.groupOf k).phase ≠ .run → e.entry = none → (s.pending (colOf k)).find? (fun m => m.src.core = k && m.state = 2) = some m →
      exec .translationAbsent s = .next (takeTrap s
        { core := k, cause := .translationAbsent, tval := m.x, slot := m.src.slot, rank := 10 } m.src.bundle)) ∧
    (e.flag = false → e.col < Config.nCols → e.index < 4096 → (s.col e.col).backs = [] →
      FMap.get none (s.col e.col).lines e.index = some l → l.filling = true → s.errs = [] →
      (s.Quiet → e.lines = [] → e.run = none → data.length = l.rows.length → l.rows.length ≤ 16 → (∀ i, i < data.length → get i = data[i]?) →
        Completes .tileCacheFill s (fun t =>
          FMap.get none (t.col e.col).lines e.index = some { l with filling := false, dirty := false, poison := [] } ∧
          (∀ k, t.core k = s.core k) ∧
          (∀ i, i < data.length → some (t.mem.readBytes (lineRow e.col e.index i) 256) = data[i]?) ∧
          s.SameMemBut t (lineRow e.col e.index 0) (256 * data.length))) ∧
      ((∃ i, i < l.rows.length ∧ l.rows[i]?.getD 0 < dvRows ∧ get i = none) →
        Completes .tileCacheFill s (fun t => s.SameMachine t ∧ ∃ it ∈ t.agenda, it.time = s.wall + 11 ∧
          it.work = .event ⟨.tileCacheFill, e⟩)))

/-! ### Job cards (01, 02, 10 to 15) -/

/-- R28, R61, R297, R406, R413: an external slot of an untimed engine, its look-ahead done, puts its job card on its way with s[a] as
it stands: to the decode attention engine in 4 cycles, to any other in 16. No register and no byte of memory changes. In shadow
mode every card but the front end's raises ILLEGAL; decode attention in colonnade D, an engine on which the partition holds no queue, and a
link port 0, UNREACHABLE. -/
def Obligations.JobCardsAreSent : Prop :=
  ∀ (s : State) (c : Card) (sl : Fin 16) (x : Bool) (n : Fin 2) (port nc : Fin 4) (g : GReg) (dd : DemoteTo) (dp : PromoteTo),
    let k := s.here.core
    let col := colOf k
    let Sent (e : Engine) (delay : Nat) (i : Instr) (key : Word) : Prop :=
      let q := queueFor k e c.queue
      let f := s.me.fencesOn (creditKey q)
      let card : JobCard := {
        serial := s.ctr, op := i, operand := s.rs c.a, col := col, logical := (s.col col).logical, core := k,
        inst := (s.col col).inst.getD 0, wait := maskBits c.wait, signal := maskBits c.signal, fence := f.1, fenceWrites := f.2,
        key := key }
      (s.noQueue e = false → Completes i s (fun t => s.SameMachine t ∧ (t.queue q).transit = (s.queue q).transit ++ [card] ∧
        (t.queue q).cards = (s.queue q).cards ∧ (t.queue q).running = (s.queue q).running ∧
        ∃ it ∈ t.agenda, it.time = s.wall + delay ∧ it.work = .arrive q s.ctr)) ∧
      (s.noQueue e = true → exec i s = .next (takeTrap s s.unreachable s.here.bundle))
    let decode : List Instr := [.qbind c sl, .qstep c sl, .qmask c sl, .qmerge c sl, .qstate c sl, .qchain c sl]
    let stackOps : List Instr := [.knew c, .knewSeq c, .kput c, .ktree c, .kcommit c, .ksquash c, .ksquashSeq c, .kfork c, .kpin c,
      .kslide c, .kdemote c dd, .kpromote c dp, .kfeat c x, .kfeatRd c x, .kfroll c, .kquery c, .kqueryHeads c, .kreq c]
    let samp : List Instr := [.gseedSeq n c, .gseedObj n c, .gsoft n c, .gsoftTopk n c, .gcdf n c, .gpick n c, .gpickTopk n c,
      .gaccept n c, .gacceptGreedy n c, .gresid n c, .gnext n c, .gparamAssume n c, .gparamClear n c, .gpub n c, .gstat n c,
      .gstatClr n c]
    let time : List Instr := [.wtime c, .wtimePort c, .wtick c, .wtickOff c, .wflow c, .wflowOff c, .wbind c, .wbindOff c, .wlate c,
      .wdead c, .wdeadOff c, .wstat c, .wstatClr c]
    let link : List Instr := [.nsend port c, .nred port c, .nredArrival port c, .nbar port c, .nmode port c, .nstat port c,
      .nstatClr port c]
    let recv : Instr := .nrecv port c nc g
    let front : List Instr := [.ftrig c, .fckpt c, .flend c, .frecl c, .fpost c]
    let Trap (i : Instr) (t : Trap) : Prop := exec i s = .next (takeTrap s t s.here.bundle)
    let linkE := linkEngine port.val
    (s.Acting → s.me.shadow = false →
      (col ≠ 12 → ∀ i ∈ decode, Sent .decode 4 i 0) ∧ (∀ i ∈ stackOps, Sent .stacks 16 i 0) ∧
      (∀ i ∈ samp, Sent (if n.val = 0 then .samp0 else .samp1) 16 i 0) ∧ (∀ i ∈ time, Sent .time 16 i 0) ∧
      (port.val ≠ 0 → (∀ i ∈ link, Sent linkE 16 i 0) ∧
        (4 ^ nc.val ≤ ((s.col col).ring g.val).e → (∀ d ∈ (s.queue (queueFor k linkE c.queue)).transit, d.serial ≠ s.ctr) →
          Sent linkE 16 recv (BitVec.ofNat 64 s.askStart)))) ∧
    (s.Acting → ∀ i ∈ front, Sent .front 16 i 0) ∧
    (s.me.shadow = true → (∀ i ∈ decode ++ stackOps ++ samp ++ time, Trap i s.illegal) ∧
      (port.val ≠ 0 → ∀ i ∈ recv :: link, Trap i s.illegal)) ∧
    (s.me.shadow = false → col = 12 → ∀ i ∈ decode, Trap i s.unreachable) ∧
    (port.val = 0 → ∀ i ∈ recv :: link, Trap i s.unreachable)

/-- R28, R30, R34, R153, R462: a card's way to its start. The look-ahead takes a credit or waits for one; on arrival the card's masks become lines of
the queue's window; JOB_CARD_START starts the head card of a queue that runs none, once every line it waits for has a count,
of which it takes one each, and its completion is due later; a decode attention engine whose group is frozen for a pre-emption starts none. -/
def Obligations.CardsArriveAndStart : Prop :=
  ∀ (s : State) (q : QueueRef) (c : JobCard) (r : List JobCard) (n col : Nat),
    let u := s.queue q
    let mine := colOf s.here.core
    let key := creditKey q
    let used := FMap.get 0 (s.col mine).credits key
    let b := FMap.get 0 (s.col c.col).windows key
    let count (t : State) (l : Nat) : Nat := FMap.get 0 (t.col col).counts l
    let due (t : State) : Prop := ∃ it ∈ t.agenda, s.wall < it.time ∧
      it.work = .event ⟨completionOp q.engine, { q := q, opt := some c.serial }⟩
    (used < creditLimit q → ∃ t, lookCredit q s = .ok 0 t ∧ FMap.get 0 (t.col mine).credits key = used + 1 ∧ s.SameMachine t) ∧
    (creditLimit q ≤ used → lookCredit q s = .wait s) ∧
    (u.transit.find? (fun d => d.serial = n) = some c →
      ∃ t, runWork s (.arrive q n) = .next t ∧ s.SameMachine t ∧
        (t.queue q).cards = u.cards ++ [{ c with wait := c.wait.map (b + ·), signal := c.signal.map (b + ·) }] ∧
        (t.queue q).running = u.running ∧ ∀ d, d ∈ (t.queue q).transit ↔ d ∈ u.transit ∧ d.serial ≠ n) ∧
    (s.ev.q = q → s.ev.opt = some c.serial → u.running = none → u.cards = c :: r → s.leaving_ q = false →
      (c.claimed ≠ 0 → Completes .jobCardStart s (fun t => s.SameMachine t ∧ due t ∧ (t.queue q).cards = r ∧
        (t.queue q).running = some { s.startData q.engine c with started := s.wall })) ∧
      (c.claimed = 0 → s.fenceDone c = true → s.placeOf c.inst c.logical = some col →
        ((∀ l ∈ c.wait, count s l ≠ 0) → c.wait.Nodup → q.engine = .decode ∨ q.engine = .stacks ∨ q.engine = .front →
          Completes .jobCardStart s (fun t => s.SameMachine t ∧ due t ∧ (t.queue q).cards = r ∧
            (t.queue q).running = some { c with claimed := s.wall + 1, started := s.wall } ∧
            ∀ l, count t l = count s l - (if l ∈ c.wait then 1 else 0))) ∧
        ((∃ l ∈ c.wait, count s l = 0) → exec .jobCardStart s = .next s)))

/-- R299, R300, R310, R314, R334, R338, R340, R341, R345: the decode attention engine and the Stacks. A card's completion frees its
queue, makes its step whole, and signals, where no timed access or running group keeps it waiting and its lower bound of time has passed; a
failing card records its code. Landings put the
copy in place, one from or to peer memory where its port is UP and paired (log entry 126); a fault report is kept with its node. -/
def Obligations.DecodeAndStacksCardsComplete : Prop :=
  ∀ (s : State) (c : JobCard) (k : Card) (sl : Fin 16) (col : Nat) (p : RowAt) (y : PageCopy) (rest : List Nat),
    let q := s.ev.q
    let o := c.operand.toNat
    let d := s.slot c.col sl.val
    let n := c.seq
    let r := s.seq n
    let held := (s.part (s.inst c.inst).part).seqs.contains n
    let free (t : State) : Prop := (t.queue q).running = none
    let signalled (t : State) (c : JobCard) : Prop := ∃ it ∈ t.agenda, s.wall < it.time ∧ it.time ≤ s.wall + 24 ∧ it.work = .signal c
    (s.runningCard = some c → (s.inst c.inst).status = none → s.placeOf c.inst c.logical = some col →
      (s.Quiet → s.ev.flag = false → (s.beginWork c.workKey c.claimed).attnDue c ≤ s.wall → c.dropSignal = false → c.signal.Nodup →
        let Ends (P : DaSlot → Prop) : Prop := Completes .decodeAttentionCardCompletion s (fun t =>
          free t ∧ s.SameMem t ∧ P (t.slot c.col sl.val) ∧
          ∀ l, FMap.get 0 (t.col col).counts l =
            (if l ∈ c.signal then min 255 (FMap.get 0 (s.col col).counts l + 1) else FMap.get 0 (s.col col).counts l))
        (c.op = .qmask k sl → d.bound = true → o / 2 ^ 48 % 2 ^ 12 = 0 → o / 2 ^ 13 % 2 ^ 11 = 0 → o / 2 ^ 60 ≤ 8 →
          s.rowArea c.core (o / 2 ^ 60 * 2 ^ 60 + o % 2 ^ 13) 2 = some (.row p) →
          Ends (fun w => w = { d with plen := o / 2 ^ 24 % 2 ^ 24, image := s.mem.readBytes p.addr 512 })) ∧
        (c.op ∈ [.qstep k sl, .qmask k sl, .qmerge k sl, .qstate k sl, .qchain k sl] → d.bound = false →
          Ends (fun w => w = { d with status := if d.status % 256 = 0 then d.status + 2 else d.status })) ∧
        (c.op = .qbind k sl → 8 < o / 2 ^ 60 → Ends (fun w => w = { status := 1 }))) ∧
      (s.Quiet → s.copyOf c.serial = none →
        let Ends (P : State → Prop) : Prop := Completes .stacksStep s (fun t => free t ∧ signalled t c ∧ P t)
        (c.op = .kpin k → held = true → r.isOpen = true →
          (bitsOf o 47 0 = 0 → Ends (fun t => s.SameMem t ∧ t.seqs = FMap.set {} s.seqs n { r with pin := bitsOf o 55 48 })) ∧
          (bitsOf o 47 0 ≠ 0 → Ends (fun t => s.SameMem t ∧ t.seqs = FMap.set {} s.seqs n { r with err := 1, errop := 0x1E }))) ∧
        (c.op = .kpin k → held = false ∨ r.isOpen = false → Ends (fun t => s.SameMem t ∧
          t.seqs = (if held then FMap.set {} s.seqs n { r with err := 2, errop := 0x1E } else s.seqs))) ∧
        (c.op = .knew k → held = true → r.isOpen = true → bitsOf o 47 0 = 0 → bitsOf o 55 48 = 0xFF → r.live = [] →
          r.len + 64 ≤ 2 ^ 24 → Ends (fun t => s.SameMem t ∧ (t.seq n).live = [r.gcnt % 4] ∧
            (t.seq n).gcnt = (r.gcnt + 1) % 2 ^ 32 ∧
            (t.seq n).genRec (r.gcnt % 4) = { base := 0xFF, clen := r.len, cfc := r.fc })) ∧
        (c.op = .kquery k → held = true → r.isOpen = true → bitsOf o 55 48 = 0 → bitsOf o 43 13 = 0 →
          s.cardRows c (bitsOf o 12 0) 1 = some (.row p) → Ends (fun t => t.mem.readBytes p.addr 256 = r.record ∧
            s.SameMemBut t p.addr 256 ∧ t.seqs = FMap.set {} s.seqs n { r with err := 0 })))) ∧
    (s.Quiet → s.ev.lines = [] → s.ev.run = none → s.copyOf s.ev.index = some y →
      (∀ p ∈ (y.page :: y.dests).filterMap pagePort, s.portReady p (s.seq y.seq).part = true) →
      (s.seq y.seq).opened = y.opened → (s.seq y.seq).forked = true → s.chain y.seq y.chain = y.page :: rest →
      let home := (s.seq y.seq).home y.chain
      let new := y.dests.headD noPage
      (s.loadPage home y.page).slots.all (fun w => slotState w = 0) = false →
      s.pageGranted (s.seq y.seq).part new = true → s.pageGranted (s.seq y.seq).part y.page = true →
      s.pageErr home y.page 0 65536 false = none → s.pageErr home new 0 65536 true = none →
      Completes .copyLanding s (fun t => t.chainHead y.seq y.chain = new ∧ (∀ z ∈ t.copies, z.id ≠ y.id) ∧ signalled t y.card)) ∧
    (∀ ds u, let home := (s.seq y.seq).home y.chain
      s.Quiet → s.ev.lines = [] → s.ev.run = none → s.copyOf s.ev.index = some y → (s.seq y.seq).opened = y.opened → (s.seq y.seq).isOpen = true →
      (∀ p ∈ s.chain y.seq y.chain, tierOf p ≠ 2 ∧ s.pageErr home p 0 65536 false = none) →
      (s.beginWork y.card.workKey (s.wall + 1)).fitPages y (s.chain y.seq y.chain).length = some (ds, u) →
      (∀ p ∈ ds, u.pageErr home p 0 65536 true = none) →
      Completes .requantisationLanding s (fun t => (t.seq y.seq).fmtOf y.chain = y.newFmt.getD 0 ∧ (∀ z ∈ t.copies, z.id ≠ y.id) ∧
        signalled t y.card)) ∧
    (let e := s.ev
     let v := s.seq e.seq
     s.Quiet → e.lines = [] → e.run = none → v.isOpen = true → e.chain < v.nchain → e.gen ∈ v.live → (s.nodeSlot e.seq e.chain e.gen e.node).isSome = true →
     (∀ f ∈ v.faults, ¬ (f.gen = e.gen ∧ f.node = e.node)) →
     Completes .faultReport s (fun t => (⟨e.gen, e.node, e.value, e.chain⟩ : NodeFault) ∈ (t.seq e.seq).faults))

/-- R346, R355, R367, R372, R410: a sampling card makes its step, or records its code, is counted, and signals within 24 cycles; an
engine's report makes SPEC_FAULT or LINK due in the core that issued the card, and ends the instance when that core has halted. -/
def Obligations.SamplingCardsAndReportsComplete : Prop :=
  ∀ (s : State) (c : JobCard) (n : Fin 2) (k : Card) (col : Nat),
    let q := s.ev.q
    let o := c.operand.toNat
    let part := (s.inst c.inst).part
    let old := s.sampOf c
    let Ends (code : Nat) (P : State → Prop) : Prop := Completes .samplingCardCompletion s (fun t =>
      (t.queue q).running = none ∧ (∃ it ∈ t.agenda, s.wall < it.time ∧ it.time ≤ s.wall + 24 ∧ it.work = .signal c) ∧
      FMap.get 0 (t.sampOf c).completed q.queue = (FMap.get 0 old.completed q.queue + 1) % 2 ^ 32 ∧
      FMap.get 0 (t.sampOf c).codes q.queue = (if code = 0 then FMap.get 0 old.codes q.queue else code) ∧ s.SameMem t ∧ P t)
    let seed := BitVec.ofNat 64 (leNat (c.arg.take 8))
    let good : Prop := bitsOf o 55 48 = 0 ∧ bitsOf o 43 13 = 0 ∧ c.arg ≠ [] ∧ ∀ i, 8 ≤ i → i < 256 → (c.arg[i]?.getD 0) = 0
    let e := s.ev
    let core := col * 8 + e.core % 8
    let Reports (i : Instr) (cause : Cause) : Prop :=
      (s.inst e.inst).status = none → s.placeOf e.inst e.col = some col →
      ((s.core core).mode ≠ .halted → Completes i s (fun t => s.OnlyCores t ∧ (∀ j, j ≠ core → t.core j = s.core j) ∧
        t.core core = { s.core core with dueTraps := (s.core core).dueTraps ++ [⟨cause, e.value, (s.groupOf core).sched, s.wall, e.lines⟩] })) ∧
      ((s.core core).mode = .halted → Completes i s (fun t => (t.inst e.inst).status = some 2 ∧ (t.inst e.inst).cause = cause.code + 0xF00 ∧
        (t.inst e.inst).tval = e.value ∧ s.SameMem t))
    (s.runningCard = some c → c.run = none → (s.inst c.inst).status = none → s.placeOf c.inst c.logical = some col →
      (c.op = .gseedObj n k → good → c.seq = 0 → Ends 0 (fun t => (t.part part).objSeed = seed ∧ (t.part part).seeds = (s.part part).seeds)) ∧
      (c.op = .gseedSeq n k → good → c.seq ∈ (s.part part).seqs → Ends 0 (fun t => FMap.get 0 (t.part part).seeds c.seq = seed ∧
        (t.part part).objSeed = (s.part part).objSeed ∧
        ∀ m, m ≠ c.seq → FMap.get 0 (t.part part).seeds m = FMap.get 0 (s.part part).seeds m)) ∧
      (c.op = .gseedSeq n k → c.seq ∉ (s.part part).seqs → Ends 2 (fun t => t.part part = s.part part)) ∧
      (c.op = .gparamClear n k → bitsOf o 63 44 = 0 → bitsOf o 39 0 = 0 → (s.physOf c.inst (bitsOf o 43 40)).isSome = true →
        Ends 0 (fun t => t.assumptions = s.assumptions.filter (fun a => !(a.inst = c.inst && a.col = bitsOf o 43 40))))) ∧
    Reports .specFault .specFault ∧ Reports .link .link

/-- R376, R379 to R382, R389, R392, R394 to R397, R449: the time and ingest engine. Cards arm and disarm; a tick's pulse comes 60 cycles on in every colonnade of
its partition; a decision closes its interval; a missed deadline is counted and pending in the group's cores; frames are counted and handed on;
the servo and TIME_STEP move device time. -/
def Obligations.TimeAndIngestEventsComplete : Prop :=
  ∀ (s : State) (c : JobCard) (k : Card) (col : Nat),
    let q := s.ev.q
    let e := s.ev
    let n := c.index
    let part := (s.inst c.inst).part
    let key := part * 4 + q.queue
    let old := FMap.get 0 s.timeQueues key
    let Ends (code : Nat) (P : State → Prop) : Prop := Completes .timeIngestCardCompletion s (fun t =>
      (t.queue q).running = none ∧ (∃ it ∈ t.agenda, s.wall < it.time ∧ it.time ≤ s.wall + 24 ∧ it.work = .signal c) ∧
      FMap.get 0 t.timeQueues key = (old % 2 ^ 32 + 1) % 2 ^ 32 + (if code = 0 then old / 2 ^ 32 else code) * 2 ^ 32 ∧
      s.SameMem t ∧ P t)
    let st := s.stream e.index
    let i := (dnDiff e.addr st.first / (st.period : Int)).toNat
    let w := s.watch e.index
    let ep := s.ethPort e.port
    let frame := parseFrame e.bytes
    let now := s.dtSec * 10 ^ 9 + s.dtNs
    (s.runningCard = some c → c.run = none → (s.inst c.inst).status = none → s.placeOf c.inst c.logical = some col →
      (c.op = .wtickOff k → c.namesOnly true false false = true → n < 16 →
        (n ∈ (s.part part).ticks → s.tickBound n = false → Ends 0 (fun t => t.tick n = {} ∧ ∀ m, m ≠ n → t.tick m = s.tick m)) ∧
        (n ∉ (s.part part).ticks → Ends 2 (fun t => t.ticks = s.ticks)) ∧
        (n ∈ (s.part part).ticks → s.tickBound n = true → Ends 3 (fun t => t.ticks = s.ticks))) ∧
      (c.op = .wdeadOff k → c.namesOnly true false false = true → n < 32 → n ∈ (s.part part).watches →
        Ends 0 (fun t => t.watch n = { s.watch n with armed := false, isOpen := false })) ∧
      (c.op = .wflowOff k → c.namesOnly true false false = true → n ∈ (s.part part).rules →
        Ends 0 (fun t => FMap.get {} t.rules n = { (FMap.get {} s.rules n : Rule) with installed := false, row := [] }))) ∧
    (∀ p, s.tickPart e.index = some p → Completes .tick s (fun t => s.SameMem t ∧ ∀ x ∈ s.colsOf p,
      ∃ it ∈ t.agenda, it.time = s.wall + 60 ∧ it.work = .pulse x (72 + e.index) 1)) ∧
    (st.bound = true → st.period ≠ 0 → 0 ≤ dnDiff e.addr st.first → st.next ≤ i → Completes .decision s (fun t =>
      (t.stream e.index).next = i + 1 ∧ (t.stream e.index).intervals = (st.intervals + 1) % 2 ^ 64 ∧
      (t.stream e.index).lastDecision = e.addr)) ∧
    (w.isOpen = true → Completes .watchDeadline s (fun t => s.SameMem t ∧ (t.watch e.index).isOpen = false ∧
      (t.watch e.index).missed = (w.missed + 1) % 2 ^ 64 ∧ (t.watch e.index).lastMissed = w.deadline ∧
      ∀ g, s.instGroup w.inst w.col = some g → (s.inst w.inst).placed = true →
        ∀ j ∈ (s.group g).coreList, (s.core j).mode ≠ .halted → (t.core j).ipend.getLsbD 1 = true)) ∧
    (frame.tooLong = true → exec .frame s = .next s) ∧
    (e.flag = true → frame.tooLong = false → Completes .frame s (fun t => s.SameMachine t ∧
      t.ethPort e.port = { ep with frames := (ep.frames + 1) % 2 ^ 64, badFcs := (ep.badFcs + 1) % 2 ^ 64 })) ∧
    (e.flag = false → frame.tooLong = false → ep.ptp = false → ep.part.isSome = true → s.firstRule e.port frame = none → Completes .frame s (fun t => s.SameMachine t ∧
      t.ethPort e.port = { ep with
        frames := (ep.frames + 1) % 2 ^ 64, toFront := (ep.toFront + 1) % 2 ^ 64, received := ep.received ++ [e.bytes] })) ∧
    (e.flag = false → frame.tooLong = false → ep.ptp = true → frame.isClock = true → Completes .clockFrame s (fun t => s.SameMachine t ∧
      (t.ethPort e.port).clock = (ep.clock + 1) % 2 ^ 64 ∧ (t.ethPort e.port).portState = e.index ∧
      (t.ethPort e.port).meanPathDelay = e.value ∧ (t.ethPort e.port).offset = e.addr ∧ (e.opt = none → t.inc = s.inc) ∧
      (t.clock = 2 → t.inc = s.inc) ∧ (∀ v, e.opt = some v → t.clock ≠ 2 → Config.nominalInc - Config.nominalInc / 2000 ≤ t.inc ∧
        t.inc ≤ Config.nominalInc + Config.nominalInc / 2000 ∧
        (Config.nominalInc - Config.nominalInc / 2000 ≤ v → v ≤ Config.nominalInc + Config.nominalInc / 2000 → t.inc = v)) ∧
      (e.lock = some true → t.clock = 1) ∧ (e.lock = some false → t.clock = (if s.clock = 1 then 2 else s.clock)) ∧
      (e.lock = none → t.clock = s.clock))) ∧
    (e.flag = true → Completes .timeStep s (fun t => t.dtSec = (now + e.value) / 10 ^ 9 % 2 ^ 48 ∧ t.dtNs = (now + e.value) % 10 ^ 9)) ∧
    (e.flag = false → e.value ≤ now → now < 2 ^ 48 * 10 ^ 9 → Completes .timeStep s (fun t => s.SameMachine t ∧
      t.dtSec * 10 ^ 9 + t.dtNs = now - e.value)) ∧
    Completes .masterLost s (fun t => t.clock = (if s.clock = 1 then 2 else s.clock) ∧ { t with clock := s.clock } = s)

/-- R202, R400 to R403, R409, R410, R412, R434: the links. Ports come up and go down, flits are taken in their order, acknowledged or
asked for again; messages of a queue are served in order; NMODE sets the TRAP policy; ACQ's version returns, REL's field reaches its
home, and a lent colonnade's row is written through. -/
def Obligations.LinkEventsComplete : Prop :=
  ∀ (s : State) (c : JobCard) (port : Fin 4) (k : Card) (col : Nat) (m : Incoming),
    let e := s.ev
    let p := e.port
    let l := s.link p
    let up (x : Nat) : Nat := (x + 1) % 2 ^ 64
    let Downed (i : Instr) : Prop := Completes i s (fun t => s.SameMem t ∧ (t.link p).up = 0 ∧ (t.link p).downs = up l.downs ∧
      (t.link p).window = [] ∧ (t.link p).out = [] ∧ (t.link p).waiting = [] ∧
      ∃ it ∈ t.agenda, s.wall < it.time ∧ it.work = .train p)
    let d := e.bytes
    let sq := leAt d 0 2 % 4096
    let ty := leAt d 0 2 / 2 ^ 12
    let crcOk := crc64 (d.take 248) = leAt d 248 8
    let cp := s.link port.val
    let part := (s.inst c.inst).part
    let o := c.operand.toNat
    let LEnds (P : LinkPort → Prop) : Prop := Completes .linkCardCompletion s (fun t => (t.queue e.q).running = none ∧ s.SameMem t ∧
      (∃ it ∈ t.agenda, s.wall < it.time ∧ it.time ≤ s.wall + 24 ∧ it.work = .signal c) ∧ P (t.link port.val))
    let r := rowAt e.core e.tag e.addr
    (Completes .linkBringUp s (fun t => s.SameMachine t ∧
      (e.flag = false → t.link p = { l with up := 0 }) ∧
      (e.flag = true → t.modNum = e.index ∧ t.link p = { l with
        up := 2, peer := e.value, sendSeq := 0, goodSeq := 0xFFF, acked := 0xFFF, window := [], replays := 0 }))) ∧
    (l.up ≠ 0 → Downed .lossOfLink ∧ (16 ≤ l.replays → Downed .replayLimit) ∧
      (l.up = 2 → l.window ≠ [] → l.ackAt + 22000 < s.wall → Downed .ackTimeout)) ∧
    (l.replays < 16 → exec .replayLimit s = .next s) ∧
    (l.up = 2 → l.window ≠ [] → s.wall ≤ l.ackAt + 22000 → Completes .ackTimeout s (fun t => s.SameMachine t ∧
      ∃ it ∈ t.agenda, it.time = l.ackAt + 22001 ∧ it.work = .event ⟨.ackTimeout, { port := p }⟩)) ∧
    (e.value = l.acked → l.window ≠ [] → Completes .nak s (fun t => s.SameMachine t ∧
      t.link p = { l with replays := l.replays + 1, replayed := (l.replayed + l.window.length) % 2 ^ 64 } ∧
      (15 ≤ l.replays → ∃ it ∈ t.agenda, it.time = s.wall ∧ it.work = .event ⟨.replayLimit, { port := p }⟩))) ∧
    (d.length = 256 → l.up = 2 →
      (crcOk → leAt d 2 2 = l.acked → l.acked < 4096 → sq = (l.goodSeq + 1) % 4096 → ty = 1 → Completes .flitReception s (fun t =>
        s.SameMachine t ∧ t.link p = { l with
          received := up l.received, goodSeq := sq, stream := l.stream ++ (d.drop 4).take 240,
          reply := flitOf 0 l.sendSeq sq false [], sent := up l.sent })) ∧
      (crcOk → leAt d 2 2 = l.acked → l.acked < 4096 → sq ≠ (l.goodSeq + 1) % 4096 → ty ≠ 0 → Completes .flitReception s (fun t =>
        s.SameMachine t ∧ t.link p = { l with
          received := up l.received, reply := flitOf 0 l.sendSeq l.goodSeq true [], sent := up l.sent })) ∧
      (¬ crcOk → Completes .flitReception s (fun t => s.SameMachine t ∧ t.link p = { l with
          crcFail := up l.crcFail, reply := flitOf 0 l.sendSeq l.goodSeq true [], sent := up l.sent }))) ∧
    (l.up ≠ 2 → exec .flitReception s = .next s ∧ exec .message s = .next s) ∧
    (let new : Incoming := {
       queue := e.queue, part := e.part, kind := e.index, addr := e.addr, col := e.col, g := e.tag, count := e.count,
       rows := if e.blocks.isEmpty then [e.bytes] else e.blocks, at_ := s.wall + 1 }
     let stream := l.stream.drop (16 + 256 * new.rows.length)
     let joined := s.modLink p (fun l => { l with waiting := l.waiting ++ [new], stream := stream })
     l.up = 2 → ((∀ q, (e.part, q) ∉ l.paired) → exec .message s = .next (s.modLink p (fun l => { l with stream := stream }))) ∧
     ((∃ q, (e.part, q) ∈ l.paired) →
     ((∃ x ∈ l.waiting, x.queue = e.queue) → exec .message s = .next joined) ∧
     ((∀ x ∈ l.waiting, x.queue ≠ e.queue) → e.index = 0 → joined.served new.at_ (joined.messageUnits new) = true →
       Completes .message s (fun t => (t.link p).waiting = l.waiting ∧
       t.mem = (joined.writeExportRows e.part e.addr new.rows).1.mem)))) ∧
    (l.waiting = [m] → m.queue = e.queue → m.kind = 0 → s.served m.at_ (s.messageUnits m) = true → Completes .delivery s (fun t => (t.link p).waiting = [] ∧
      t.mem = (s.writeExportRows m.part m.addr m.rows).1.mem)) ∧
    (s.runningCard = some c → c.run = none → (s.inst c.inst).status = none → s.placeOf c.inst c.logical = some col → c.op = .nmode port k → c.key = 0 →
      (bitsOf o 63 1 = 0 → LEnds (fun x => FMap.get false x.trap part = bitOf o 0 ∧
        FMap.get 0 x.completed part = up (FMap.get 0 cp.completed part) ∧ FMap.get 0 x.failed part = FMap.get 0 cp.failed part)) ∧
      (bitsOf o 63 1 ≠ 0 → LEnds (fun x => x.trap = cp.trap ∧ FMap.get 0 x.failed part = up (FMap.get 0 cp.failed part) ∧
        FMap.get 0 x.codes part = 1))) ∧
    ((s.core e.core).acqAsked = true → e.tag ≠ 10 → e.bytes.length = 32 → Completes .acqVersionReturn s (fun t =>
      s.OnlyCores t ∧ t.core e.core = { s.core e.core with acqData := some e.bytes })) ∧
    ((s.core e.core).acqAsked = true → e.tag = 10 → ∀ v, s.readDv e.core e.addr 32 = some v → Completes .acqVersionReturn s (fun t =>
      s.OnlyCores t ∧ t.core e.core = { s.core e.core with acqData := some v })) ∧
    (s.Quiet → e.lines = [] → e.run = none → e.cols = [] → e.tag ≤ 8 → (s.col (colOf e.core)).backs = [] → (∃ x ∈ (s.core e.core).rels, x.gen = e.gen) →
      Completes .untimedRel s (fun t => t.mem.readBytes (r.addr + e.index) e.bytes.length = e.bytes ∧
        s.SameMemBut t (r.addr + e.index) e.bytes.length ∧ t.rowTag r = 0 ∧ (∀ j, j ≠ e.core → t.core j = s.core j) ∧
        t.core e.core = { s.core e.core with rels := (s.core e.core).rels.filter (fun x => x.gen ≠ e.gen) })) ∧
    (s.Quiet → e.lines = [] → e.run = none → Completes .writeThrough s (fun t => t.mem = (s.writeDv e.core e.addr e.bytes).mem ∧
      (t.col e.col).inFlight = (s.col e.col).inFlight - 1 ∧ ∀ j, t.core j = s.core j))

/-! ### Groups (01, 05, 12) -/

/-- R20, R24, R39, R42, R63, R156, R368: ALIGN_RELEASE starts the waiting cores at this cycle, their holds cleared; FRAG_RELEASE starts every live
core at its place of the Catalogue entry, a repeat in progress being over after an abandonment; RESUMPTION lets the group issue again,
with what its look-ahead has found for the cycles after; INTERRUPT enters the handler with the causing bits;
ABANDONMENT sends the group to the entry asked for; a reserved opcode raises ILLEGAL. -/
def Obligations.GroupsAreReleasedAndInterrupted : Prop :=
  ∀ (s : State),
    let g := s.ev.group
    let gr := s.group g
    let n := gr.sched
    let live := s.liveCores g
    let waits (c : Core) : Prop := c.mode = .atAlign ∨ c.mode = .atFrag
    let Released (c d : Core) : Prop := d.mode = .run ∧ d.hold = [] ∧ d.fetched = [] ∧ d.issueAt = max n c.issueAt ∧
      d.fetchAt = max n c.issueAt ∧ d.stopAt = c.stopAt + (n - c.arrivedAt) ∧
      d.s = c.s ∧ d.p = c.p ∧ d.h = c.h ∧ d.v = c.v ∧ d.acc = c.acc
    let start (k : Nat) : Nat := FMap.get 0 (s.core k).catalogue (gr.entry.getD 0)
    let k := s.ev.core
    let c := s.core k
    Completes .alignRelease s (fun t => s.SameMem t ∧ (t.group g).phase = .run ∧ (t.group g).barrier = none ∧
      (t.group g).sched = n ∧ (∀ k ∈ live, waits (s.core k) → Released (s.core k) (t.core k) ∧ (t.core k).pc = (s.core k).pc) ∧
      ∀ k, k ∉ live → t.core k = s.core k) ∧
    ((∀ k ∈ live, start k ≠ 0) → Completes .fragRelease s (fun t => s.SameMem t ∧ (t.group g).phase = .run ∧
      (t.group g).barrier = none ∧ (t.group g).entry = none ∧ (t.group g).lastEntry = gr.entry.getD 0 ∧
      ∀ k ∈ live, waits (s.core k) → Released (s.core k) (t.core k) ∧ (t.core k).pc = start k - 1 ∧ (t.core k).rep = (if gr.abandoning then {} else (s.core k).rep))) ∧
    ((∀ x ∈ gr.cols, s.pending x = []) → Completes .resumption s (fun t => s.SameMem t ∧ (t.group g).phase = .run ∧
      (t.group g).conds = gr.later ∧ (t.group g).freezeAt = gr.laterAt ∧ (t.group g).sched = n ∧
      (∀ x ∈ gr.cols, (t.col x).stopped = false) ∧ ∀ k, (s.core k).SameRegs (t.core k))) ∧
    Completes .interrupt s (fun t => s.SameMem t ∧ (t.core k).shadow = true ∧ (t.core k).pc = c.tvec.toNat % 65536 ∧
      (t.core k).tcause = 0x720#64 ||| ((c.ipend &&& c.imask &&& 0xF) <<< 16) ∧ (t.core k).tval = 0 ∧
      (t.core k).epc = BitVec.ofNat 64 (c.pc % 65536) ∧ (t.core k).shadowAt = s.wall + 12 ∧ (t.core k).savedHold = c.hold ∧
      (t.core k).s = c.s ∧ (t.core k).p = c.p ∧ (t.core k).h = c.h ∧ (t.core k).ipend = c.ipend ∧ (t.core k).imask = c.imask ∧
      (t.group (s.groupNo k)).isFrozen = true ∧ ∀ j, j ≠ k → t.core j = s.core j) ∧
    (∀ x a, gr.cols = [x] → (s.col x).abandon = some a →
      ((∀ r, gr.barrier ≠ some (r, true)) → Completes .abandonment s (fun t => s.SameMem t ∧ (t.col x).abandon = none ∧
        (t.group g).entry = some a ∧ (t.group g).barrier = some (n + 41, true) ∧ (t.group g).fragValid = gr.fragValid ∧
        ∀ k ∈ live, (t.core k).mode = .atFrag ∧ (t.core k).arrivedAt = n + 1 ∧ (t.core k).rep = {})) ∧
      (∀ r, gr.barrier = some (r, true) → Completes .abandonment s (fun t => s.SameMem t ∧ (t.col x).abandon = none ∧
        (t.group g).entry = some a ∧ (t.group g).barrier = some (r, true) ∧ ∀ k, t.core k = s.core k))) ∧
    exec .reservedOpcode s = .next (takeTrap s (s.illegal 2) s.here.bundle)

/-! ### The front end (15, 16) -/

/-- R424, R427, R432, R437, R438: LAUNCH queues the instances of a directory that passes the checks, and completes at once with the check's
status otherwise; KILL ends the instance it names with KILLED; graphs are loaded, freed and run, and a trigger write runs one. An entry that
reads device memory waits until reserved slots have served it (09 R281). Where the operands of entries lie is the model's choice (log
entries 35, 72 to 74). -/
def Obligations.LaunchesAndGraphsComplete : Prop :=
  ∀ (s : State) (r : GraphRun),
    let e := s.ev
    let f (i : Nat) : Nat := entryField e.bytes i
    let Done (i : Instr) (code : Nat) (detail : List Byte) (P : State → Prop) : Prop := Completes i s (fun t =>
      t.completions = s.completions ++ [⟨e.part, e.queue, e.index, code, padTo 16 detail⟩] ∧ t.journal = s.journal + 1 ∧ P t)
    let n := freshKey s.launches
    let named (p : Nat × Inst) : Prop := p.2.part = e.part ∧ p.2.status = none ∧ p.2.number = f 2 ∧ p.2.queue = f 0 ∧
      (s.launch p.2.launch).pos = f 1
    let x := s.graph e.part (f 0)
    let y := s.graph e.part e.index
    let nodes := chunksOf 32 (f 2) ((s.readWindow e.part (f 1) (32 * f 2)).getD [])
    let fits (units : List PortUnit) : Prop := s.served e.value units = true
    let seen : Prop := fits (s.launchUnits e.part (f 0))
    let reads : Prop := fits (s.windowUnits e.part (f 1) (min 8192 (32 * f 2)))
    (¬ seen → exec .launch s = .next ((s.askUnits (eventKey e.value) false (s.launchUnits e.part (f 0))).eventAt (s.wall + 11) .launch e)) ∧
    (∀ l, seen → s.checkLaunch e.part (f 0) = .ok l → e.queue ≠ adminQueue → Completes .launch s (fun t =>
      FMap.get {} t.launches n = { l with queue := e.queue, pos := e.index, priority := (s.part e.part).prioOf e.queue } ∧
      (∀ m, m ≠ n → FMap.get {} t.launches m = s.launch m) ∧ t.completions = s.completions ∧ t.insts = s.insts ∧
      (∀ q ∈ (t.part e.part).subs, q.1 = e.queue → q.2.launch = some n ∧ q.2.started = false) ∧
      (bitOf (f 1) 0 = true → FMap.get [] t.meas 3 = sha512 (padTo 64 (FMap.get [] s.meas 3) ++ l.object.digest)) ∧
      (bitOf (f 1) 0 = false → t.meas = s.meas))) ∧
    (∀ x, seen → s.checkLaunch e.part (f 0) = .error x → ∃ t, exec .launch s = .next t ∧
      t.completions = s.completions ++ [⟨e.part, e.queue, e.index, x.1, padTo 16 x.2⟩] ∧ t.launches = s.launches) ∧
    (seen → s.readWindow e.part (f 0) 0x3C8 = none → Done .launch 3 [] (fun t => t.launches = s.launches)) ∧
    (seen → ∀ d, s.readWindow e.part (f 0) 0x3C8 = some d → leAt d 0 4 = 0x594C4C44 → leAt d 4 2 = 1 → leAt d 6 1 ≤ 1 → leAt d 7 1 ≤ 13 →
      leAt d 8 4 = 0 → leAt d 12 2 ≤ 65535 → Done .launch 1 [] (fun t => t.launches = s.launches)) ∧
    (seen → ∀ d, s.readWindow e.part (f 0) 0x3C8 = some d → leAt d 0 4 = 0x594C4C44 → leAt d 4 2 = 1 → leAt d 6 1 ≤ 1 → leAt d 7 1 ≤ 13 →
      65536 < leAt d 8 4 → leAt d 8 4 < 2 ^ 17 → Done .launch 2 [] (fun t => t.launches = s.launches)) ∧
    (∀ m, (∃ p ∈ s.insts, named p) → (∀ p ∈ s.insts, named p → p.1 = m) → (s.inst m).status = none →
      Completes .kill s (fun t => (t.inst m).status = some 8 ∧ t.completions = s.completions ++ [⟨e.part, e.queue, e.index, 0, padTo 16 []⟩])) ∧
    ((∀ p ∈ s.insts, ¬ named p) → Done .kill 1 [] (fun t => t.insts = s.insts)) ∧
    (reads → f 0 < 64 → 1 ≤ f 2 → f 2 ≤ 256 → (∀ d ∈ nodes, nodeOk d (f 2) = true) → x.loaded = false →
      (f 3 = 0 → Done .graphLoad 0 [] (fun t => t.graph e.part (f 0) = { loaded := true, nodes := nodes } ∧ t.triggers = s.triggers)) ∧
      (∀ b, f 3 ≠ 0 → s.burstOf e.part (f 3) = some b → Done .graphLoad 0 [] (fun t =>
        t.graph e.part (f 0) = { loaded := true, nodes := nodes, trigger := some b } ∧
        t.triggers = s.triggers ++ [⟨b, e.part, f 0, false⟩]))) ∧
    (reads → 64 ≤ f 0 ∨ f 2 = 0 ∨ 256 < f 2 ∨ (∃ d ∈ nodes, nodeOk d (f 2) = false) ∨ (f 3 ≠ 0 ∧ s.burstOf e.part (f 3) = none) ∨
      x.loaded = true → Done .graphLoad 1 [] (fun t => ∀ g, t.graph e.part g = s.graph e.part g)) ∧
    (x.loaded = true → Done .graphFree 0 [] (fun t => t.graph e.part (f 0) = {} ∧
      ∀ u ∈ t.triggers, u ∈ s.triggers ∧ (u.part ≠ e.part ∨ u.graph ≠ f 0))) ∧
    (x.loaded = false → Done .graphFree 2 [] (fun t => t.triggers = s.triggers) ∧ Done .graphRun 2 [] (fun t => t.triggers = s.triggers)) ∧
    (x.loaded = true → 4 ≤ x.runs.length → Done .graphRun 3 [] (fun t => t.graph e.part (f 0) = x)) ∧
    (x.loaded = true → x.cur = none → x.runs = [] → Done .graphRun 0 [] (fun t =>
      t.graph e.part (f 0) = { x with cur := some { arg := f 1, came := s.wall } })) ∧
    (x.loaded = true → x.runs.length < 4 → x.cur = some r → Done .graphRun 0 [] (fun t =>
      t.graph e.part (f 0) = { x with runs := x.runs ++ [f 1] })) ∧
    (e.flag = false →
      (y.loaded = true → y.cur = none → y.runs = [] → Completes .triggerWrite s (fun t => t.mem = s.mem ∧ t.completions = s.completions ∧
        t.graph e.part e.index = { y with cur := some { arg := e.value, came := s.wall } })) ∧
      (y.loaded = true → 4 ≤ y.runs.length → Completes .triggerWrite s (fun t => t.mem = s.mem ∧
        t.graph e.part e.index = { y with dropped := y.dropped + 1 }))) ∧
    (e.flag = true → y.cur = some r → r.waits = true → Completes .triggerWrite s (fun t => t.mem = s.mem ∧
      t.graph e.part e.index = { y with cur := some { r with waits := false, node := leAt (y.nodes[r.node]?.getD []) 2 2, came := s.wall } } ∧
      ∀ u ∈ t.triggers, ¬ (u.wait = true ∧ u.part = e.part ∧ u.graph = e.index)))

/-- R424, R433, R435, R440, R443, R448: LEND lends idle colonnades and answers their lease; RECLAIM asks for pre-emption now and sets the
limit of 34,100 cycles from the request's arrival; DRAIN and RETURN take a colonnade out of service and back; GRANT gives sequences, ticks, rules, streams, watches,
pairings, weights, permits, and entries of the stage map, the export table and the window table. Where the operands of entries lie, and the kinds of GRANT, are the model's choice (log entry 35). -/
def Obligations.LoansDrainsAndGrantsComplete : Prop :=
  ∀ (s : State),
    let e := s.ev
    let f (i : Nat) : Nat := entryField e.bytes i
    let own := s.part e.part
    let Tell (i : Instr) (code : Nat) (detail : List Byte) (P : State → Prop) : Prop := Completes i s (fun t =>
      t.completions = s.completions ++ [⟨e.part, e.queue, e.index, code, padTo 16 detail⟩] ∧ P t)
    let idle := s.idleCols e.part
    let pick := (idle.filter (· < 12) ++ (if f 2 = 1 then idle.filter (· = 12) else [])).take (f 1)
    let sane : Prop := f 0 ≤ 7 ∧ 1 ≤ f 1 ∧ f 1 ≤ 12 ∧ 64 ≤ f 3 ∧ f 3 ≤ 16384 ∧ f 3 % 64 = 0
    let allowed : Prop := f 0 ≠ e.part ∧ (s.part (f 0)).live = true ∧ f 0 ∈ own.permits
    let l := s.lease (f 0)
    let c := f 0
    let co := s.col c
    let Gives (g : Partition → List Nat) (kind limit : Nat) : Prop := f 0 = kind → (f 1 ≤ f 2 → f 2 ≤ limit →
        (∀ p ∈ s.parts, p.1 ≠ e.part → ∀ n, f 1 ≤ n → n ≤ f 2 → n ∉ g p.2) →
        Tell .grant 0 [] (fun t => ∀ n, n ∈ g (t.part e.part) ↔ n ∈ g own ∨ (f 1 ≤ n ∧ n ≤ f 2))) ∧
      (f 2 < f 1 ∨ limit < f 2 ∨ (∃ p ∈ s.parts, p.1 ≠ e.part ∧ ∃ n, f 1 ≤ n ∧ n ≤ f 2 ∧ n ∈ g p.2) →
        Tell .grant 1 [] (fun t => g (t.part e.part) = g own))
    (sane → allowed → f 1 ≤ pick.length → Tell .lend 0 (leBytes 2 (firstGap s.leases)) (fun t =>
      t.lease (firstGap s.leases) = { lender := e.part, borrower := f 0, cols := pick, all := pick, mem := f 3 } ∧
      ∀ c ∈ pick, (t.col c).lentTo = some (f 0) ∧ (t.col c).lease = some (firstGap s.leases) ∧ (t.col c).memExtent = f 3 ∧
        (t.col c).inst = none)) ∧
    (¬ sane → Tell .lend 1 [] (fun t => t.leases = s.leases ∧ t.cols = s.cols)) ∧
    (sane → ¬ allowed → Tell .lend 6 [] (fun t => t.leases = s.leases ∧ t.cols = s.cols)) ∧
    (sane → allowed → pick.length < f 1 → Tell .lend 4 [] (fun t => t.leases = s.leases ∧ t.cols = s.cols)) ∧
    (l.cols ≠ [] → l.lender = e.part → l.since = none → Completes .reclaim s (fun t => t.completions = s.completions ∧
      t.lease (f 0) = { l with since := some s.wall, reply := s.entryReply } ∧
      (∃ it ∈ t.agenda, it.time = max (s.wall + 1) (min e.value s.wall + 34100) ∧ it.work = .event ⟨.reclaimed, { index := f 0 }⟩) ∧
      ∀ p ∈ s.insts, p.2.placed = true ∨ p.2.saving = true → p.2.status = none → (∃ q ∈ p.2.cols, q.2 - 1 ∈ l.cols) →
        (t.inst p.1).evict = true)) ∧
    (l.cols = [] ∨ l.lender ≠ e.part ∨ l.since ≠ none → Tell .reclaim 5 [] (fun t => t.leases = s.leases ∧ t.insts = s.insts)) ∧
    (e.flag = false →
      (c < 13 → c ∈ own.cols → co.draining = false → Completes .drain s (fun t => t.completions = s.completions ∧
        t.col c = { co with draining := true, drainFor := s.entryReply } ∧ ∀ i, co.inst = some i → (t.inst i).evict = true)) ∧
      (13 ≤ c ∨ c ∉ own.cols ∨ co.draining = true → Tell .drain 1 [] (fun t => t.cols = s.cols))) ∧
    (e.flag = true → Completes .drain s (fun t => ∃ gone : Bool,
      t.completions = s.completions ++ [⟨e.part, e.queue, e.index, 0, padTo 16 (leBytes 1 (if gone then 1 else 0))⟩] ∧
      (t.col e.col).retired = ((s.col e.col).retired || gone) ∧ (t.col e.col).draining = (s.col e.col).draining ∧
      (2 ≤ (t.col e.col).failed → gone = true))) ∧
    (c ∈ own.cols → co.draining = true → co.retired = false → co.drainFor = .none →
      Tell .returnCol 0 [] (fun t => t.col c = { co with draining := false })) ∧
    (c ∉ own.cols ∨ co.draining = false ∨ co.retired = true ∨ co.drainFor ≠ .none → Tell .returnCol 1 [] (fun t => t.cols = s.cols)) ∧
    Gives (·.seqs) 0 255 ∧ Gives (·.ticks) 1 15 ∧ Gives (·.rules) 2 255 ∧ Gives (·.streams) 3 63 ∧ Gives (·.watches) 4 31 ∧
    (f 0 = 5 → 1 ≤ f 1 → f 1 ≤ f 2 → f 2 ≤ 3 → Tell .grant 0 [] (fun t => ∀ n, f 1 ≤ n → n ≤ f 2 → (e.part, f 3) ∈ (t.link n).paired ∧
      ∀ q, (e.part, q) ∈ (t.link n).paired → q = f 3)) ∧
    (f 0 = 6 → f 1 < 256 → 1 ≤ f 2 → f 2 ≤ 15 → Tell .grant 0 [] (fun t => FMap.get 0 (t.part e.part).weights (f 1) = f 2)) ∧
    (f 0 = 7 → f 1 ≤ f 2 → f 2 ≤ 7 → Tell .grant 0 [] (fun t => ∀ n, f 1 ≤ n → n ≤ f 2 → n ∈ (t.part e.part).permits)) ∧
    (f 0 = 8 → f 1 ≤ 15 → Tell .grant 0 [] (fun t => FMap.get none (t.part e.part).stages (f 1) =
      (if f 2 = 0 then none else some ((f 2 - 1) % 16, (f 2 - 1) / 16 % 16)))) ∧
    (f 0 = 9 → f 1 ≤ 63 → Tell .grant 0 [] (fun t =>
      FMap.get 0 (t.part e.part).exports (f 1) = BitVec.ofNat 128 (f 2 + f 3 * 2 ^ 64))) ∧
    (f 0 = 10 → f 1 ≤ 63 → Tell .grant 0 [] (fun t =>
      FMap.get 0 (t.part e.part).windowTable (f 1) = BitVec.ofNat 128 (f 2 + f 3 * 2 ^ 64))) ∧
    (10 < f 0 → Tell .grant 1 [] (fun t => (t.part e.part).permits = own.permits ∧ t.links = s.links))

/-- R425, R428, R431, R435, R439, R454 to R457: an instance is placed on the colonnades chosen for it; a pre-empted one is saved and waits,
or after a checkpoint alone is released again in place; leased colonnades go back; front-end cards complete with their status; power modes change; heat holds a colonnade and what ran on it.
Cards complete where no timed access keeps them waiting.
Where operands and
saved images lie, and what becomes of a POWER_MODE that meets another, is the model's choice (log entries 34, 35, 130). -/
def Obligations.InstancesArePlacedAndSaved : Prop :=
  ∀ (s : State) (c : JobCard) (k : Card),
    let e := s.ev
    let n := e.inst
    let x := s.inst n
    let L := s.launch e.index
    let m := freshKey s.insts
    let gi := (s.group e.group).inst
    let there : Prop := ∀ g ∈ (s.inst gi).groups, (s.group g).ending = true ∨ Freeze.preempt ∈ (s.group g).conds
    let lease := s.lease e.index
    let part := (s.inst c.inst).part
    let Ends (code lease : Nat) (P : State → Prop) : Prop := Completes .frontEndCardCompletion s (fun t =>
      (t.queue e.q).running = none ∧
      (∀ r, s.argRow c.core c.operand = some r → t.mem.readBytes (r.addr + 248) 8 = leBytes 8 (code + lease * 2 ^ 16)) ∧
      (∃ it ∈ t.agenda, s.wall < it.time ∧ it.time ≤ s.wall + 24 ∧ it.work = .signal c) ∧ P t)
    let pm := entryField e.bytes 0
    let told (t : State) (code : Nat) : Prop :=
      t.completions = s.completions ++ [⟨e.part, e.queue, e.index, code, padTo 16 []⟩]
    let total := ((e.value :: s.samples).take 100).foldl (· + ·) 0
    (e.flag = true → ∀ pl, x.waiting = true → x.held = false → x.status = none → s.mayPlace x.part x.priority = true → s.powerFits x.object = true → s.powerGoal = none →
      s.pickPlace x.object x.part [] = some pl → Completes .instancePlacement s (fun t =>
        (t.inst n).placed = true ∧ (t.inst n).waiting = false ∧ (t.inst n).saved = [] ∧ (t.inst n).status = none ∧
        ∀ p ∈ pl, (t.col p.2).inst = some n ∧ (t.col p.2).logical = p.1)) ∧
    (e.flag = false → ∀ pl, L.next < L.count → L.finished = false → s.mayPlace L.part L.priority = true → s.powerFits L.object = true → s.powerGoal = none →
      s.pickPlace L.object L.part [] = some pl → Completes .instancePlacement s (fun t =>
        (t.inst m).placed = true ∧ (t.inst m).launch = e.index ∧ (t.inst m).object = L.object ∧
        (L.first = true → (t.inst m).number = L.base + L.next) ∧ (t.launch e.index).next = L.next + 1 ∧
        (∀ p ∈ pl, (t.col p.2).inst = some m ∧ (t.col p.2).logical = p.1))) ∧
    (e.flag = true → x.saving = true → x.stay = false ∨ x.evict = true ∨ x.heat ≠ 0 → Completes .preEmption s (fun t =>
      (t.inst n).saving = false ∧ (t.inst n).waiting = true ∧
      (t.inst n).held = (x.heat == 2 && !x.hotCols.isEmpty) ∧ ∀ c, c < 13 → (s.col c).inst = some n → (t.col c).inst = none)) ∧
    (e.flag = true → x.saving = true → x.stay = true → x.evict = false → x.heat = 0 → Completes .preEmption s (fun t =>
      (t.inst n).saving = false ∧ (t.inst n).placed = true ∧ (t.inst n).waiting = false ∧ (t.inst n).restored = x.restored ∧
      ∀ p ∈ x.cols, (t.col (p.2 - 1)).inst = some n)) ∧
    (∀ q i, s.insts = [(n, x)] → x.restored = some (.card q i) →
      (x.placed = true → (∀ g ∈ x.groups, (s.group g).phase = .run) → ∃ it ∈ s.serveRestored.agenda, it.time = s.wall + 1 ∧
        it.work = .event ⟨.frontEndCardCompletion, { q := q, opt := some i, flag := true }⟩) ∧
      ((∃ g ∈ x.groups, ∃ a b, (s.group g).phase = .releasing a b) → s.serveRestored = s)) ∧
    (let u := s.settle gi
     let area := (u.checkpointArea gi).getD (0, 0)
     let since := if e.value = 0 then s.wall else e.value
     e.flag = false → (s.inst gi).placed = true → (s.inst gi).status = none → there → (∀ p ∈ (s.inst gi).cols, (u.col (p.2 - 1)).backs = []) →
      u.windowOk (s.inst gi).part area.1 area.2 = true → s.served since (u.windowUnits (s.inst gi).part area.1 area.2 true) = true →
      Completes .preEmption s (fun t =>
      (t.inst gi).placed = false ∧ (t.inst gi).saving = true ∧ (t.inst gi).savedAt = s.wall ∧
      (t.inst gi).stay = (!(s.inst gi).evict && (s.inst gi).heat == 0) ∧ (∀ g ∈ (s.inst gi).groups, (t.group g).phase = .preempted) ∧
      ∃ it ∈ t.agenda, s.wall < it.time ∧ it.time ≤ s.wall + 51260 ∧ it.work = .event ⟨.preEmption, { inst := gi, flag := true }⟩)) ∧
    (e.flag = true → lease.handing = true → Completes .reclaimed s (fun t =>
      (t.lease e.index).cols = [] ∧ (t.lease e.index).handing = false ∧
      (∀ c ∈ lease.cols, (t.col c).lentTo = none ∧ (t.col c).lease = none ∧ (t.col c).part = lease.lender ∧ (t.col c).inst = none) ∧
      ∀ p q i, lease.reply = .entry p q i → t.completions = s.completions ++ [⟨p, q, i, 0, padTo 16 []⟩])) ∧
    (e.flag = false → lease.since ≠ none → Completes .reclaimed s (fun t => ∀ i, (s.inst i).placed = true → (s.inst i).status = none →
      (∃ q ∈ (s.inst i).cols, q.2 - 1 ∈ lease.cols) → (t.inst i).status = some (if (s.inst i).heat = 2 then 10 else 9))) ∧
    (s.Quiet → s.runningCard = some c → (s.inst c.inst).status = none → (s.placeOf c.inst c.logical).isSome = true →
      (s.col (colOf c.core)).inst = some c.inst →
      (e.flag = true → Ends e.value (leAt e.bytes 0 2) (fun t => t.parts = s.parts)) ∧
      (e.flag = false → s.argRow c.core c.operand = none → Ends 1 0 (fun t => t.parts = s.parts ∧ t.mem = s.mem)) ∧
      (e.flag = false → ∀ r, s.argRow c.core c.operand = some r →
        let d := s.readRow r
        let y := s.graph part c.param
        (c.frontOk = false → Ends 1 0 (fun t => t.parts = s.parts)) ∧
        (c.frontOk = true → c.op = .ftrig k →
          (y.loaded = false → Ends 2 0 (fun t => t.parts = s.parts)) ∧
          (y.loaded = true → 4 ≤ y.runs.length → Ends 3 0 (fun t => t.parts = s.parts)) ∧
          (y.loaded = true → y.cur = none → y.runs = [] → Ends 0 0 (fun t =>
            t.graph part c.param = { y with cur := some { arg := leAt d 0 8, came := s.wall } }))) ∧
        (c.frontOk = true → c.op = .fpost k →
          (s.part part).events.length - (FMap.get 0 (s.part part).regs 0x2000).toNat < (FMap.get 0 (s.part part).regs 0x2008).toNat →
          Ends 0 0 (fun t => (t.part part).events = (s.part part).events ++ [(c.param, padTo 64 (d.take 64))])) ∧
        (c.frontOk = true → c.op = .flend k → leAt d 2 1 ≤ 1 → leAt d 3 1 = 0 → (s.col c.col).lentTo = none →
          ∀ u l, s.lend part (leAt d 0 1) (leAt d 1 1) (leAt d 2 1 = 1) (leAt d 4 4) = .ok (u, l) →
            Ends 0 l (fun t => t.leases = u.leases ∧ t.cols = u.cols)) ∧
        (c.frontOk = true → c.op = .frecl k → ∀ u, s.reclaimLease part (leAt d 0 2) (c.claimed - 1) (.card e.q c.serial) = .ok u →
          exec .frontEndCardCompletion s = .next u) ∧
        (c.frontOk = true → c.op = .fckpt k → leAt d 0 8 % 256 = 0 →
          s.windowOk part (leAt d 0 8) (s.checkpointLeast c.inst) = true → (s.col c.col).lentTo = none →
          (s.inst c.inst).checkpoint = none → (s.inst c.inst).restored = none → Completes .frontEndCardCompletion s (fun t =>
            (t.inst c.inst).checkpoint = some (leAt d 0 8, .card e.q c.serial) ∧ t.queues = s.queues ∧ t.mem = s.mem ∧
            ∀ g ∈ (s.inst c.inst).groups, (t.group g).preempt = true)))) ∧
    (pm ≤ 2 → s.powerGoal = none → (s.powerMode ≤ pm → Completes .powerMode s (fun t => t.powerMode = pm ∧ told t 0)) ∧
      (pm < s.powerMode → Completes .powerMode s (fun t => t.powerMode = s.powerMode ∧ t.powerGoal = some (pm, s.entryReply) ∧
        t.completions = s.completions))) ∧
    (2 < pm → Completes .powerMode s (fun t => t.powerMode = s.powerMode ∧ t.powerGoal = s.powerGoal ∧ told t 1)) ∧
    (∀ m r, s.powerGoal = some (m, r) → pm ≤ 2 →
      (s.powerMode ≤ pm → Completes .powerMode s (fun t => t.powerMode = pm ∧ t.powerGoal = none ∧
        ∀ a q i, r = .entry a q i → t.completions = s.completions ++ [⟨a, q, i, 0, padTo 16 []⟩, ⟨e.part, e.queue, e.index, 0, padTo 16 []⟩])) ∧
      (pm < s.powerMode → exec .powerMode s = .next (s.eventAt (s.wall + 11) .powerMode e))) ∧
    (s.samples.length < 99 ∨ total ≤ modeCap s.powerMode * 100 →
      exec .powerSample s = .next { s with samples := (e.value :: s.samples).take 100 }) ∧
    (99 ≤ s.samples.length → modeCap s.powerMode * 100 < total → ∀ v r, s.victims (fun _ => true) = v :: r →
      Completes .powerSample s (fun t => (t.inst v).evict = true ∧ t.samples = (e.value :: s.samples).take 100 ∧ t.mem = s.mem)) ∧
    (e.col < 13 → FMap.wf {} s.parts = true → Completes .thermalWarn s (fun t => t.sensor = max s.sensor 100 ∧ t.insts = s.insts ∧ t.mem = s.mem ∧
      ∀ p, (s.part p).live = true →
        (s.part p).events.length - (FMap.get 0 (s.part p).regs 0x2000).toNat < (FMap.get 0 (s.part p).regs 0x2008).toNat →
        (t.part p).events = (s.part p).events ++ [(0, padTo 64 evThermalWarn)])) ∧
    (∀ i, e.col < 13 → (s.col e.col).inst = some i → Completes .thermal s (fun t => t.sensor = max s.sensor 110 ∧
      (t.col e.col).heldHot = true ∧ (t.inst i).heat = 2 ∧ (∀ c, c ∈ (t.inst i).hotCols ↔ c = e.col ∨ c ∈ (s.inst i).hotCols) ∧
      ((s.inst i).saving = false → ∀ g ∈ (s.inst i).groups, (t.group g).preempt = true))) ∧
    (e.col < 13 → (s.col e.col).inst = none → Completes .thermal s (fun t => t.sensor = max s.sensor 110 ∧
      (t.col e.col).heldHot = true ∧ (t.col e.col).gated = true ∧ t.insts = s.insts)) ∧
    (e.value ≤ 95 → Completes .thermalClear s (fun t => (t.col e.col).temp = e.value ∧ (t.col e.col).heldHot = false ∧
      ∀ i, e.col ∈ (s.inst i).hotCols → (t.inst i).hotCols = (s.inst i).hotCols.filter (· ≠ e.col) ∧
        (t.inst i).held = ((s.inst i).held && !((s.inst i).hotCols.filter (· ≠ e.col)).isEmpty))) ∧
    (95 < e.value → Completes .thermalClear s (fun t => t.col e.col = { s.col e.col with temp := e.value } ∧ t.insts = s.insts))

/-! ### The device's edges (16) -/

/-- R442, R444, R446 to R452: functions, windows and queues answer the host; partitions and ports are made, changed and taken away; firmware is
updated, core by core, and measured, a report is signed; the management port is read and written; the front end's cores report and are recovered. Where
operands and queue registers lie is the model's choice (log entries 28, 35, 105, 107). -/
def Obligations.HostAndManagementAccessesComplete : Prop :=
  ∀ (s : State),
    let e := s.ev
    let f (i : Nat) : Nat := entryField e.bytes i
    let p := s.part e.fn
    let there : Prop := e.fn = 0 ∨ (e.fn ≤ 7 ∧ p.live = true)
    let Tell (i : Instr) (code : Nat) (P : State → Prop) : Prop := Completes i s (fun t =>
      t.completions = s.completions ++ [⟨e.part, e.queue, e.index, code, padTo 16 []⟩] ∧ P t)
    let off := e.addr / 8 * 8
    let value := if off = 0x3000 then e.value / 2 ^ 34 * 2 ^ 34 else e.value
    let x := s.windowBase e.fn e.addr
    let cols := (List.range 13).filter (bitOf (f 1))
    let free : Prop := f 0 ≤ 7 ∧ f 1 ≠ 0 ∧ f 1 < 2 ^ 13 ∧ (s.part (f 0)).live = false ∧
      ∀ q ∈ s.parts, q.2.live = true → ∀ c ∈ q.2.cols, c ∉ cols
    let onLoan : Prop := ∃ q ∈ s.leases, q.2.cols ≠ [] ∧ (q.2.lender = f 0 ∨ q.2.borrower = f 0)
    let on : Prop := s.powered = true ∧ s.mgmtFrom ≤ s.wall
    let report := s.reportBody e.part ((e.bytes.drop 8).take 32)
    let silent : Prop := FMap.get 0 s.beats e.index + 110000 ≤ s.wall
    let next : Prop := s.Quiet ∧ e.lines = [] ∧ e.run = none ∧ e.opt = none ∧ ∀ it ∈ s.agenda, ∀ b : EvArgs,
      (it.work = .event ⟨.hostWindowWrite, b⟩ ∨ it.work = .event ⟨.hostWindowRead, b⟩) → b.fn = e.fn → ∀ m, b.opt = some m → s.ctr ≤ m
    let ok (img : List Byte) : Prop := Config.goodImage img = true ∧ Config.journalOk img = true
    (e.flag = true → e.fn = 0 → Completes .doorbell s (fun t => t.parts = s.parts ∧ ∃ new, t.admin = { s.admin with entries := s.admin.entries ++ new } ∧
      new.map (·.bytes) = e.blocks.map (padTo 64))) ∧
    (e.flag = false → p.live = true → e.queue ≤ 15 → p.hasQueue e.queue = true → s.entriesGranted e.fn e.queue e.blocks.length = true →
      Completes .doorbell s (fun t => t.admin = s.admin ∧
      ∃ new, FMap.get {} (t.part e.fn).subs e.queue = { (FMap.get {} p.subs e.queue : SubQueue) with
        entries := (FMap.get {} p.subs e.queue : SubQueue).entries ++ new } ∧ new.map (·.bytes) = e.blocks.map (padTo 64))) ∧
    (there → e.addr < 65536 →
      (off ≠ 0x3008 → Completes .registerWrite s (fun t => FMap.get 0 (t.part e.fn).regs off = BitVec.ofNat 64 value ∧
        (∀ o, o ≠ off → FMap.get 0 (t.part e.fn).regs o = FMap.get 0 p.regs o) ∧ (t.part e.fn).hostRanges = grantRanges (t.part e.fn).regs ∧
        ∀ q, q ≠ e.fn → t.part q = s.part q)) ∧
      (off = 0x3008 → Completes .registerWrite s (fun t => t.part e.fn = { p with winErr := p.winErr && bitOf e.value 0 }))) ∧
    (p.live = true →
      (∀ a, next → unitsOf x e.bytes.length = [x / 128] → s.windowAddr e.fn (x / 128 * 128) = some a → Completes .hostWindowWrite s (fun t =>
        t.mem = s.mem.writeBytes (a + x % 128) e.bytes ∧ t.part e.fn = p)) ∧
      (next → s.windowOk e.fn x e.bytes.length = false → Completes .hostWindowWrite s (fun t => (t.part e.fn).winErr = true)) ∧
      (next → s.fatal = false → ∀ d, s.readWindow e.fn x e.count = some d →
        exec .hostWindowRead s = .next { s with readData := d, ctr := s.ctr + 1 }) ∧
      (next → s.fatal = false → s.windowOk e.fn x e.count = false → Completes .hostWindowRead s (fun t => (t.part e.fn).winErr = true ∧ t.mem = s.mem)) ∧
      (∀ u, next → s.fatal = false → unitsOf x e.count = [u] → s.windowAddr e.fn (u * 128) = none → Completes .hostWindowRead s (fun t =>
        ∀ b ∈ t.readData, b = 0xFF#8))) ∧
    (e.fn = 0 → p.live = false → Completes .hostWindowWrite s (fun t => (t.part 0).winErr = true ∧ t.mem = s.mem)) ∧
    (s.fatal = true → exec .hostWindowRead s = .next { s with readData := padTo e.count (s.dump.drop e.addr) }) ∧
    (free → Tell .partCreate 0 (fun t => (t.part (f 0)).live = true ∧ (t.part (f 0)).cols = cols ∧
      (t.part (f 0)).noQueues = f 2 ∧ ∀ c ∈ cols, (t.col c).part = f 0)) ∧
    (¬ free → Tell .partCreate 1 (fun t => ∀ q, (t.part q).live = (s.part q).live ∧ (t.part q).cols = (s.part q).cols)) ∧
    (f 0 ≤ 7 → (s.part (f 0)).live = true → ¬ onLoan → Tell .partDestroy 0 (fun t => t.part (f 0) = {} ∧
      (∀ q ∈ s.insts, q.2.part = f 0 → q.2.status = none → (s.inst q.1).status = none → (t.inst q.1).status = some 8) ∧
      ∀ n, (t.ethPort n).part ≠ some (f 0))) ∧
    (f 0 ≤ 7 → (s.part (f 0)).live = true → onLoan → Tell .partDestroy 7 (fun t => t.insts = s.insts)) ∧
    (7 < f 0 ∨ (s.part (f 0)).live = false → Tell .partDestroy 1 (fun t => t.insts = s.insts)) ∧
    (f 0 ≤ 3 → f 1 = 0xFF → f 2 ≤ 1 → Tell .portAssign 0 (fun t =>
      t.ethPort (f 0) = { s.ethPort (f 0) with part := none, ptp := f 2 = 1 })) ∧
    (f 0 ≤ 3 → f 1 ≤ 7 → (s.part (f 1)).live = true → f 2 ≤ 1 → Tell .portAssign 0 (fun t =>
      t.ethPort (f 0) = { s.ethPort (f 0) with part := some (f 1), ptp := f 2 = 1 })) ∧
    (3 < f 0 ∨ 1 < f 2 ∨ (f 1 ≠ 0xFF ∧ (7 < f 1 ∨ (s.part (f 1)).live = false)) → Tell .portAssign 1 (fun t => t.ports = s.ports)) ∧
    (e.flag = false → s.served e.value (s.windowUnits 0 (f 0) (f 1)) = true → (s.readWindow 0 (f 0) (f 1) = none → Tell .fwUpdate 1 (fun t => t.image = s.image)) ∧
      (∀ img, s.readWindow 0 (f 0) (f 1) = some img →
        (s.newImage ≠ none → Tell .fwUpdate 7 (fun t => t.image = s.image)) ∧
        (s.newImage = none → ¬ ok img → Tell .fwUpdate 4 (fun t => t.image = s.image ∧ t.newImage = none)) ∧
        (s.newImage = none → ok img → Completes .fwUpdate s (fun t => t.newImage = some (img, s.entryReply) ∧ t.image = s.image ∧
          ∃ it ∈ t.agenda, s.wall < it.time ∧ it.work = .event ⟨.fwUpdate, { flag := true }⟩)))) ∧
    (e.flag = true → ∀ img a q i, s.newImage = some (img, .entry a q i) →
      (s.updating ≠ some e.index →
        (e.index ∈ s.hung ∨ s.roomBusy e.index = true →
          exec .fwUpdate s = .next (s.eventAt (s.wall + 11) .fwUpdate { index := e.index, flag := true })) ∧
        (e.index ∉ s.hung → s.roomBusy e.index = false → Completes .fwUpdate s (fun t => t.updating = some e.index ∧ t.image = s.image ∧
          t.newImage = s.newImage ∧ ∃ it ∈ t.agenda, s.wall < it.time ∧ it.work = .event ⟨.fwUpdate, { index := e.index, flag := true }⟩))) ∧
      (s.updating = some e.index → e.index < 11 → Completes .fwUpdate s (fun t => t.updating = none ∧ t.image = s.image ∧ t.newImage = s.newImage ∧
        ∃ it ∈ t.agenda, it.time = s.wall + 1 ∧ it.work = .event ⟨.fwUpdate, { index := e.index + 1, flag := true }⟩)) ∧
      (s.updating = some e.index → 11 ≤ e.index → Completes .fwUpdate s (fun t => t.updating = none ∧ t.image = img ∧ t.newImage = none ∧
        t.completions = s.completions ++ [⟨a, q, i, 0, padTo 16 []⟩] ∧
        FMap.get [] t.meas 2 = sha512 (padTo 64 (FMap.get [] s.meas 2) ++ sha512 img) ∧
        ∀ j, j ≠ 2 → FMap.get [] t.meas j = FMap.get [] s.meas j))) ∧
    Tell .attest 0 (fun t => t.report = report ++ padTo 132 (Config.sign (sha512 report)) ∧ t.meas = s.meas) ∧
    (on → exec .status s = .next { s with
        readData := leBytes 1 (s.stage % 8) ++ leBytes 1 s.powerMode ++ leBytes 1 (s.sensor % 256) ++ leBytes 1 s.bootcode ++ [0, 0, 0, 0] } ∧
      (0x40000000 ≤ e.addr → Completes .read s (fun t => t.readData = padTo e.count (s.dump.drop (e.addr - 0x40000000)) ∧
        (s.fatal = true → t.dump = s.dump))) ∧
      (s.fatal = false → 0x20000000 ≤ e.addr → e.addr < 0x40000000 →
        exec .read s = .next { s with readData := padTo e.count (s.mailbox.drop (e.addr - 0x20000000)) }) ∧
      (s.fatal = false → e.addr = 0x01000000 → e.bytes.length = 64 → exec .write s = .next { s with
        admin := { s.admin with entries := s.admin.entries ++ [{ bytes := e.bytes, rows := e.rows }] } }) ∧
      (s.fatal = false → s.stage ≠ 2 → 0x20000000 ≤ e.addr → e.addr < 0x40000000 → Completes .write s (fun t =>
        (t.mailbox.drop (e.addr - 0x20000000)).take e.bytes.length = e.bytes ∧ { t with mailbox := s.mailbox } = s)) ∧
      (s.fatal = false → s.stage = 2 → ∀ img, e.addr = 0x20000000 → e.bytes = leBytes 8 img.length ++ img → img ≠ [] →
        img.length < 2 ^ 28 → (Config.goodImage img = true → Completes .write s (fun t => t.stage = 3 ∧ t.bootcode = 0 ∧ t.image = img ∧
            FMap.get [] t.meas 1 = sha512 (padTo 64 (FMap.get [] s.meas 1) ++ sha512 img))) ∧
          (Config.goodImage img = false → Completes .write s (fun t => t.stage = 2 ∧ t.bootcode = 0xE1 ∧ t.meas = s.meas)))) ∧
    (¬ on → exec .status s = .next { s with readData := [] } ∧ exec .read s = .next { s with readData := [] } ∧ exec .write s = .next s) ∧
    (e.index < 12 → e.index ∉ s.hung → exec .heartbeat s = .next { s with beats := FMap.set 0 s.beats e.index s.wall } ∧
      (e.flag = false → silent → s.hung.length < 11 → Completes .hang s (fun t => t.hung = e.index :: s.hung ∧ t.fatal = s.fatal ∧
        ∃ it ∈ t.agenda, s.wall < it.time ∧ it.time ≤ s.wall + 440000 ∧ it.work = .event ⟨.hang, { index := e.index, flag := true }⟩)) ∧
      (e.flag = false → silent → 11 ≤ s.hung.length → Completes .hang s (fun t => t.fatal = true ∧ t.stage = 5))) ∧
    (e.flag = true → Completes .hang s (fun t => (∀ i, i ∈ t.hung ↔ i ∈ s.hung ∧ i ≠ e.index) ∧ FMap.get 0 t.beats e.index = s.wall)) ∧
    (3 ≤ s.stage → s.stage ≠ 5 → exec .pcieLinkUp s = .next { s with pcieUp := true, stage := 4 })

/-- R445, R450, R451, R457, R458: main power starts the boot with nothing of the device left from before; its loss, and a thermal trip, leave nothing; a
fundamental reset starts the boot and keeps the dump; a function-level reset ends the partition's instances and clears its rings and
grants, a hot reset those of every function; a fatal error ends every instance and writes the dump. The insides of the dump, and
the one cycle of stage 1, are the model's choice (log entries 36, 37). -/
def Obligations.PowerAndResetsClear : Prop :=
  ∀ (s : State),
    let e := s.ev
    let Fresh (t : State) : Prop := t.mem = s.mem.filter (fun p => hostAddr 0 ≤ p.1) ∧ t.cores = [] ∧ t.cols = [] ∧ t.groups = [] ∧ t.insts = [] ∧ t.parts = [] ∧ t.queues = [] ∧
      t.launches = [] ∧ t.agenda = [] ∧ t.wall = s.wall ∧ t.inputs = s.inputs ∧ t.fatal = false
    let Booting (t : State) : Prop := Fresh t ∧ t.powered = true ∧ t.stage = 1 ∧
      FMap.get [] t.meas 0 = sha512 (List.replicate 64 0 ++ sha512 Config.romImage)
    let there (fn : Nat) : Prop := fn = 0 ∨ (fn ≤ 7 ∧ (s.part fn).live = true)
    let Cleared (fn : Nat) (t : State) : Prop := (t.part fn).subs = [] ∧ (t.part fn).events = [] ∧ (t.part fn).regs = [] ∧
      (t.part fn).hostRanges = [] ∧ (t.part fn).windowTable = [] ∧ (t.part fn).winErr = false ∧ (t.part fn).live = (s.part fn).live ∧
      (∀ c ∈ t.completions, c.part ≠ fn) ∧
      ∀ q ∈ s.insts, q.2.part = fn → q.2.status = none → (s.inst q.1).status = none → (t.inst q.1).status = some 8
    Completes .mainPower s (fun t => Booting t ∧ t.mgmtFrom = s.wall + 88000000 ∧ t.dump = []) ∧
    (∀ i ∈ [Instr.mainPowerLoss, .thermalTrip], Completes i s (fun t => Fresh t ∧ t.powered = false ∧ t.dump = [] ∧ t.meas = [])) ∧
    Completes .fundamentalReset s (fun t => Booting t ∧ t.dump = s.dump ∧ t.mgmtFrom = s.mgmtFrom) ∧
    (s.powered = true → s.mgmtFrom ≤ s.wall → Completes .reset s (fun t => Booting t ∧ t.dump = s.dump)) ∧
    (s.powered = false ∨ s.wall < s.mgmtFrom → exec .reset s = .next s) ∧
    (there e.fn → Completes .flr s (fun t => Cleared e.fn t ∧ (e.fn = 0 → t.admin = {}))) ∧
    Completes .hotReset s (fun t => t.pcieUp = false ∧ t.admin = {} ∧ t.stage = s.stage ∧ ∀ fn, there fn → Cleared fn t) ∧
    Completes .fatalError s (fun t => t.fatal = true ∧ t.stage = 5 ∧ leAt t.dump 0 4 = 0x594C4450 ∧ leAt t.dump 8 8 = e.value % 2 ^ 64 ∧
      ∀ q ∈ s.insts, (s.inst q.1).status = none → (t.inst q.1).status = some 7)

/-! ### Encoding (02) -/

/-- R50 to R64: slot words that the spec writes out stand for the instructions it names, of every space; a set required-zero bit, a
reserved opcode, an H that is forbidden and an unknown code are refused by name, and a card on a port 0 is UNREACHABLE. -/
def Obligations.WordsDecodeToTheirInstructions : Prop :=
  let card (q a w g : Nat) : Card := { queue := q, a := idx 63 a, wait := BitVec.ofNat 16 w, signal := BitVec.ofNat 16 g }
  let Is (sp : Space) (w l : Word32) (i : Instr) : Prop := decodeSlot sp w l = .ok { hold := false, neg := false, guard := 0, op := i }
  Is .c 0x0130C415 0 (.mulh ⟨3, 4, 5, .w32⟩) ∧ Is .c 0x03B18861 0 (.hadv 3 2 6 true) ∧
  Is .c 0x02F14002 0 (.movi 5 2) ∧ Is .c 0x04927FFE 0 (.loop 9 0x3FFE) ∧
  Is .m 0x00106000 7 (.mcfg 6 7) ∧ Is .m 0x00300000 0 .mswap ∧ Is .m 0x00400001 0 (.mgo true) ∧ Is .m 0x00800000 0x603 (.mepi 0x603) ∧
  decodeSlot .v 0x88110020 0 = .ok { hold := true, neg := false, guard := 1, op := .vadd ⟨2, 0, 1, .i32, 0⟩ } ∧
  Is .v 0x004E640A 0 (.vmac ⟨28, 25, 0, .i8x4, 2⟩) ∧ Is .v 0x018D7040 0 (.vcvt ⟨26, 28, 2, .i32, 0⟩) ∧
  Is .v 0x02620C21 0 (.vscanr ⟨4, 3, 1, .i32, 1⟩) ∧
  Is .x 0x00212400 0x05804123 (.drd 1 9 2 ⟨0, 0x123⟩ true 5) ∧
  Is .x 0x01108600 0x00010002 (.qstep (card 2 6 1 2) 0) ∧ Is .x 0x01B04900 0x00040008 (.kcommit (card 1 9 4 8)) ∧
  Is .x 0x02C06009 4 (.gaccept 0 (card 3 9 0 4)) ∧ Is .x 0x03900500 1 (.wtick (card 0 5 0 1)) ∧
  Is .x 0x0412478C 2 (.nrecv 2 (card 1 7 0 2) 2 12) ∧ Is .x 0x04210500 1 (.nred 1 (card 0 5 0 1)) ∧
  Is .x 0x04B00400 1 (.frecl (card 0 4 0 1)) ∧
  decodeSlot .x 0x54210500 1 = .ok { hold := false, neg := true, guard := 2, op := .nred 1 (card 0 5 0 1) } ∧
  Is .t 0x00110840 0 (.ldq .mb 1 0x40) ∧
  decodeSlot .c 0x00300001 0 = .error .reservedBits ∧ decodeSlot .c 0x00B00000 0 = .error .reservedOpcode ∧
  decodeSlot .c 0x82F14002 0 = .error .hold ∧ decodeSlot .t 0x00190001 0 = .error .code ∧
  decodeSlot .x 0x04200500 1 = .error .inst ∧ decodeSlot .x 0x01B04901 0 = .error .sub ∧ decodeSlot .m 0x00800000 0x800 = .error .operand

/-- R50, R54, R56, R58 to R63: encoding and decoding agree on every slot, with every operand at every value its encoding admits. A
well-formed slot that its space encodes decodes back to itself from its words, one or two of them as its opcode takes a literal; and a word
that decodes is the word its slot encodes to, with the literal where the opcode takes one: no bit of a word goes unread. -/
def Obligations.EncodingAndDecodingAgree : Prop :=
  (∀ (sp : Space) (sl : Slot) (ws : List Word32), sl.op.wf = true → (sl.hold = true → holdAllowed sp sl.op = true) →
    encodeSlot sp sl = some ws → decodeSlot sp (ws.headD 0) (ws[1]?.getD 0) = .ok sl ∧
      ws.length = (if takesLiteral sp ((ws.headD 0).toNat / 2 ^ 20 % 2 ^ 7) then 2 else 1)) ∧
  (∀ (sp : Space) (sl : Slot) (w l : Word32), decodeSlot sp w l = .ok sl →
    sl.op.wf = true ∧ (sl.hold = true → holdAllowed sp sl.op = true) ∧
    encodeSlot sp sl = some (if takesLiteral sp (w.toNat / 2 ^ 20 % 2 ^ 7) then [w, l] else [w]))

/-! ### The step (01, 02) -/

/-- R10, R22, R52, R55: an event due at the device, or one that arrives and that the device hears, runs as its instruction; and where the words at a running core's pc split into a bundle of
one slot that decodes, its guard true, and the core is the one live core of a running group of one colonnade with nothing due before it, the
step runs exec of that instruction at the fetched and looked-ahead state, with the pc past the bundle's words; what the step adds is afterIssue
(hold, stop point, the next fetch) and afterCycle (barriers, stop points); a trap that exec raises is taken in its place, from the state
before the bundle, and so is one that the bundle's scheduled work comes to later and that is precise at it (R463, by the model's search of
log entry 10). -/
def Obligations.StepRunsTheDecodedInstruction : Prop :=
  ∀ (s : State), s.Alive →
    (∀ it rest e, s.timely = true → s.agenda = it :: rest → it.work = .event e →
      step s = exec e.op { s with agenda := rest, ev := e.args }) ∧
    (∀ t e rest, s.timely = false → s.inputs = (t, e) :: rest → t ≤ s.wall →
      (s.hears e.op = true → step s = exec e.op { s with inputs := rest, ev := e.args }) ∧
      (s.hears e.op = false → step s = .next { s with inputs := rest })) ∧
    (s.inputs = [] →
      (∀ it rest e, s.agenda = it :: rest → it.time ≤ s.wall → it.work = .event e →
        step s = exec e.op { s with agenda := rest, ev := e.args }) ∧
      ∀ (g k x : Nat) (b : RawBundle) (r : RawSlot) (sl : Slot) (u : State),
        let gr := s.group g
        let c := s.core k
        let n := gr.sched
        let ws := s.fetchWords k c.pc
        let wait := if c.noIdle then 0 else (ws.headD 0).toNat % 2 ^ 20
        let s0 := s.setGroup g { gr with checked := true, debtAt := max gr.debtAt (n + 1) }
        let s1 := s0.setCore k { c with fetched := ws, issueAt := c.fetchAt + wait }
        let p := noteResizes s1 n [k]
        let s2 := lookCore p p p k n none
        let d := s2.core k
        let a : Act := ⟨r.slot, sl, r.addr, r.word.toNat, false⟩
        let at_ : State := { s2.modCore k (fun c => { c with pc := c.pc + b.len, barrierAt := c.pc }) with
          here := hereOf k a c.pc (c.pc + b.len) n b.stop .issue, trapNow := none }
        let issued := u.modCore k (fun c => c.afterIssue d b [a] n (s2.lookDist k))
        let cycleEnds (v : State) : State :=
          if (v.group g).phase = .run then
            afterCycle v g n (Config.lookAhead 1) [k] ([k].filter (fun j => !(v.col (colOf j)).stopped)) [b]
          else v
        s.agenda = [] → s.groupKeys.find? s.pulseDue = none → s.groupKeys[s.cursor]? = some g →
        gr.phase = .run → gr.agenda = [] → gr.checked = false → gr.freezeAt = none → gr.endAt = none → gr.freezeAfter = false →
        gr.conds = [] → gr.later = [] → (∀ j ∈ gr.coreList, (s.core j).shadow = false) →
        gr.barrier = none → gr.cols = [x] → (s.col x).chans = [] → s.runCores g = [k] → s.liveCores g = [k] →
        c.fetched = [] → c.irqNow = false → c.fetchAt + wait ≤ n →
        splitBundle c.pc ws = some b → b.slots = [r] → r.slot < 6 → r.decode = .ok sl →
        firstBundleTrap s1 k n = none → (s2.group g).phase = .run →
        d.pc = c.pc → d.fetched = ws → d.hold = [] → d.rep.active = false → d.skipC = false → guardOf sl d = true →
        exec sl.op at_ = .next u →
        let trapped (t : Trap) : State := cycleEnds ((s0.unarm g).takeTraps [(t, t.cause = .swTrap && unguardedTrap s2 t.core)])
        (u.trapNow = none → (cycleEnds issued).lateAt g n = none → step s = .next (cycleEnds issued)) ∧
        (∀ t, u.trapNow = none → (cycleEnds issued).lateAt g n = some t → t.core = k → (trapped t).lateAt g n = none →
          step s = .next (trapped t)) ∧
        (∀ t, u.trapNow = some t → (trapped t).lateAt g n = none → step s = .next (trapped t)))

/-- R445, R450: a step answers a next state for every state, but where main power is off or a fatal error has happened and nothing is to
come: no instruction and no event stops the device by a fault or a refusal of the model. -/
def Obligations.StepNeverStops : Prop :=
  ∀ (s : State), (∃ t, step s = .next t) ∨
    (s.inputs = [] ∧ ((s.powered = false ∧ step s = .fault .poweredOff) ∨ (s.powered = true ∧ s.fatal = true ∧ step s = .fault .fatal)))

/-- R102 and the model's own form of memory: a step keeps the byte memory in its one canonical form, whatever it runs. -/
def Obligations.StepKeepsMemoryCanonical : Prop :=
  ∀ (s t : State), s.Canonical → step s = .next t → t.Canonical

/-- R129, R446, R450, R451: after reset memory is empty and in canonical form, every core is idle with its registers zero but p0, no
flag or interrupt stands, no instance, launch, partition, card or event is there, and main power is on with nothing booted. Zero registers before a first
launch are the model's choice (log entry 3); R129 gives them at a first launch. -/
def Obligations.ResetLeavesTheMachineClear : Prop :=
  let s := State.reset
  s.Canonical ∧ s.Alive ∧ s.mem = [] ∧ s.tags = [] ∧ s.wall = 0 ∧ s.inputs = [] ∧ s.agenda = [] ∧ s.insts = [] ∧ s.launches = [] ∧
  s.parts = [] ∧ s.queues = [] ∧ s.groups = [] ∧ s.stage = 0 ∧
  ∀ k, (s.core k).mode = .idle ∧ (s.core k).pc = 0 ∧ (s.core k).shadow = false ∧ (s.core k).aflags = 0 ∧ (s.core k).imask = 0 ∧
    (s.core k).ipend = 0 ∧ (s.core k).epc = 0 ∧ (s.core k).tcause = 0 ∧ (s.core k).tval = 0 ∧ (s.core k).hold = [] ∧
    (∀ r, (s.core k).sreg r = 0) ∧ (∀ p, (s.core k).preg p = (p == 0)) ∧ ∀ a, s.mem.read a = 0
end

