-- ==== Sys2Proof/Laws/Store.lean ====
section
/-! SUPPORT. The laws of sparse maps and of byte memory: a read after a write, other keys, and the canonical form that every
write keeps. -/

namespace Sys2Proof.Machine

section Maps
variable {α : Type}

theorem FMap.get_put_same (d v : α) (m : FMap α) (i : Nat) : FMap.get d (FMap.put i v m) i = v := by
  induction m with
  | nil => simp [FMap.put, FMap.get]
  | cons p r ih =>
    obtain ⟨k, w⟩ := p
    simp only [FMap.put]
    split
    · simp [FMap.get]
    · split
      · simp [FMap.get]
      · simp [FMap.get, *]

theorem FMap.get_put_ne (d v : α) (m : FMap α) {i j : Nat} (h : j ≠ i) :
    FMap.get d (FMap.put i v m) j = FMap.get d m j := by
  induction m with
  | nil => simp [FMap.put, FMap.get, h.symm]
  | cons p r ih =>
    obtain ⟨k, w⟩ := p
    simp only [FMap.put]
    split
    · simp [FMap.get, h.symm]
    · split
      · simp_all [FMap.get, h.symm]
      · simp [FMap.get, ih]

theorem FMap.get_drop_same (d : α) (m : FMap α) (i : Nat) : FMap.get d (FMap.drop i m) i = d := by
  induction m with
  | nil => simp [FMap.drop, FMap.get]
  | cons p r ih =>
    simp only [FMap.drop]
    split <;> simp_all [FMap.get]

theorem FMap.get_drop_ne (d : α) (m : FMap α) {i j : Nat} (h : j ≠ i) :
    FMap.get d (FMap.drop i m) j = FMap.get d m j := by
  induction m with
  | nil => rfl
  | cons p r ih =>
    simp only [FMap.drop]
    split <;> simp_all [FMap.get, h.symm]

variable [DecidableEq α]

/-- A key reads as what was last written to it. -/
@[simp] theorem FMap.get_set_same (d v : α) (m : FMap α) (i : Nat) : FMap.get d (FMap.set d m i v) i = v := by
  simp only [FMap.set]
  split
  · next h => rw [FMap.get_drop_same, h]
  · exact FMap.get_put_same d v m i

/-- A write leaves every other key alone. -/
theorem FMap.get_set_ne (d v : α) (m : FMap α) {i j : Nat} (h : j ≠ i) :
    FMap.get d (FMap.set d m i v) j = FMap.get d m j := by
  simp only [FMap.set]
  split
  · exact FMap.get_drop_ne d m h
  · exact FMap.get_put_ne d v m h

theorem FMap.get_set (d v : α) (m : FMap α) (i j : Nat) :
    FMap.get d (FMap.set d m i v) j = if j = i then v else FMap.get d m j := by
  split
  · next h => rw [h, FMap.get_set_same]
  · next h => exact FMap.get_set_ne d v m h

/-- Raising the lower bound of a well-formed map's keys. -/
theorem FMap.wfFrom_none {d : α} {b : Option Nat} {m : FMap α} (h : FMap.wfFrom d b m = true) :
    FMap.wfFrom d none m = true := by
  cases m with
  | nil => rfl
  | cons p r => simp_all [FMap.wfFrom]

theorem FMap.wfFrom_lower {d : α} {a b : Nat} {m : FMap α} (h : FMap.wfFrom d (some b) m = true) (hab : a ≤ b) :
    FMap.wfFrom d (some a) m = true := by
  cases m with
  | nil => rfl
  | cons p r =>
    simp only [FMap.wfFrom, Bool.and_eq_true, decide_eq_true_eq] at h ⊢
    exact ⟨⟨by omega, h.1.2⟩, h.2⟩

theorem FMap.wfFrom_put {d v : α} (hv : v ≠ d) (i : Nat) :
    ∀ (b : Option Nat) (m : FMap α), FMap.wfFrom d b m = true → (∀ x, b = some x → x < i) →
      FMap.wfFrom d b (FMap.put i v m) = true
  | none, [], _, _ => by simp [FMap.put, FMap.wfFrom, hv]
  | some x, [], _, hb => by simp [FMap.put, FMap.wfFrom, hv, hb x rfl]
  | b, (k, w) :: r, hm, hb => by
    simp only [FMap.wfFrom, Bool.and_eq_true, decide_eq_true_eq] at hm
    simp only [FMap.put]
    split
    · next hik =>
      cases b with
      | none => simp [FMap.wfFrom, hv, hik, hm.1.2, hm.2]
      | some x => simp [FMap.wfFrom, hv, hik, hm.1.2, hm.2, hb x rfl]
    · split
      · next hki =>
        subst hki
        cases b <;> simp_all [FMap.wfFrom]
      · have := FMap.wfFrom_put hv i (some k) r hm.2 (by intro x hx; cases hx; omega)
        cases b <;> simp_all [FMap.wfFrom]

theorem FMap.wfFrom_drop {d : α} (i : Nat) :
    ∀ (b : Option Nat) (m : FMap α), FMap.wfFrom d b m = true → FMap.wfFrom d b (FMap.drop i m) = true
  | _, [], _ => rfl
  | b, (k, w) :: r, hm => by
    simp only [FMap.wfFrom, Bool.and_eq_true, decide_eq_true_eq] at hm
    have ih := FMap.wfFrom_drop i (some k) r hm.2
    simp only [FMap.drop]
    split
    · cases b with
      | none => exact FMap.wfFrom_none ih
      | some x => exact FMap.wfFrom_lower ih (by have := hm.1.1; simp at this; omega)
    · cases b <;> simp_all [FMap.wfFrom]

/-- Every write of a sparse map keeps its canonical form. -/
theorem FMap.wf_set (d v : α) (m : FMap α) (i : Nat) (h : FMap.wf d m = true) : FMap.wf d (FMap.set d m i v) = true := by
  simp only [FMap.set]
  split
  · exact FMap.wfFrom_drop i none m h
  · next hv => exact FMap.wfFrom_put hv i none m h (by simp)

/-- Removing entries keeps the canonical form. -/
theorem FMap.wfFrom_filter {d : α} (p : Nat × α → Bool) :
    ∀ (b : Option Nat) (m : FMap α), FMap.wfFrom d b m = true → FMap.wfFrom d b (List.filter p m) = true
  | _, [], _ => rfl
  | b, (k, w) :: r, hm => by
    simp only [FMap.wfFrom, Bool.and_eq_true, decide_eq_true_eq] at hm
    have ih := FMap.wfFrom_filter p (some k) r hm.2
    rw [List.filter_cons]
    split
    · cases b <;> simp_all [FMap.wfFrom]
    · cases b with
      | none => exact FMap.wfFrom_none ih
      | some x => exact FMap.wfFrom_lower ih (by have := hm.1.1; simp at this; omega)

/-! ### Two maps woven into one -/

theorem FMap.wfFrom_dropWhile {d : α} (k : Nat) :
    ∀ (b : Option Nat) (m : FMap α), FMap.wfFrom d b m = true → FMap.wfFrom d (some k) (m.dropWhile (fun p => p.1 ≤ k)) = true
  | _, [], _ => rfl
  | b, (j, w) :: r, hm => by
    simp only [FMap.wfFrom, Bool.and_eq_true, decide_eq_true_eq] at hm
    rw [List.dropWhile_cons]
    split
    · exact FMap.wfFrom_dropWhile k (some j) r hm.2
    · next h =>
      have h : k < j := by simpa using h
      simp [FMap.wfFrom, hm.1.2, hm.2, h]

theorem FMap.wfFrom_takeWhile {d v : α} (hv : v ≠ d) (k : Nat) (t : FMap α) (ht : FMap.wfFrom d (some k) t = true) :
    ∀ (b : Option Nat) (m : FMap α), FMap.wfFrom d b m = true → (∀ x, b = some x → x < k) →
      FMap.wfFrom d b (m.takeWhile (fun p => p.1 < k) ++ (k, v) :: t) = true
  | b, [], _, hb => by
    cases b with
    | none => simp [FMap.wfFrom, hv, ht]
    | some x => simp [FMap.wfFrom, hv, ht, hb x rfl]
  | b, (j, w) :: r, hm, hb => by
    simp only [FMap.wfFrom, Bool.and_eq_true, decide_eq_true_eq] at hm
    rw [List.takeWhile_cons]
    split
    · next h =>
      have := FMap.wfFrom_takeWhile hv k t ht (some j) r hm.2 (by intro x hx; cases hx; simpa using h)
      cases b <;> simp_all [FMap.wfFrom]
    · exact FMap.wfFrom_takeWhile hv k t ht b [] rfl hb

/-- Weaving keeps the canonical form. -/
theorem FMap.wfFrom_weave {d : α} :
    ∀ (b : Option Nat) (l m : FMap α), FMap.wfFrom d b l = true → FMap.wfFrom d b m = true → FMap.wfFrom d b (FMap.weave l m) = true
  | _, [], _, _, hm => hm
  | b, (k, v) :: r, m, hl, hm => by
    simp only [FMap.wfFrom, Bool.and_eq_true, decide_eq_true_eq] at hl
    refine FMap.wfFrom_takeWhile hl.1.2 k _ (FMap.wfFrom_weave (some k) r _ hl.2 (FMap.wfFrom_dropWhile k b m hm)) b m hm ?_
    rintro x rfl
    simpa using hl.1.1

/-- A dense list, its defaults left out, is canonical. -/
theorem FMap.wfFrom_ofList {d : α} :
    ∀ (l : List α) (a : Nat) (b : Option Nat), (∀ x, b = some x → x < a) → FMap.wfFrom d b (FMap.ofList d a l) = true
  | [], _, _, _ => rfl
  | v :: r, a, b, h => by
    rw [FMap.ofList]
    split
    · exact FMap.wfFrom_ofList r (a + 1) b (fun x hx => Nat.lt_succ_of_lt (h x hx))
    · next hv =>
      have := FMap.wfFrom_ofList (d := d) r (a + 1) (some a) (by intro x hx; cases hx; omega)
      cases b with
      | none => simp [FMap.wfFrom, hv, this]
      | some x => simp [FMap.wfFrom, hv, this, h x rfl]

end Maps

/-! ### Byte memory -/

/-- A byte reads as what was last written to it. -/
@[simp] theorem Memory.read_write_same (m : Memory) (a : Nat) (b : Byte) : (m.write a b).read a = b :=
  FMap.get_set_same _ _ _ _

/-- A byte write leaves every other address alone. -/
theorem Memory.read_write_ne (m : Memory) {a x : Nat} (b : Byte) (h : x ≠ a) : (m.write a b).read x = m.read x :=
  FMap.get_set_ne _ _ _ h

theorem Memory.write_wf (m : Memory) (a : Nat) (b : Byte) (h : m.wf = true) : (m.write a b).wf = true :=
  FMap.wf_set _ _ _ _ h

/-- A wide write leaves every address outside its bytes alone. -/
theorem Memory.read_writeBytes_out (m : Memory) (a x : Nat) (bs : List Byte) (h : x < a ∨ a + bs.length ≤ x) :
    (m.writeBytes a bs).read x = m.read x := by
  induction bs generalizing m a with
  | nil => rfl
  | cons b r ih =>
    simp only [List.length_cons] at h
    rw [Memory.writeBytes, ih _ _ (by omega), Memory.read_write_ne _ _ (by omega)]

/-- A wide write's bytes read as written. -/
theorem Memory.read_writeBytes_in (m : Memory) (a i : Nat) (bs : List Byte) (h : i < bs.length) :
    (m.writeBytes a bs).read (a + i) = bs[i] := by
  induction bs generalizing m a i with
  | nil => simp at h
  | cons b r ih =>
    rw [Memory.writeBytes]
    cases i with
    | zero =>
      simpa using (Memory.read_writeBytes_out (m.write a b) (a + 1) a r (by omega)).trans (Memory.read_write_same m a b)
    | succ j =>
      have := ih (m.write a b) (a + 1) j (by simpa using h)
      simpa [Nat.add_assoc, Nat.add_comm 1 j] using this

/-- Reading back a wide write. -/
theorem Memory.readBytes_writeBytes (m : Memory) (a : Nat) (bs : List Byte) :
    (m.writeBytes a bs).readBytes a bs.length = bs := by
  apply List.ext_getElem
  · simp [Memory.readBytes]
  · intro i h1 h2
    simp [Memory.readBytes, Memory.read_writeBytes_in _ _ _ _ h2]

/-- Every wide write keeps the canonical form. -/
theorem Memory.writeBytes_wf (m : Memory) (a : Nat) (bs : List Byte) (h : m.wf = true) : (m.writeBytes a bs).wf = true := by
  induction bs generalizing m a with
  | nil => exact h
  | cons b r ih => exact ih _ _ (Memory.write_wf _ _ _ h)

/-- Taking a region out of memory keeps the canonical form. -/
theorem Memory.filter_wf (m : Memory) (p : Nat × Byte → Bool) (h : m.wf = true) : Memory.wf (List.filter p m) = true :=
  FMap.wfFrom_filter p none m h

/-- One memory woven of two is canonical. -/
theorem Memory.weave_wf (l m : Memory) (hl : l.wf = true) (hm : m.wf = true) : Memory.wf (FMap.weave l m) = true :=
  FMap.wfFrom_weave none l m hl hm

/-- Scrubbing a range, and replacing one whole, keep the canonical form. -/
theorem Memory.scrub_wf (m : Memory) (a n : Nat) (h : m.wf = true) : (m.scrub a n).wf = true := m.filter_wf _ h
theorem Memory.replace_wf (m : Memory) (a : Nat) (bs : List Byte) (h : m.wf = true) : (m.replace a bs).wf = true :=
  Memory.weave_wf _ _ (m.scrub_wf a _ h) (FMap.wfFrom_ofList bs a none (by simp))

end Sys2Proof.Machine
end

