-- ==== Sys2Proof/Laws/State.lean ====
section
/-! SUPPORT. What each update of the state leaves: one lemma per field per update, and the reads of the sparse parts after
their writes. -/

namespace Sys2Proof.Machine

/-! ### setCore -/

@[simp] theorem State.setCore_powered (s : State) (k : Nat) (v : Core) : (s.setCore k v).powered = s.powered := rfl
@[simp] theorem State.setCore_fatal (s : State) (k : Nat) (v : Core) : (s.setCore k v).fatal = s.fatal := rfl
@[simp] theorem State.setCore_wall (s : State) (k : Nat) (v : Core) : (s.setCore k v).wall = s.wall := rfl
@[simp] theorem State.setCore_cursor (s : State) (k : Nat) (v : Core) : (s.setCore k v).cursor = s.cursor := rfl
@[simp] theorem State.setCore_inputs (s : State) (k : Nat) (v : Core) : (s.setCore k v).inputs = s.inputs := rfl
@[simp] theorem State.setCore_ev (s : State) (k : Nat) (v : Core) : (s.setCore k v).ev = s.ev := rfl
@[simp] theorem State.setCore_agenda (s : State) (k : Nat) (v : Core) : (s.setCore k v).agenda = s.agenda := rfl
@[simp] theorem State.setCore_ctr (s : State) (k : Nat) (v : Core) : (s.setCore k v).ctr = s.ctr := rfl
@[simp] theorem State.setCore_here (s : State) (k : Nat) (v : Core) : (s.setCore k v).here = s.here := rfl
@[simp] theorem State.setCore_trapNow (s : State) (k : Nat) (v : Core) : (s.setCore k v).trapNow = s.trapNow := rfl
@[simp] theorem State.setCore_mem (s : State) (k : Nat) (v : Core) : (s.setCore k v).mem = s.mem := rfl
@[simp] theorem State.setCore_tags (s : State) (k : Nat) (v : Core) : (s.setCore k v).tags = s.tags := rfl
@[simp] theorem State.setCore_olds (s : State) (k : Nat) (v : Core) : (s.setCore k v).olds = s.olds := rfl
@[simp] theorem State.setCore_since (s : State) (k : Nat) (v : Core) : (s.setCore k v).since = s.since := rfl
@[simp] theorem State.setCore_work (s : State) (k : Nat) (v : Core) : (s.setCore k v).work = s.work := rfl
@[simp] theorem State.setCore_port (s : State) (k : Nat) (v : Core) : (s.setCore k v).port = s.port := rfl
@[simp] theorem State.setCore_wrote (s : State) (k : Nat) (v : Core) : (s.setCore k v).wrote = s.wrote := rfl
@[simp] theorem State.setCore_errs (s : State) (k : Nat) (v : Core) : (s.setCore k v).errs = s.errs := rfl
@[simp] theorem State.setCore_cols (s : State) (k : Nat) (v : Core) : (s.setCore k v).cols = s.cols := rfl
@[simp] theorem State.setCore_groups (s : State) (k : Nat) (v : Core) : (s.setCore k v).groups = s.groups := rfl
@[simp] theorem State.setCore_queues (s : State) (k : Nat) (v : Core) : (s.setCore k v).queues = s.queues := rfl
@[simp] theorem State.setCore_turns (s : State) (k : Nat) (v : Core) : (s.setCore k v).turns = s.turns := rfl
@[simp] theorem State.setCore_starting (s : State) (k : Nat) (v : Core) : (s.setCore k v).starting = s.starting := rfl
@[simp] theorem State.setCore_notices (s : State) (k : Nat) (v : Core) : (s.setCore k v).notices = s.notices := rfl
@[simp] theorem State.setCore_da (s : State) (k : Nat) (v : Core) : (s.setCore k v).da = s.da := rfl
@[simp] theorem State.setCore_seqs (s : State) (k : Nat) (v : Core) : (s.setCore k v).seqs = s.seqs := rfl
@[simp] theorem State.setCore_pools (s : State) (k : Nat) (v : Core) : (s.setCore k v).pools = s.pools := rfl
@[simp] theorem State.setCore_readers (s : State) (k : Nat) (v : Core) : (s.setCore k v).readers = s.readers := rfl
@[simp] theorem State.setCore_leaving (s : State) (k : Nat) (v : Core) : (s.setCore k v).leaving = s.leaving := rfl
@[simp] theorem State.setCore_copies (s : State) (k : Nat) (v : Core) : (s.setCore k v).copies = s.copies := rfl
@[simp] theorem State.setCore_assumptions (s : State) (k : Nat) (v : Core) : (s.setCore k v).assumptions = s.assumptions := rfl
@[simp] theorem State.setCore_outcomes (s : State) (k : Nat) (v : Core) : (s.setCore k v).outcomes = s.outcomes := rfl
@[simp] theorem State.setCore_samp (s : State) (k : Nat) (v : Core) : (s.setCore k v).samp = s.samp := rfl
@[simp] theorem State.setCore_dtSec (s : State) (k : Nat) (v : Core) : (s.setCore k v).dtSec = s.dtSec := rfl
@[simp] theorem State.setCore_dtNs (s : State) (k : Nat) (v : Core) : (s.setCore k v).dtNs = s.dtNs := rfl
@[simp] theorem State.setCore_dtFrac (s : State) (k : Nat) (v : Core) : (s.setCore k v).dtFrac = s.dtFrac := rfl
@[simp] theorem State.setCore_dtPast (s : State) (k : Nat) (v : Core) : (s.setCore k v).dtPast = s.dtPast := rfl
@[simp] theorem State.setCore_inc (s : State) (k : Nat) (v : Core) : (s.setCore k v).inc = s.inc := rfl
@[simp] theorem State.setCore_clock (s : State) (k : Nat) (v : Core) : (s.setCore k v).clock = s.clock := rfl
@[simp] theorem State.setCore_ticks (s : State) (k : Nat) (v : Core) : (s.setCore k v).ticks = s.ticks := rfl
@[simp] theorem State.setCore_rules (s : State) (k : Nat) (v : Core) : (s.setCore k v).rules = s.rules := rfl
@[simp] theorem State.setCore_streams (s : State) (k : Nat) (v : Core) : (s.setCore k v).streams = s.streams := rfl
@[simp] theorem State.setCore_watches (s : State) (k : Nat) (v : Core) : (s.setCore k v).watches = s.watches := rfl
@[simp] theorem State.setCore_deliveries (s : State) (k : Nat) (v : Core) : (s.setCore k v).deliveries = s.deliveries := rfl
@[simp] theorem State.setCore_timeQueues (s : State) (k : Nat) (v : Core) : (s.setCore k v).timeQueues = s.timeQueues := rfl
@[simp] theorem State.setCore_ports (s : State) (k : Nat) (v : Core) : (s.setCore k v).ports = s.ports := rfl
@[simp] theorem State.setCore_modNum (s : State) (k : Nat) (v : Core) : (s.setCore k v).modNum = s.modNum := rfl
@[simp] theorem State.setCore_links (s : State) (k : Nat) (v : Core) : (s.setCore k v).links = s.links := rfl
@[simp] theorem State.setCore_parts (s : State) (k : Nat) (v : Core) : (s.setCore k v).parts = s.parts := rfl
@[simp] theorem State.setCore_insts (s : State) (k : Nat) (v : Core) : (s.setCore k v).insts = s.insts := rfl
@[simp] theorem State.setCore_launches (s : State) (k : Nat) (v : Core) : (s.setCore k v).launches = s.launches := rfl
@[simp] theorem State.setCore_completions (s : State) (k : Nat) (v : Core) : (s.setCore k v).completions = s.completions := rfl
@[simp] theorem State.setCore_leases (s : State) (k : Nat) (v : Core) : (s.setCore k v).leases = s.leases := rfl
@[simp] theorem State.setCore_admin (s : State) (k : Nat) (v : Core) : (s.setCore k v).admin = s.admin := rfl
@[simp] theorem State.setCore_triggers (s : State) (k : Nat) (v : Core) : (s.setCore k v).triggers = s.triggers := rfl
@[simp] theorem State.setCore_journal (s : State) (k : Nat) (v : Core) : (s.setCore k v).journal = s.journal := rfl
@[simp] theorem State.setCore_beats (s : State) (k : Nat) (v : Core) : (s.setCore k v).beats = s.beats := rfl
@[simp] theorem State.setCore_hung (s : State) (k : Nat) (v : Core) : (s.setCore k v).hung = s.hung := rfl
@[simp] theorem State.setCore_dump (s : State) (k : Nat) (v : Core) : (s.setCore k v).dump = s.dump := rfl
@[simp] theorem State.setCore_stage (s : State) (k : Nat) (v : Core) : (s.setCore k v).stage = s.stage := rfl
@[simp] theorem State.setCore_bootcode (s : State) (k : Nat) (v : Core) : (s.setCore k v).bootcode = s.bootcode := rfl
@[simp] theorem State.setCore_mgmtFrom (s : State) (k : Nat) (v : Core) : (s.setCore k v).mgmtFrom = s.mgmtFrom := rfl
@[simp] theorem State.setCore_powerMode (s : State) (k : Nat) (v : Core) : (s.setCore k v).powerMode = s.powerMode := rfl
@[simp] theorem State.setCore_powerGoal (s : State) (k : Nat) (v : Core) : (s.setCore k v).powerGoal = s.powerGoal := rfl
@[simp] theorem State.setCore_samples (s : State) (k : Nat) (v : Core) : (s.setCore k v).samples = s.samples := rfl
@[simp] theorem State.setCore_meas (s : State) (k : Nat) (v : Core) : (s.setCore k v).meas = s.meas := rfl
@[simp] theorem State.setCore_image (s : State) (k : Nat) (v : Core) : (s.setCore k v).image = s.image := rfl
@[simp] theorem State.setCore_newImage (s : State) (k : Nat) (v : Core) : (s.setCore k v).newImage = s.newImage := rfl
@[simp] theorem State.setCore_updating (s : State) (k : Nat) (v : Core) : (s.setCore k v).updating = s.updating := rfl
@[simp] theorem State.setCore_report (s : State) (k : Nat) (v : Core) : (s.setCore k v).report = s.report := rfl
@[simp] theorem State.setCore_mailbox (s : State) (k : Nat) (v : Core) : (s.setCore k v).mailbox = s.mailbox := rfl
@[simp] theorem State.setCore_readData (s : State) (k : Nat) (v : Core) : (s.setCore k v).readData = s.readData := rfl
@[simp] theorem State.setCore_pcieUp (s : State) (k : Nat) (v : Core) : (s.setCore k v).pcieUp = s.pcieUp := rfl
@[simp] theorem State.setCore_core_same (s : State) (k : Nat) (v : Core) : (s.setCore k v).core k = v :=
  FMap.get_set_same _ _ _ _
theorem State.setCore_core_ne (s : State) {k j : Nat} (v : Core) (h : j ≠ k) : (s.setCore k v).core j = s.core j :=
  FMap.get_set_ne _ _ _ h
theorem State.setCore_core (s : State) (k j : Nat) (v : Core) : (s.setCore k v).core j = if j = k then v else s.core j :=
  FMap.get_set _ _ _ _ _
@[simp] theorem State.setCore_col (s : State) (k j : Nat) (v : Core) : (s.setCore k v).col j = s.col j := rfl
@[simp] theorem State.setCore_group (s : State) (k j : Nat) (v : Core) : (s.setCore k v).group j = s.group j := rfl
@[simp] theorem State.setCore_inst (s : State) (k j : Nat) (v : Core) : (s.setCore k v).inst j = s.inst j := rfl
@[simp] theorem State.setCore_part (s : State) (k j : Nat) (v : Core) : (s.setCore k v).part j = s.part j := rfl
@[simp] theorem State.setCore_restore (s : State) (k : Nat) (v : Core) : { s.setCore k v with cores := s.cores } = s := rfl

/-! ### setCol -/

@[simp] theorem State.setCol_powered (s : State) (k : Nat) (v : Col) : (s.setCol k v).powered = s.powered := rfl
@[simp] theorem State.setCol_fatal (s : State) (k : Nat) (v : Col) : (s.setCol k v).fatal = s.fatal := rfl
@[simp] theorem State.setCol_wall (s : State) (k : Nat) (v : Col) : (s.setCol k v).wall = s.wall := rfl
@[simp] theorem State.setCol_cursor (s : State) (k : Nat) (v : Col) : (s.setCol k v).cursor = s.cursor := rfl
@[simp] theorem State.setCol_inputs (s : State) (k : Nat) (v : Col) : (s.setCol k v).inputs = s.inputs := rfl
@[simp] theorem State.setCol_ev (s : State) (k : Nat) (v : Col) : (s.setCol k v).ev = s.ev := rfl
@[simp] theorem State.setCol_agenda (s : State) (k : Nat) (v : Col) : (s.setCol k v).agenda = s.agenda := rfl
@[simp] theorem State.setCol_ctr (s : State) (k : Nat) (v : Col) : (s.setCol k v).ctr = s.ctr := rfl
@[simp] theorem State.setCol_here (s : State) (k : Nat) (v : Col) : (s.setCol k v).here = s.here := rfl
@[simp] theorem State.setCol_trapNow (s : State) (k : Nat) (v : Col) : (s.setCol k v).trapNow = s.trapNow := rfl
@[simp] theorem State.setCol_mem (s : State) (k : Nat) (v : Col) : (s.setCol k v).mem = s.mem := rfl
@[simp] theorem State.setCol_tags (s : State) (k : Nat) (v : Col) : (s.setCol k v).tags = s.tags := rfl
@[simp] theorem State.setCol_olds (s : State) (k : Nat) (v : Col) : (s.setCol k v).olds = s.olds := rfl
@[simp] theorem State.setCol_since (s : State) (k : Nat) (v : Col) : (s.setCol k v).since = s.since := rfl
@[simp] theorem State.setCol_work (s : State) (k : Nat) (v : Col) : (s.setCol k v).work = s.work := rfl
@[simp] theorem State.setCol_port (s : State) (k : Nat) (v : Col) : (s.setCol k v).port = s.port := rfl
@[simp] theorem State.setCol_wrote (s : State) (k : Nat) (v : Col) : (s.setCol k v).wrote = s.wrote := rfl
@[simp] theorem State.setCol_errs (s : State) (k : Nat) (v : Col) : (s.setCol k v).errs = s.errs := rfl
@[simp] theorem State.setCol_cores (s : State) (k : Nat) (v : Col) : (s.setCol k v).cores = s.cores := rfl
@[simp] theorem State.setCol_groups (s : State) (k : Nat) (v : Col) : (s.setCol k v).groups = s.groups := rfl
@[simp] theorem State.setCol_queues (s : State) (k : Nat) (v : Col) : (s.setCol k v).queues = s.queues := rfl
@[simp] theorem State.setCol_turns (s : State) (k : Nat) (v : Col) : (s.setCol k v).turns = s.turns := rfl
@[simp] theorem State.setCol_starting (s : State) (k : Nat) (v : Col) : (s.setCol k v).starting = s.starting := rfl
@[simp] theorem State.setCol_notices (s : State) (k : Nat) (v : Col) : (s.setCol k v).notices = s.notices := rfl
@[simp] theorem State.setCol_da (s : State) (k : Nat) (v : Col) : (s.setCol k v).da = s.da := rfl
@[simp] theorem State.setCol_seqs (s : State) (k : Nat) (v : Col) : (s.setCol k v).seqs = s.seqs := rfl
@[simp] theorem State.setCol_pools (s : State) (k : Nat) (v : Col) : (s.setCol k v).pools = s.pools := rfl
@[simp] theorem State.setCol_readers (s : State) (k : Nat) (v : Col) : (s.setCol k v).readers = s.readers := rfl
@[simp] theorem State.setCol_leaving (s : State) (k : Nat) (v : Col) : (s.setCol k v).leaving = s.leaving := rfl
@[simp] theorem State.setCol_copies (s : State) (k : Nat) (v : Col) : (s.setCol k v).copies = s.copies := rfl
@[simp] theorem State.setCol_assumptions (s : State) (k : Nat) (v : Col) : (s.setCol k v).assumptions = s.assumptions := rfl
@[simp] theorem State.setCol_outcomes (s : State) (k : Nat) (v : Col) : (s.setCol k v).outcomes = s.outcomes := rfl
@[simp] theorem State.setCol_samp (s : State) (k : Nat) (v : Col) : (s.setCol k v).samp = s.samp := rfl
@[simp] theorem State.setCol_dtSec (s : State) (k : Nat) (v : Col) : (s.setCol k v).dtSec = s.dtSec := rfl
@[simp] theorem State.setCol_dtNs (s : State) (k : Nat) (v : Col) : (s.setCol k v).dtNs = s.dtNs := rfl
@[simp] theorem State.setCol_dtFrac (s : State) (k : Nat) (v : Col) : (s.setCol k v).dtFrac = s.dtFrac := rfl
@[simp] theorem State.setCol_dtPast (s : State) (k : Nat) (v : Col) : (s.setCol k v).dtPast = s.dtPast := rfl
@[simp] theorem State.setCol_inc (s : State) (k : Nat) (v : Col) : (s.setCol k v).inc = s.inc := rfl
@[simp] theorem State.setCol_clock (s : State) (k : Nat) (v : Col) : (s.setCol k v).clock = s.clock := rfl
@[simp] theorem State.setCol_ticks (s : State) (k : Nat) (v : Col) : (s.setCol k v).ticks = s.ticks := rfl
@[simp] theorem State.setCol_rules (s : State) (k : Nat) (v : Col) : (s.setCol k v).rules = s.rules := rfl
@[simp] theorem State.setCol_streams (s : State) (k : Nat) (v : Col) : (s.setCol k v).streams = s.streams := rfl
@[simp] theorem State.setCol_watches (s : State) (k : Nat) (v : Col) : (s.setCol k v).watches = s.watches := rfl
@[simp] theorem State.setCol_deliveries (s : State) (k : Nat) (v : Col) : (s.setCol k v).deliveries = s.deliveries := rfl
@[simp] theorem State.setCol_timeQueues (s : State) (k : Nat) (v : Col) : (s.setCol k v).timeQueues = s.timeQueues := rfl
@[simp] theorem State.setCol_ports (s : State) (k : Nat) (v : Col) : (s.setCol k v).ports = s.ports := rfl
@[simp] theorem State.setCol_modNum (s : State) (k : Nat) (v : Col) : (s.setCol k v).modNum = s.modNum := rfl
@[simp] theorem State.setCol_links (s : State) (k : Nat) (v : Col) : (s.setCol k v).links = s.links := rfl
@[simp] theorem State.setCol_parts (s : State) (k : Nat) (v : Col) : (s.setCol k v).parts = s.parts := rfl
@[simp] theorem State.setCol_insts (s : State) (k : Nat) (v : Col) : (s.setCol k v).insts = s.insts := rfl
@[simp] theorem State.setCol_launches (s : State) (k : Nat) (v : Col) : (s.setCol k v).launches = s.launches := rfl
@[simp] theorem State.setCol_completions (s : State) (k : Nat) (v : Col) : (s.setCol k v).completions = s.completions := rfl
@[simp] theorem State.setCol_leases (s : State) (k : Nat) (v : Col) : (s.setCol k v).leases = s.leases := rfl
@[simp] theorem State.setCol_admin (s : State) (k : Nat) (v : Col) : (s.setCol k v).admin = s.admin := rfl
@[simp] theorem State.setCol_triggers (s : State) (k : Nat) (v : Col) : (s.setCol k v).triggers = s.triggers := rfl
@[simp] theorem State.setCol_journal (s : State) (k : Nat) (v : Col) : (s.setCol k v).journal = s.journal := rfl
@[simp] theorem State.setCol_beats (s : State) (k : Nat) (v : Col) : (s.setCol k v).beats = s.beats := rfl
@[simp] theorem State.setCol_hung (s : State) (k : Nat) (v : Col) : (s.setCol k v).hung = s.hung := rfl
@[simp] theorem State.setCol_dump (s : State) (k : Nat) (v : Col) : (s.setCol k v).dump = s.dump := rfl
@[simp] theorem State.setCol_stage (s : State) (k : Nat) (v : Col) : (s.setCol k v).stage = s.stage := rfl
@[simp] theorem State.setCol_bootcode (s : State) (k : Nat) (v : Col) : (s.setCol k v).bootcode = s.bootcode := rfl
@[simp] theorem State.setCol_mgmtFrom (s : State) (k : Nat) (v : Col) : (s.setCol k v).mgmtFrom = s.mgmtFrom := rfl
@[simp] theorem State.setCol_powerMode (s : State) (k : Nat) (v : Col) : (s.setCol k v).powerMode = s.powerMode := rfl
@[simp] theorem State.setCol_powerGoal (s : State) (k : Nat) (v : Col) : (s.setCol k v).powerGoal = s.powerGoal := rfl
@[simp] theorem State.setCol_samples (s : State) (k : Nat) (v : Col) : (s.setCol k v).samples = s.samples := rfl
@[simp] theorem State.setCol_meas (s : State) (k : Nat) (v : Col) : (s.setCol k v).meas = s.meas := rfl
@[simp] theorem State.setCol_image (s : State) (k : Nat) (v : Col) : (s.setCol k v).image = s.image := rfl
@[simp] theorem State.setCol_newImage (s : State) (k : Nat) (v : Col) : (s.setCol k v).newImage = s.newImage := rfl
@[simp] theorem State.setCol_updating (s : State) (k : Nat) (v : Col) : (s.setCol k v).updating = s.updating := rfl
@[simp] theorem State.setCol_report (s : State) (k : Nat) (v : Col) : (s.setCol k v).report = s.report := rfl
@[simp] theorem State.setCol_mailbox (s : State) (k : Nat) (v : Col) : (s.setCol k v).mailbox = s.mailbox := rfl
@[simp] theorem State.setCol_readData (s : State) (k : Nat) (v : Col) : (s.setCol k v).readData = s.readData := rfl
@[simp] theorem State.setCol_pcieUp (s : State) (k : Nat) (v : Col) : (s.setCol k v).pcieUp = s.pcieUp := rfl
@[simp] theorem State.setCol_core (s : State) (k j : Nat) (v : Col) : (s.setCol k v).core j = s.core j := rfl
@[simp] theorem State.setCol_col_same (s : State) (k : Nat) (v : Col) : (s.setCol k v).col k = v :=
  FMap.get_set_same _ _ _ _
theorem State.setCol_col_ne (s : State) {k j : Nat} (v : Col) (h : j ≠ k) : (s.setCol k v).col j = s.col j :=
  FMap.get_set_ne _ _ _ h
theorem State.setCol_col (s : State) (k j : Nat) (v : Col) : (s.setCol k v).col j = if j = k then v else s.col j :=
  FMap.get_set _ _ _ _ _
@[simp] theorem State.setCol_group (s : State) (k j : Nat) (v : Col) : (s.setCol k v).group j = s.group j := rfl
@[simp] theorem State.setCol_inst (s : State) (k j : Nat) (v : Col) : (s.setCol k v).inst j = s.inst j := rfl
@[simp] theorem State.setCol_part (s : State) (k j : Nat) (v : Col) : (s.setCol k v).part j = s.part j := rfl
@[simp] theorem State.setCol_restore (s : State) (k : Nat) (v : Col) : { s.setCol k v with cols := s.cols } = s := rfl

/-! ### setGroup -/

@[simp] theorem State.setGroup_powered (s : State) (k : Nat) (v : Group) : (s.setGroup k v).powered = s.powered := rfl
@[simp] theorem State.setGroup_fatal (s : State) (k : Nat) (v : Group) : (s.setGroup k v).fatal = s.fatal := rfl
@[simp] theorem State.setGroup_wall (s : State) (k : Nat) (v : Group) : (s.setGroup k v).wall = s.wall := rfl
@[simp] theorem State.setGroup_cursor (s : State) (k : Nat) (v : Group) : (s.setGroup k v).cursor = s.cursor := rfl
@[simp] theorem State.setGroup_inputs (s : State) (k : Nat) (v : Group) : (s.setGroup k v).inputs = s.inputs := rfl
@[simp] theorem State.setGroup_ev (s : State) (k : Nat) (v : Group) : (s.setGroup k v).ev = s.ev := rfl
@[simp] theorem State.setGroup_agenda (s : State) (k : Nat) (v : Group) : (s.setGroup k v).agenda = s.agenda := rfl
@[simp] theorem State.setGroup_ctr (s : State) (k : Nat) (v : Group) : (s.setGroup k v).ctr = s.ctr := rfl
@[simp] theorem State.setGroup_here (s : State) (k : Nat) (v : Group) : (s.setGroup k v).here = s.here := rfl
@[simp] theorem State.setGroup_trapNow (s : State) (k : Nat) (v : Group) : (s.setGroup k v).trapNow = s.trapNow := rfl
@[simp] theorem State.setGroup_mem (s : State) (k : Nat) (v : Group) : (s.setGroup k v).mem = s.mem := rfl
@[simp] theorem State.setGroup_tags (s : State) (k : Nat) (v : Group) : (s.setGroup k v).tags = s.tags := rfl
@[simp] theorem State.setGroup_olds (s : State) (k : Nat) (v : Group) : (s.setGroup k v).olds = s.olds := rfl
@[simp] theorem State.setGroup_since (s : State) (k : Nat) (v : Group) : (s.setGroup k v).since = s.since := rfl
@[simp] theorem State.setGroup_work (s : State) (k : Nat) (v : Group) : (s.setGroup k v).work = s.work := rfl
@[simp] theorem State.setGroup_port (s : State) (k : Nat) (v : Group) : (s.setGroup k v).port = s.port := rfl
@[simp] theorem State.setGroup_wrote (s : State) (k : Nat) (v : Group) : (s.setGroup k v).wrote = s.wrote := rfl
@[simp] theorem State.setGroup_errs (s : State) (k : Nat) (v : Group) : (s.setGroup k v).errs = s.errs := rfl
@[simp] theorem State.setGroup_cores (s : State) (k : Nat) (v : Group) : (s.setGroup k v).cores = s.cores := rfl
@[simp] theorem State.setGroup_cols (s : State) (k : Nat) (v : Group) : (s.setGroup k v).cols = s.cols := rfl
@[simp] theorem State.setGroup_queues (s : State) (k : Nat) (v : Group) : (s.setGroup k v).queues = s.queues := rfl
@[simp] theorem State.setGroup_turns (s : State) (k : Nat) (v : Group) : (s.setGroup k v).turns = s.turns := rfl
@[simp] theorem State.setGroup_starting (s : State) (k : Nat) (v : Group) : (s.setGroup k v).starting = s.starting := rfl
@[simp] theorem State.setGroup_notices (s : State) (k : Nat) (v : Group) : (s.setGroup k v).notices = s.notices := rfl
@[simp] theorem State.setGroup_da (s : State) (k : Nat) (v : Group) : (s.setGroup k v).da = s.da := rfl
@[simp] theorem State.setGroup_seqs (s : State) (k : Nat) (v : Group) : (s.setGroup k v).seqs = s.seqs := rfl
@[simp] theorem State.setGroup_pools (s : State) (k : Nat) (v : Group) : (s.setGroup k v).pools = s.pools := rfl
@[simp] theorem State.setGroup_readers (s : State) (k : Nat) (v : Group) : (s.setGroup k v).readers = s.readers := rfl
@[simp] theorem State.setGroup_leaving (s : State) (k : Nat) (v : Group) : (s.setGroup k v).leaving = s.leaving := rfl
@[simp] theorem State.setGroup_copies (s : State) (k : Nat) (v : Group) : (s.setGroup k v).copies = s.copies := rfl
@[simp] theorem State.setGroup_assumptions (s : State) (k : Nat) (v : Group) : (s.setGroup k v).assumptions = s.assumptions := rfl
@[simp] theorem State.setGroup_outcomes (s : State) (k : Nat) (v : Group) : (s.setGroup k v).outcomes = s.outcomes := rfl
@[simp] theorem State.setGroup_samp (s : State) (k : Nat) (v : Group) : (s.setGroup k v).samp = s.samp := rfl
@[simp] theorem State.setGroup_dtSec (s : State) (k : Nat) (v : Group) : (s.setGroup k v).dtSec = s.dtSec := rfl
@[simp] theorem State.setGroup_dtNs (s : State) (k : Nat) (v : Group) : (s.setGroup k v).dtNs = s.dtNs := rfl
@[simp] theorem State.setGroup_dtFrac (s : State) (k : Nat) (v : Group) : (s.setGroup k v).dtFrac = s.dtFrac := rfl
@[simp] theorem State.setGroup_dtPast (s : State) (k : Nat) (v : Group) : (s.setGroup k v).dtPast = s.dtPast := rfl
@[simp] theorem State.setGroup_inc (s : State) (k : Nat) (v : Group) : (s.setGroup k v).inc = s.inc := rfl
@[simp] theorem State.setGroup_clock (s : State) (k : Nat) (v : Group) : (s.setGroup k v).clock = s.clock := rfl
@[simp] theorem State.setGroup_ticks (s : State) (k : Nat) (v : Group) : (s.setGroup k v).ticks = s.ticks := rfl
@[simp] theorem State.setGroup_rules (s : State) (k : Nat) (v : Group) : (s.setGroup k v).rules = s.rules := rfl
@[simp] theorem State.setGroup_streams (s : State) (k : Nat) (v : Group) : (s.setGroup k v).streams = s.streams := rfl
@[simp] theorem State.setGroup_watches (s : State) (k : Nat) (v : Group) : (s.setGroup k v).watches = s.watches := rfl
@[simp] theorem State.setGroup_deliveries (s : State) (k : Nat) (v : Group) : (s.setGroup k v).deliveries = s.deliveries := rfl
@[simp] theorem State.setGroup_timeQueues (s : State) (k : Nat) (v : Group) : (s.setGroup k v).timeQueues = s.timeQueues := rfl
@[simp] theorem State.setGroup_ports (s : State) (k : Nat) (v : Group) : (s.setGroup k v).ports = s.ports := rfl
@[simp] theorem State.setGroup_modNum (s : State) (k : Nat) (v : Group) : (s.setGroup k v).modNum = s.modNum := rfl
@[simp] theorem State.setGroup_links (s : State) (k : Nat) (v : Group) : (s.setGroup k v).links = s.links := rfl
@[simp] theorem State.setGroup_parts (s : State) (k : Nat) (v : Group) : (s.setGroup k v).parts = s.parts := rfl
@[simp] theorem State.setGroup_insts (s : State) (k : Nat) (v : Group) : (s.setGroup k v).insts = s.insts := rfl
@[simp] theorem State.setGroup_launches (s : State) (k : Nat) (v : Group) : (s.setGroup k v).launches = s.launches := rfl
@[simp] theorem State.setGroup_completions (s : State) (k : Nat) (v : Group) : (s.setGroup k v).completions = s.completions := rfl
@[simp] theorem State.setGroup_leases (s : State) (k : Nat) (v : Group) : (s.setGroup k v).leases = s.leases := rfl
@[simp] theorem State.setGroup_admin (s : State) (k : Nat) (v : Group) : (s.setGroup k v).admin = s.admin := rfl
@[simp] theorem State.setGroup_triggers (s : State) (k : Nat) (v : Group) : (s.setGroup k v).triggers = s.triggers := rfl
@[simp] theorem State.setGroup_journal (s : State) (k : Nat) (v : Group) : (s.setGroup k v).journal = s.journal := rfl
@[simp] theorem State.setGroup_beats (s : State) (k : Nat) (v : Group) : (s.setGroup k v).beats = s.beats := rfl
@[simp] theorem State.setGroup_hung (s : State) (k : Nat) (v : Group) : (s.setGroup k v).hung = s.hung := rfl
@[simp] theorem State.setGroup_dump (s : State) (k : Nat) (v : Group) : (s.setGroup k v).dump = s.dump := rfl
@[simp] theorem State.setGroup_stage (s : State) (k : Nat) (v : Group) : (s.setGroup k v).stage = s.stage := rfl
@[simp] theorem State.setGroup_bootcode (s : State) (k : Nat) (v : Group) : (s.setGroup k v).bootcode = s.bootcode := rfl
@[simp] theorem State.setGroup_mgmtFrom (s : State) (k : Nat) (v : Group) : (s.setGroup k v).mgmtFrom = s.mgmtFrom := rfl
@[simp] theorem State.setGroup_powerMode (s : State) (k : Nat) (v : Group) : (s.setGroup k v).powerMode = s.powerMode := rfl
@[simp] theorem State.setGroup_powerGoal (s : State) (k : Nat) (v : Group) : (s.setGroup k v).powerGoal = s.powerGoal := rfl
@[simp] theorem State.setGroup_samples (s : State) (k : Nat) (v : Group) : (s.setGroup k v).samples = s.samples := rfl
@[simp] theorem State.setGroup_meas (s : State) (k : Nat) (v : Group) : (s.setGroup k v).meas = s.meas := rfl
@[simp] theorem State.setGroup_image (s : State) (k : Nat) (v : Group) : (s.setGroup k v).image = s.image := rfl
@[simp] theorem State.setGroup_newImage (s : State) (k : Nat) (v : Group) : (s.setGroup k v).newImage = s.newImage := rfl
@[simp] theorem State.setGroup_updating (s : State) (k : Nat) (v : Group) : (s.setGroup k v).updating = s.updating := rfl
@[simp] theorem State.setGroup_report (s : State) (k : Nat) (v : Group) : (s.setGroup k v).report = s.report := rfl
@[simp] theorem State.setGroup_mailbox (s : State) (k : Nat) (v : Group) : (s.setGroup k v).mailbox = s.mailbox := rfl
@[simp] theorem State.setGroup_readData (s : State) (k : Nat) (v : Group) : (s.setGroup k v).readData = s.readData := rfl
@[simp] theorem State.setGroup_pcieUp (s : State) (k : Nat) (v : Group) : (s.setGroup k v).pcieUp = s.pcieUp := rfl
@[simp] theorem State.setGroup_core (s : State) (k j : Nat) (v : Group) : (s.setGroup k v).core j = s.core j := rfl
@[simp] theorem State.setGroup_col (s : State) (k j : Nat) (v : Group) : (s.setGroup k v).col j = s.col j := rfl
@[simp] theorem State.setGroup_group_same (s : State) (k : Nat) (v : Group) : (s.setGroup k v).group k = v :=
  FMap.get_set_same _ _ _ _
theorem State.setGroup_group_ne (s : State) {k j : Nat} (v : Group) (h : j ≠ k) : (s.setGroup k v).group j = s.group j :=
  FMap.get_set_ne _ _ _ h
theorem State.setGroup_group (s : State) (k j : Nat) (v : Group) : (s.setGroup k v).group j = if j = k then v else s.group j :=
  FMap.get_set _ _ _ _ _
@[simp] theorem State.setGroup_inst (s : State) (k j : Nat) (v : Group) : (s.setGroup k v).inst j = s.inst j := rfl
@[simp] theorem State.setGroup_part (s : State) (k j : Nat) (v : Group) : (s.setGroup k v).part j = s.part j := rfl
@[simp] theorem State.setGroup_restore (s : State) (k : Nat) (v : Group) : { s.setGroup k v with groups := s.groups } = s := rfl

/-! ### setInst -/

@[simp] theorem State.setInst_powered (s : State) (k : Nat) (v : Inst) : (s.setInst k v).powered = s.powered := rfl
@[simp] theorem State.setInst_fatal (s : State) (k : Nat) (v : Inst) : (s.setInst k v).fatal = s.fatal := rfl
@[simp] theorem State.setInst_wall (s : State) (k : Nat) (v : Inst) : (s.setInst k v).wall = s.wall := rfl
@[simp] theorem State.setInst_cursor (s : State) (k : Nat) (v : Inst) : (s.setInst k v).cursor = s.cursor := rfl
@[simp] theorem State.setInst_inputs (s : State) (k : Nat) (v : Inst) : (s.setInst k v).inputs = s.inputs := rfl
@[simp] theorem State.setInst_ev (s : State) (k : Nat) (v : Inst) : (s.setInst k v).ev = s.ev := rfl
@[simp] theorem State.setInst_agenda (s : State) (k : Nat) (v : Inst) : (s.setInst k v).agenda = s.agenda := rfl
@[simp] theorem State.setInst_ctr (s : State) (k : Nat) (v : Inst) : (s.setInst k v).ctr = s.ctr := rfl
@[simp] theorem State.setInst_here (s : State) (k : Nat) (v : Inst) : (s.setInst k v).here = s.here := rfl
@[simp] theorem State.setInst_trapNow (s : State) (k : Nat) (v : Inst) : (s.setInst k v).trapNow = s.trapNow := rfl
@[simp] theorem State.setInst_mem (s : State) (k : Nat) (v : Inst) : (s.setInst k v).mem = s.mem := rfl
@[simp] theorem State.setInst_tags (s : State) (k : Nat) (v : Inst) : (s.setInst k v).tags = s.tags := rfl
@[simp] theorem State.setInst_olds (s : State) (k : Nat) (v : Inst) : (s.setInst k v).olds = s.olds := rfl
@[simp] theorem State.setInst_since (s : State) (k : Nat) (v : Inst) : (s.setInst k v).since = s.since := rfl
@[simp] theorem State.setInst_work (s : State) (k : Nat) (v : Inst) : (s.setInst k v).work = s.work := rfl
@[simp] theorem State.setInst_port (s : State) (k : Nat) (v : Inst) : (s.setInst k v).port = s.port := rfl
@[simp] theorem State.setInst_wrote (s : State) (k : Nat) (v : Inst) : (s.setInst k v).wrote = s.wrote := rfl
@[simp] theorem State.setInst_errs (s : State) (k : Nat) (v : Inst) : (s.setInst k v).errs = s.errs := rfl
@[simp] theorem State.setInst_cores (s : State) (k : Nat) (v : Inst) : (s.setInst k v).cores = s.cores := rfl
@[simp] theorem State.setInst_cols (s : State) (k : Nat) (v : Inst) : (s.setInst k v).cols = s.cols := rfl
@[simp] theorem State.setInst_groups (s : State) (k : Nat) (v : Inst) : (s.setInst k v).groups = s.groups := rfl
@[simp] theorem State.setInst_queues (s : State) (k : Nat) (v : Inst) : (s.setInst k v).queues = s.queues := rfl
@[simp] theorem State.setInst_turns (s : State) (k : Nat) (v : Inst) : (s.setInst k v).turns = s.turns := rfl
@[simp] theorem State.setInst_starting (s : State) (k : Nat) (v : Inst) : (s.setInst k v).starting = s.starting := rfl
@[simp] theorem State.setInst_notices (s : State) (k : Nat) (v : Inst) : (s.setInst k v).notices = s.notices := rfl
@[simp] theorem State.setInst_da (s : State) (k : Nat) (v : Inst) : (s.setInst k v).da = s.da := rfl
@[simp] theorem State.setInst_seqs (s : State) (k : Nat) (v : Inst) : (s.setInst k v).seqs = s.seqs := rfl
@[simp] theorem State.setInst_pools (s : State) (k : Nat) (v : Inst) : (s.setInst k v).pools = s.pools := rfl
@[simp] theorem State.setInst_readers (s : State) (k : Nat) (v : Inst) : (s.setInst k v).readers = s.readers := rfl
@[simp] theorem State.setInst_leaving (s : State) (k : Nat) (v : Inst) : (s.setInst k v).leaving = s.leaving := rfl
@[simp] theorem State.setInst_copies (s : State) (k : Nat) (v : Inst) : (s.setInst k v).copies = s.copies := rfl
@[simp] theorem State.setInst_assumptions (s : State) (k : Nat) (v : Inst) : (s.setInst k v).assumptions = s.assumptions := rfl
@[simp] theorem State.setInst_outcomes (s : State) (k : Nat) (v : Inst) : (s.setInst k v).outcomes = s.outcomes := rfl
@[simp] theorem State.setInst_samp (s : State) (k : Nat) (v : Inst) : (s.setInst k v).samp = s.samp := rfl
@[simp] theorem State.setInst_dtSec (s : State) (k : Nat) (v : Inst) : (s.setInst k v).dtSec = s.dtSec := rfl
@[simp] theorem State.setInst_dtNs (s : State) (k : Nat) (v : Inst) : (s.setInst k v).dtNs = s.dtNs := rfl
@[simp] theorem State.setInst_dtFrac (s : State) (k : Nat) (v : Inst) : (s.setInst k v).dtFrac = s.dtFrac := rfl
@[simp] theorem State.setInst_dtPast (s : State) (k : Nat) (v : Inst) : (s.setInst k v).dtPast = s.dtPast := rfl
@[simp] theorem State.setInst_inc (s : State) (k : Nat) (v : Inst) : (s.setInst k v).inc = s.inc := rfl
@[simp] theorem State.setInst_clock (s : State) (k : Nat) (v : Inst) : (s.setInst k v).clock = s.clock := rfl
@[simp] theorem State.setInst_ticks (s : State) (k : Nat) (v : Inst) : (s.setInst k v).ticks = s.ticks := rfl
@[simp] theorem State.setInst_rules (s : State) (k : Nat) (v : Inst) : (s.setInst k v).rules = s.rules := rfl
@[simp] theorem State.setInst_streams (s : State) (k : Nat) (v : Inst) : (s.setInst k v).streams = s.streams := rfl
@[simp] theorem State.setInst_watches (s : State) (k : Nat) (v : Inst) : (s.setInst k v).watches = s.watches := rfl
@[simp] theorem State.setInst_deliveries (s : State) (k : Nat) (v : Inst) : (s.setInst k v).deliveries = s.deliveries := rfl
@[simp] theorem State.setInst_timeQueues (s : State) (k : Nat) (v : Inst) : (s.setInst k v).timeQueues = s.timeQueues := rfl
@[simp] theorem State.setInst_ports (s : State) (k : Nat) (v : Inst) : (s.setInst k v).ports = s.ports := rfl
@[simp] theorem State.setInst_modNum (s : State) (k : Nat) (v : Inst) : (s.setInst k v).modNum = s.modNum := rfl
@[simp] theorem State.setInst_links (s : State) (k : Nat) (v : Inst) : (s.setInst k v).links = s.links := rfl
@[simp] theorem State.setInst_parts (s : State) (k : Nat) (v : Inst) : (s.setInst k v).parts = s.parts := rfl
@[simp] theorem State.setInst_launches (s : State) (k : Nat) (v : Inst) : (s.setInst k v).launches = s.launches := rfl
@[simp] theorem State.setInst_completions (s : State) (k : Nat) (v : Inst) : (s.setInst k v).completions = s.completions := rfl
@[simp] theorem State.setInst_leases (s : State) (k : Nat) (v : Inst) : (s.setInst k v).leases = s.leases := rfl
@[simp] theorem State.setInst_admin (s : State) (k : Nat) (v : Inst) : (s.setInst k v).admin = s.admin := rfl
@[simp] theorem State.setInst_triggers (s : State) (k : Nat) (v : Inst) : (s.setInst k v).triggers = s.triggers := rfl
@[simp] theorem State.setInst_journal (s : State) (k : Nat) (v : Inst) : (s.setInst k v).journal = s.journal := rfl
@[simp] theorem State.setInst_beats (s : State) (k : Nat) (v : Inst) : (s.setInst k v).beats = s.beats := rfl
@[simp] theorem State.setInst_hung (s : State) (k : Nat) (v : Inst) : (s.setInst k v).hung = s.hung := rfl
@[simp] theorem State.setInst_dump (s : State) (k : Nat) (v : Inst) : (s.setInst k v).dump = s.dump := rfl
@[simp] theorem State.setInst_stage (s : State) (k : Nat) (v : Inst) : (s.setInst k v).stage = s.stage := rfl
@[simp] theorem State.setInst_bootcode (s : State) (k : Nat) (v : Inst) : (s.setInst k v).bootcode = s.bootcode := rfl
@[simp] theorem State.setInst_mgmtFrom (s : State) (k : Nat) (v : Inst) : (s.setInst k v).mgmtFrom = s.mgmtFrom := rfl
@[simp] theorem State.setInst_powerMode (s : State) (k : Nat) (v : Inst) : (s.setInst k v).powerMode = s.powerMode := rfl
@[simp] theorem State.setInst_powerGoal (s : State) (k : Nat) (v : Inst) : (s.setInst k v).powerGoal = s.powerGoal := rfl
@[simp] theorem State.setInst_samples (s : State) (k : Nat) (v : Inst) : (s.setInst k v).samples = s.samples := rfl
@[simp] theorem State.setInst_meas (s : State) (k : Nat) (v : Inst) : (s.setInst k v).meas = s.meas := rfl
@[simp] theorem State.setInst_image (s : State) (k : Nat) (v : Inst) : (s.setInst k v).image = s.image := rfl
@[simp] theorem State.setInst_newImage (s : State) (k : Nat) (v : Inst) : (s.setInst k v).newImage = s.newImage := rfl
@[simp] theorem State.setInst_updating (s : State) (k : Nat) (v : Inst) : (s.setInst k v).updating = s.updating := rfl
@[simp] theorem State.setInst_report (s : State) (k : Nat) (v : Inst) : (s.setInst k v).report = s.report := rfl
@[simp] theorem State.setInst_mailbox (s : State) (k : Nat) (v : Inst) : (s.setInst k v).mailbox = s.mailbox := rfl
@[simp] theorem State.setInst_readData (s : State) (k : Nat) (v : Inst) : (s.setInst k v).readData = s.readData := rfl
@[simp] theorem State.setInst_pcieUp (s : State) (k : Nat) (v : Inst) : (s.setInst k v).pcieUp = s.pcieUp := rfl
@[simp] theorem State.setInst_core (s : State) (k j : Nat) (v : Inst) : (s.setInst k v).core j = s.core j := rfl
@[simp] theorem State.setInst_col (s : State) (k j : Nat) (v : Inst) : (s.setInst k v).col j = s.col j := rfl
@[simp] theorem State.setInst_group (s : State) (k j : Nat) (v : Inst) : (s.setInst k v).group j = s.group j := rfl
@[simp] theorem State.setInst_inst_same (s : State) (k : Nat) (v : Inst) : (s.setInst k v).inst k = v :=
  FMap.get_set_same _ _ _ _
theorem State.setInst_inst_ne (s : State) {k j : Nat} (v : Inst) (h : j ≠ k) : (s.setInst k v).inst j = s.inst j :=
  FMap.get_set_ne _ _ _ h
theorem State.setInst_inst (s : State) (k j : Nat) (v : Inst) : (s.setInst k v).inst j = if j = k then v else s.inst j :=
  FMap.get_set _ _ _ _ _
@[simp] theorem State.setInst_part (s : State) (k j : Nat) (v : Inst) : (s.setInst k v).part j = s.part j := rfl
@[simp] theorem State.setInst_restore (s : State) (k : Nat) (v : Inst) : { s.setInst k v with insts := s.insts } = s := rfl

/-! ### setPart -/

@[simp] theorem State.setPart_powered (s : State) (k : Nat) (v : Partition) : (s.setPart k v).powered = s.powered := rfl
@[simp] theorem State.setPart_fatal (s : State) (k : Nat) (v : Partition) : (s.setPart k v).fatal = s.fatal := rfl
@[simp] theorem State.setPart_wall (s : State) (k : Nat) (v : Partition) : (s.setPart k v).wall = s.wall := rfl
@[simp] theorem State.setPart_cursor (s : State) (k : Nat) (v : Partition) : (s.setPart k v).cursor = s.cursor := rfl
@[simp] theorem State.setPart_inputs (s : State) (k : Nat) (v : Partition) : (s.setPart k v).inputs = s.inputs := rfl
@[simp] theorem State.setPart_ev (s : State) (k : Nat) (v : Partition) : (s.setPart k v).ev = s.ev := rfl
@[simp] theorem State.setPart_agenda (s : State) (k : Nat) (v : Partition) : (s.setPart k v).agenda = s.agenda := rfl
@[simp] theorem State.setPart_ctr (s : State) (k : Nat) (v : Partition) : (s.setPart k v).ctr = s.ctr := rfl
@[simp] theorem State.setPart_here (s : State) (k : Nat) (v : Partition) : (s.setPart k v).here = s.here := rfl
@[simp] theorem State.setPart_trapNow (s : State) (k : Nat) (v : Partition) : (s.setPart k v).trapNow = s.trapNow := rfl
@[simp] theorem State.setPart_mem (s : State) (k : Nat) (v : Partition) : (s.setPart k v).mem = s.mem := rfl
@[simp] theorem State.setPart_tags (s : State) (k : Nat) (v : Partition) : (s.setPart k v).tags = s.tags := rfl
@[simp] theorem State.setPart_olds (s : State) (k : Nat) (v : Partition) : (s.setPart k v).olds = s.olds := rfl
@[simp] theorem State.setPart_since (s : State) (k : Nat) (v : Partition) : (s.setPart k v).since = s.since := rfl
@[simp] theorem State.setPart_work (s : State) (k : Nat) (v : Partition) : (s.setPart k v).work = s.work := rfl
@[simp] theorem State.setPart_port (s : State) (k : Nat) (v : Partition) : (s.setPart k v).port = s.port := rfl
@[simp] theorem State.setPart_wrote (s : State) (k : Nat) (v : Partition) : (s.setPart k v).wrote = s.wrote := rfl
@[simp] theorem State.setPart_errs (s : State) (k : Nat) (v : Partition) : (s.setPart k v).errs = s.errs := rfl
@[simp] theorem State.setPart_cores (s : State) (k : Nat) (v : Partition) : (s.setPart k v).cores = s.cores := rfl
@[simp] theorem State.setPart_cols (s : State) (k : Nat) (v : Partition) : (s.setPart k v).cols = s.cols := rfl
@[simp] theorem State.setPart_groups (s : State) (k : Nat) (v : Partition) : (s.setPart k v).groups = s.groups := rfl
@[simp] theorem State.setPart_queues (s : State) (k : Nat) (v : Partition) : (s.setPart k v).queues = s.queues := rfl
@[simp] theorem State.setPart_turns (s : State) (k : Nat) (v : Partition) : (s.setPart k v).turns = s.turns := rfl
@[simp] theorem State.setPart_starting (s : State) (k : Nat) (v : Partition) : (s.setPart k v).starting = s.starting := rfl
@[simp] theorem State.setPart_notices (s : State) (k : Nat) (v : Partition) : (s.setPart k v).notices = s.notices := rfl
@[simp] theorem State.setPart_da (s : State) (k : Nat) (v : Partition) : (s.setPart k v).da = s.da := rfl
@[simp] theorem State.setPart_seqs (s : State) (k : Nat) (v : Partition) : (s.setPart k v).seqs = s.seqs := rfl
@[simp] theorem State.setPart_pools (s : State) (k : Nat) (v : Partition) : (s.setPart k v).pools = s.pools := rfl
@[simp] theorem State.setPart_readers (s : State) (k : Nat) (v : Partition) : (s.setPart k v).readers = s.readers := rfl
@[simp] theorem State.setPart_leaving (s : State) (k : Nat) (v : Partition) : (s.setPart k v).leaving = s.leaving := rfl
@[simp] theorem State.setPart_copies (s : State) (k : Nat) (v : Partition) : (s.setPart k v).copies = s.copies := rfl
@[simp] theorem State.setPart_assumptions (s : State) (k : Nat) (v : Partition) : (s.setPart k v).assumptions = s.assumptions := rfl
@[simp] theorem State.setPart_outcomes (s : State) (k : Nat) (v : Partition) : (s.setPart k v).outcomes = s.outcomes := rfl
@[simp] theorem State.setPart_samp (s : State) (k : Nat) (v : Partition) : (s.setPart k v).samp = s.samp := rfl
@[simp] theorem State.setPart_dtSec (s : State) (k : Nat) (v : Partition) : (s.setPart k v).dtSec = s.dtSec := rfl
@[simp] theorem State.setPart_dtNs (s : State) (k : Nat) (v : Partition) : (s.setPart k v).dtNs = s.dtNs := rfl
@[simp] theorem State.setPart_dtFrac (s : State) (k : Nat) (v : Partition) : (s.setPart k v).dtFrac = s.dtFrac := rfl
@[simp] theorem State.setPart_dtPast (s : State) (k : Nat) (v : Partition) : (s.setPart k v).dtPast = s.dtPast := rfl
@[simp] theorem State.setPart_inc (s : State) (k : Nat) (v : Partition) : (s.setPart k v).inc = s.inc := rfl
@[simp] theorem State.setPart_clock (s : State) (k : Nat) (v : Partition) : (s.setPart k v).clock = s.clock := rfl
@[simp] theorem State.setPart_ticks (s : State) (k : Nat) (v : Partition) : (s.setPart k v).ticks = s.ticks := rfl
@[simp] theorem State.setPart_rules (s : State) (k : Nat) (v : Partition) : (s.setPart k v).rules = s.rules := rfl
@[simp] theorem State.setPart_streams (s : State) (k : Nat) (v : Partition) : (s.setPart k v).streams = s.streams := rfl
@[simp] theorem State.setPart_watches (s : State) (k : Nat) (v : Partition) : (s.setPart k v).watches = s.watches := rfl
@[simp] theorem State.setPart_deliveries (s : State) (k : Nat) (v : Partition) : (s.setPart k v).deliveries = s.deliveries := rfl
@[simp] theorem State.setPart_timeQueues (s : State) (k : Nat) (v : Partition) : (s.setPart k v).timeQueues = s.timeQueues := rfl
@[simp] theorem State.setPart_ports (s : State) (k : Nat) (v : Partition) : (s.setPart k v).ports = s.ports := rfl
@[simp] theorem State.setPart_modNum (s : State) (k : Nat) (v : Partition) : (s.setPart k v).modNum = s.modNum := rfl
@[simp] theorem State.setPart_links (s : State) (k : Nat) (v : Partition) : (s.setPart k v).links = s.links := rfl
@[simp] theorem State.setPart_insts (s : State) (k : Nat) (v : Partition) : (s.setPart k v).insts = s.insts := rfl
@[simp] theorem State.setPart_launches (s : State) (k : Nat) (v : Partition) : (s.setPart k v).launches = s.launches := rfl
@[simp] theorem State.setPart_completions (s : State) (k : Nat) (v : Partition) : (s.setPart k v).completions = s.completions := rfl
@[simp] theorem State.setPart_leases (s : State) (k : Nat) (v : Partition) : (s.setPart k v).leases = s.leases := rfl
@[simp] theorem State.setPart_admin (s : State) (k : Nat) (v : Partition) : (s.setPart k v).admin = s.admin := rfl
@[simp] theorem State.setPart_triggers (s : State) (k : Nat) (v : Partition) : (s.setPart k v).triggers = s.triggers := rfl
@[simp] theorem State.setPart_journal (s : State) (k : Nat) (v : Partition) : (s.setPart k v).journal = s.journal := rfl
@[simp] theorem State.setPart_beats (s : State) (k : Nat) (v : Partition) : (s.setPart k v).beats = s.beats := rfl
@[simp] theorem State.setPart_hung (s : State) (k : Nat) (v : Partition) : (s.setPart k v).hung = s.hung := rfl
@[simp] theorem State.setPart_dump (s : State) (k : Nat) (v : Partition) : (s.setPart k v).dump = s.dump := rfl
@[simp] theorem State.setPart_stage (s : State) (k : Nat) (v : Partition) : (s.setPart k v).stage = s.stage := rfl
@[simp] theorem State.setPart_bootcode (s : State) (k : Nat) (v : Partition) : (s.setPart k v).bootcode = s.bootcode := rfl
@[simp] theorem State.setPart_mgmtFrom (s : State) (k : Nat) (v : Partition) : (s.setPart k v).mgmtFrom = s.mgmtFrom := rfl
@[simp] theorem State.setPart_powerMode (s : State) (k : Nat) (v : Partition) : (s.setPart k v).powerMode = s.powerMode := rfl
@[simp] theorem State.setPart_powerGoal (s : State) (k : Nat) (v : Partition) : (s.setPart k v).powerGoal = s.powerGoal := rfl
@[simp] theorem State.setPart_samples (s : State) (k : Nat) (v : Partition) : (s.setPart k v).samples = s.samples := rfl
@[simp] theorem State.setPart_meas (s : State) (k : Nat) (v : Partition) : (s.setPart k v).meas = s.meas := rfl
@[simp] theorem State.setPart_image (s : State) (k : Nat) (v : Partition) : (s.setPart k v).image = s.image := rfl
@[simp] theorem State.setPart_newImage (s : State) (k : Nat) (v : Partition) : (s.setPart k v).newImage = s.newImage := rfl
@[simp] theorem State.setPart_updating (s : State) (k : Nat) (v : Partition) : (s.setPart k v).updating = s.updating := rfl
@[simp] theorem State.setPart_report (s : State) (k : Nat) (v : Partition) : (s.setPart k v).report = s.report := rfl
@[simp] theorem State.setPart_mailbox (s : State) (k : Nat) (v : Partition) : (s.setPart k v).mailbox = s.mailbox := rfl
@[simp] theorem State.setPart_readData (s : State) (k : Nat) (v : Partition) : (s.setPart k v).readData = s.readData := rfl
@[simp] theorem State.setPart_pcieUp (s : State) (k : Nat) (v : Partition) : (s.setPart k v).pcieUp = s.pcieUp := rfl
@[simp] theorem State.setPart_core (s : State) (k j : Nat) (v : Partition) : (s.setPart k v).core j = s.core j := rfl
@[simp] theorem State.setPart_col (s : State) (k j : Nat) (v : Partition) : (s.setPart k v).col j = s.col j := rfl
@[simp] theorem State.setPart_group (s : State) (k j : Nat) (v : Partition) : (s.setPart k v).group j = s.group j := rfl
@[simp] theorem State.setPart_inst (s : State) (k j : Nat) (v : Partition) : (s.setPart k v).inst j = s.inst j := rfl
@[simp] theorem State.setPart_part_same (s : State) (k : Nat) (v : Partition) : (s.setPart k v).part k = v :=
  FMap.get_set_same _ _ _ _
theorem State.setPart_part_ne (s : State) {k j : Nat} (v : Partition) (h : j ≠ k) : (s.setPart k v).part j = s.part j :=
  FMap.get_set_ne _ _ _ h
theorem State.setPart_part (s : State) (k j : Nat) (v : Partition) : (s.setPart k v).part j = if j = k then v else s.part j :=
  FMap.get_set _ _ _ _ _
@[simp] theorem State.setPart_restore (s : State) (k : Nat) (v : Partition) : { s.setPart k v with parts := s.parts } = s := rfl

end Sys2Proof.Machine
end

