-- ==== Sys2Proof/Laws/Ops.lean ====
section
/-! SUPPORT. What the shared operations can do, said once for each: putting work on an agenda, freezing and ending, taking a
trap, raising interrupts, counting pulses, moving ring counts, claiming banks and moving queue rows change the run of the
device only, never memory, tags or an engine's state. -/

namespace Sys2Proof.Machine

/-- Between `s` and `t` nothing differs but cores, colonnades, groups, instances, card queues, the wall agenda, what the front end is told
and the noted trap: memory, tags, device time, the engines, the front end and the clock are as before. -/
def State.OnlyRun (s t : State) : Prop :=
  { t with cores := s.cores, cols := s.cols, groups := s.groups, insts := s.insts, queues := s.queues, agenda := s.agenda,
           notices := s.notices, trapNow := s.trapNow } = s

theorem State.OnlyRun.refl (s : State) : s.OnlyRun s := rfl

theorem State.OnlyRun.trans {s t u : State} (h : s.OnlyRun t) (k : t.OnlyRun u) : s.OnlyRun u := by
  unfold State.OnlyRun at *
  rw [← h, ← k]

theorem State.OnlyRun.foldl {α : Type} {f : State → α → State} (hf : ∀ (s : State) (a : α), s.OnlyRun (f s a)) :
    ∀ (l : List α) (s : State), s.OnlyRun (l.foldl f s)
  | [], s => State.OnlyRun.refl s
  | a :: l, s => (hf s a).trans (State.OnlyRun.foldl hf l (f s a))

theorem State.OnlyRun.mem {s t : State} (h : s.OnlyRun t) : t.mem = s.mem := by
  unfold State.OnlyRun at h
  have e := congrArg State.mem h
  exact e
theorem State.OnlyRun.tags {s t : State} (h : s.OnlyRun t) : t.tags = s.tags := by
  unfold State.OnlyRun at h
  have e := congrArg State.tags h
  exact e
theorem State.OnlyRun.wall {s t : State} (h : s.OnlyRun t) : t.wall = s.wall := by
  unfold State.OnlyRun at h
  have e := congrArg State.wall h
  exact e
theorem State.OnlyRun.here {s t : State} (h : s.OnlyRun t) : t.here = s.here := by
  unfold State.OnlyRun at h
  have e := congrArg State.here h
  exact e
theorem State.OnlyRun.ctr {s t : State} (h : s.OnlyRun t) : t.ctr = s.ctr := by
  unfold State.OnlyRun at h
  have e := congrArg State.ctr h
  exact e
theorem State.OnlyRun.inputs {s t : State} (h : s.OnlyRun t) : t.inputs = s.inputs := by
  unfold State.OnlyRun at h
  have e := congrArg State.inputs h
  exact e
theorem State.OnlyRun.sameMem {s t : State} (h : s.OnlyRun t) : s.SameMem t := fun a => by rw [h.mem]
theorem State.OnlyRun.canonical {s t : State} (h : s.OnlyRun t) (c : s.Canonical) : t.Canonical := by
  unfold State.Canonical
  rw [h.mem]
  exact c
theorem State.OnlyRun.alive {s t : State} (h : s.OnlyRun t) (a : s.Alive) : t.Alive := by
  unfold State.OnlyRun at h
  have e := congrArg State.powered h
  have e' := congrArg State.fatal h
  exact ⟨e.trans a.1, e'.trans a.2⟩

/-! ### The parts of the state -/

theorem State.setCore_onlyRun (s : State) (k : Nat) (c : Core) : s.OnlyRun (s.setCore k c) := by
  cases s
  exact rfl
theorem State.modCore_onlyRun (s : State) (k : Nat) (f : Core → Core) : s.OnlyRun (s.modCore k f) :=
  s.setCore_onlyRun k _
theorem State.modMe_onlyRun (s : State) (f : Core → Core) : s.OnlyRun (s.modMe f) := s.modCore_onlyRun _ _
theorem State.setCol_onlyRun (s : State) (k : Nat) (c : Col) : s.OnlyRun (s.setCol k c) := rfl
theorem State.modCol_onlyRun (s : State) (k : Nat) (f : Col → Col) : s.OnlyRun (s.modCol k f) := rfl
theorem State.setGroup_onlyRun (s : State) (k : Nat) (c : Group) : s.OnlyRun (s.setGroup k c) := rfl
theorem State.modGroup_onlyRun (s : State) (k : Nat) (f : Group → Group) : s.OnlyRun (s.modGroup k f) := rfl
theorem State.setInst_onlyRun (s : State) (k : Nat) (c : Inst) : s.OnlyRun (s.setInst k c) := rfl

/-! ### The agendas -/

theorem State.atCycle_onlyRun (s : State) (k t p r : Nat) (w : Work) : s.OnlyRun (s.atCycle k t p r w) := rfl
theorem State.atWall_onlyRun (s : State) (t : Nat) (w : Work) : s.OnlyRun (s.atWall t w) := rfl
theorem State.eventAt_onlyRun (s : State) (t : Nat) (op : Instr) (a : EvArgs) : s.OnlyRun (s.eventAt t op a) := rfl

theorem State.after_onlyRun (s : State) (d p r : Nat) (w : Work) : s.OnlyRun (s.after d p r w) := by
  unfold State.after
  split
  · exact s.atWall_onlyRun _ _
  · exact s.atCycle_onlyRun _ _ _ _ _

theorem State.effectAfter_onlyRun (s : State) (d : Nat) (e : Effect) : s.OnlyRun (s.effectAfter d e) :=
  s.after_onlyRun _ _ _ _

theorem State.flagsAfter_onlyRun (s : State) (d f : Nat) : s.OnlyRun (s.flagsAfter d f) := by
  unfold State.flagsAfter
  split
  · exact State.OnlyRun.refl s
  · exact s.after_onlyRun _ _ _ _

@[simp] theorem State.atCycle_core (s : State) (k t p r : Nat) (w : Work) (j : Nat) : (s.atCycle k t p r w).core j = s.core j := by
  simp only [State.atCycle, State.modGroup, State.setGroup_core]
@[simp] theorem State.atCycle_col (s : State) (k t p r : Nat) (w : Work) (j : Nat) : (s.atCycle k t p r w).col j = s.col j := by
  simp only [State.atCycle, State.modGroup, State.setGroup_col]
@[simp] theorem State.atWall_core (s : State) (t : Nat) (w : Work) (j : Nat) : (s.atWall t w).core j = s.core j := by
  unfold State.atWall State.core; rfl
@[simp] theorem State.atWall_col (s : State) (t : Nat) (w : Work) (j : Nat) : (s.atWall t w).col j = s.col j := by
  unfold State.atWall State.col; rfl
@[simp] theorem State.atWall_group (s : State) (t : Nat) (w : Work) (g : Nat) : (s.atWall t w).group g = s.group g := by
  unfold State.atWall State.group; rfl
@[simp] theorem State.after_core (s : State) (d p r : Nat) (w : Work) (j : Nat) : (s.after d p r w).core j = s.core j := by
  unfold State.after
  split
  · exact State.atWall_core _ _ _ _
  · exact State.atCycle_core _ _ _ _ _ _ _
@[simp] theorem State.after_col (s : State) (d p r : Nat) (w : Work) (j : Nat) : (s.after d p r w).col j = s.col j := by
  unfold State.after
  split
  · exact State.atWall_col _ _ _ _
  · exact State.atCycle_col _ _ _ _ _ _ _

/-- Work put on a core's agenda stands there, inserted in its place, and the group is otherwise as before. -/
theorem State.atCycle_group (s : State) (k t p r : Nat) (w : Work) (g : Nat) :
    (s.atCycle k t p r w).group g =
      if g = s.groupNo k then { s.group g with agenda := insertItem ⟨t, p, r, colOf k, w⟩ (s.group g).agenda } else s.group g := by
  unfold State.atCycle State.modGroup
  rw [State.setGroup_group]
  split
  · next h => rw [h]
  · rfl

/-- Outside shadow mode an instruction's later work goes on its group's agenda, and nothing else differs. -/
theorem State.after_schedules (s : State) (h : s.me.shadow = false) (d p r : Nat) (w : Work) :
    s.Schedules d p r w (s.after d p r w) := by
  have e : s.after d p r w = s.atCycle s.here.core (s.here.cycle + d) p r w := by simp [State.after, h]
  rw [e]
  refine ⟨?_, rfl, fun _ => rfl, fun g => ?_, fun g hg => ?_⟩
  · show ((s.atCycle s.here.core (s.here.cycle + d) p r w).group (s.groupNo s.here.core)).agenda = _
    rw [State.atCycle_group, if_pos rfl]
    rfl
  · rw [State.atCycle_group]
    split <;> rfl
  · rw [State.atCycle_group, if_neg hg]

theorem insertItem_mem (x y : Item) : ∀ l : List Item, y ∈ insertItem x l ↔ y = x ∨ y ∈ l
  | [] => by simp [insertItem]
  | a :: l => by
    unfold insertItem
    split
    · simp
    · simp only [List.mem_cons, insertItem_mem x y l]
      constructor
      · rintro (h | h | h)
        · exact .inr (.inl h)
        · exact .inl h
        · exact .inr (.inr h)
      · rintro (h | h | h)
        · exact .inr (.inl h)
        · exact .inl h
        · exact .inr (.inr h)

/-! ### Free values -/

@[simp] theorem State.freshSlack_state (s : State) : s.freshSlack.2 = { s with ctr := s.ctr + 1 } := rfl
@[simp] theorem State.freshWord_state (s : State) : s.freshWord.2 = { s with ctr := s.ctr + 1 } := rfl

/-! ### Freezing, ending and traps -/

@[simp] theorem State.modGroup_core (s : State) (g : Nat) (f : Group → Group) (k : Nat) : (s.modGroup g f).core k = s.core k := rfl
@[simp] theorem State.modCol_core (s : State) (c : Nat) (f : Col → Col) (k : Nat) : (s.modCol c f).core k = s.core k := rfl

theorem State.freezeNow_onlyRun (s : State) (g : Nat) : s.OnlyRun (s.freezeNow g) := rfl
@[simp] theorem State.freezeNow_core (s : State) (g k : Nat) : (s.freezeNow g).core k = s.core k := rfl
theorem State.freezeGroup_onlyRun (s : State) (g : Nat) (c : Freeze) : s.OnlyRun (s.freezeGroup g c) :=
  (s.modGroup_onlyRun _ _).trans (State.freezeNow_onlyRun _ _)
@[simp] theorem State.freezeGroup_core (s : State) (g : Nat) (c : Freeze) (k : Nat) : (s.freezeGroup g c).core k = s.core k := by
  rw [State.freezeGroup, State.freezeNow_core, State.modGroup_core]

theorem State.freezeAtCycle_onlyRun (s : State) (g n : Nat) (c : Freeze) : s.OnlyRun (s.freezeAtCycle g n c) := by
  unfold State.freezeAtCycle
  split
  · exact s.freezeGroup_onlyRun _ _
  · exact s.modGroup_onlyRun _ _
@[simp] theorem State.freezeAtCycle_core (s : State) (g n : Nat) (c : Freeze) (k : Nat) : (s.freezeAtCycle g n c).core k = s.core k := by
  unfold State.freezeAtCycle
  split
  · exact s.freezeGroup_core _ _ _
  · exact s.modGroup_core _ _ _

theorem State.stopGroup_onlyRun (s : State) (g c : Nat) (w : Bool) : s.OnlyRun (s.stopGroup g c w) := by
  unfold State.stopGroup
  split
  · rfl
  · exact (s.modCol_onlyRun _ _).trans (State.freezeAtCycle_onlyRun _ _ _ _)
@[simp] theorem State.stopGroup_core (s : State) (g c : Nat) (w : Bool) (k : Nat) : (s.stopGroup g c w).core k = s.core k := by
  unfold State.stopGroup
  split
  · rfl
  · rw [State.freezeAtCycle_core, State.modCol_core]

theorem State.giveCredit_onlyRun (s : State) (key : Nat) (c : JobCard) : s.OnlyRun (s.giveCredit key c) := by
  unfold State.giveCredit
  split <;> rfl

theorem State.dropCards_onlyRun (s : State) (i : Nat) : s.OnlyRun (s.dropCards i) := by
  unfold State.dropCards
  refine State.OnlyRun.foldl (fun s p => ?_) _ _
  dsimp only
  refine State.OnlyRun.trans (t := { s with queues := _ }) ?_ (State.OnlyRun.foldl (fun s c => s.giveCredit_onlyRun _ _) _ _)
  rfl

theorem State.endInstance_onlyRun (s : State) (i st c v : Nat) : s.OnlyRun (s.endInstance i st c v) := by
  unfold State.endInstance
  extract_lets i0
  split
  · exact State.OnlyRun.refl s
  · refine State.OnlyRun.trans ((s.setInst_onlyRun _ _).trans (State.dropCards_onlyRun _ _)) (State.OnlyRun.foldl (fun s g => ?_) _ _)
    exact (s.modGroup_onlyRun _ _).trans (State.OnlyRun.foldl (fun s k => s.modCore_onlyRun _ _) _ _)

theorem State.endByTrap_onlyRun (s : State) (i g c : Nat) (w : Bool) (code v : Nat) : s.OnlyRun (s.endByTrap i g c w code v) := by
  unfold State.endByTrap
  split
  · exact s.endInstance_onlyRun _ _ _ _
  · rfl

/-- Taking a trap changes the run of the device only: no byte of memory, no tag, no engine, no free value (01 R27; 05 R156). -/
theorem takeTrap_onlyRun (s : State) (t : Trap) (b : Nat) : s.OnlyRun (takeTrap s t b) := by
  unfold takeTrap
  extract_lets c i s1 ending
  have h0 : s.OnlyRun s1 := rfl
  clear_value s1
  split
  · exact h0.trans ((s1.setCore_onlyRun _ _).trans (State.endInstance_onlyRun _ _ _ _ _))
  · split
    · exact h0.trans ((s1.setCore_onlyRun _ _).trans (State.endByTrap_onlyRun _ _ _ _ _ _ _))
    · exact h0.trans ((s1.setCore_onlyRun _ _).trans (State.stopGroup_onlyRun _ _ _ _))

theorem lateTrap_onlyRun (s : State) (x : Src) (c : Cause) (v : Nat) : s.OnlyRun (lateTrap s x c v) := takeTrap_onlyRun _ _ _

theorem takeInterrupt_onlyRun (s : State) (k : Nat) : s.OnlyRun (takeInterrupt s k) :=
  State.OnlyRun.trans (s.setCore_onlyRun k _) (State.freezeGroup_onlyRun _ _ _)

theorem State.raiseIrq_onlyRun (s : State) (k b : Nat) : s.OnlyRun (s.raiseIrq k b) := s.modCore_onlyRun _ _

theorem returnFromHandler_onlyRun (s : State) (k : Nat) : s.OnlyRun (returnFromHandler s k) :=
  State.OnlyRun.trans (s.setCore_onlyRun k _) (State.raiseIrq_onlyRun _ _ _)

/-- What a core with a handler holds after a trap taken outside shadow mode (05 R156). -/
theorem takeTrap_handler (s : State) (t : Trap) (b : Nat) (h : (s.core t.core).shadow = false)
    (en : (s.core t.core).tvec.toNat / 2 ^ 31 % 2 ≠ 0) :
    (takeTrap s t b).core t.core = { s.core t.core with
      tcause := BitVec.ofNat 64 (t.cause.code + t.slot * 2 ^ 8 +
        (if t.cause.ending || decide (1 < (s.groupOf t.core).cols.length) && !(decide (t.cause = .swTrap) && s.here.plain)
         then 2 ^ 11 else 0)),
      tval := BitVec.ofNat 64 t.tval,
      epc := BitVec.ofNat 64 (b % 65536 + (if t.cause = .swTrap then 2 ^ 16 else 0)),
      shadow := true, readyRett := false, savedHold := (s.core t.core).hold, hold := [], skipC := false,
      swWhole := t.cause = .swTrap && s.here.plain, shadowAt := s.wall + Config.handlerDelay,
      trapAt := (s.groupOf t.core).sched, pc := (s.core t.core).tvec.toNat % 65536, fetched := [] } := by
  simp only [takeTrap, h, en, Bool.false_eq_true, if_false, decide_false, Bool.or_false, State.stopGroup_core,
    State.setCore_core_same]
  rfl

/-- A trap with a handler leaves every other core as it was (05 R156). -/
theorem takeTrap_handler_others (s : State) (t : Trap) (b k : Nat) (h : (s.core t.core).shadow = false)
    (en : (s.core t.core).tvec.toNat / 2 ^ 31 % 2 ≠ 0) (hk : k ≠ t.core) : (takeTrap s t b).core k = s.core k := by
  simp only [takeTrap, h, en, Bool.false_eq_true, if_false, State.stopGroup_core]
  exact State.setCore_core_ne _ _ hk

/-- Whatever its checks find, a meaning's state differs from the trapped one or from its effect in nothing: the two ends of
`orTrap`. -/
theorem State.orTrap_cases (s : State) (o : Option Trap) (n t : State) (h : s.orTrap o n = .next t) :
    (o = none ∧ t = n) ∨ ∃ x, o = some x ∧ t = takeTrap s x s.here.bundle := by
  cases o with
  | none => exact .inl ⟨rfl, (Host.Outcome.next.inj h).symm⟩
  | some x => exact .inr ⟨x, rfl, (Host.Outcome.next.inj h).symm⟩

/-- A meaning never stops: with a trap or without, there is a next state. -/
theorem State.orTrap_next (s : State) (o : Option Trap) (n : State) : ∃ t, s.orTrap o n = .next t := by
  cases o with
  | none => exact ⟨_, rfl⟩
  | some x => exact ⟨_, rfl⟩

/-! ### Registers, banks and queues -/

theorem State.ws_onlyRun (s : State) (r : SReg) (v : Word) : s.OnlyRun (s.ws r v) := s.modMe_onlyRun _
theorem State.wp_onlyRun (s : State) (r : PReg) (v : Bool) : s.OnlyRun (s.wp r v) := s.modMe_onlyRun _
theorem State.noteAccess_onlyRun (s : State) (r : RowAt) (c : Nat) : s.OnlyRun (s.noteAccess r c) := s.modMe_onlyRun _

theorem State.claimBank_onlyRun (s : State) (r : RowAt) (c : Nat) (w : Bool) : s.OnlyRun (s.claimBank r c w).1 := by
  have h := s.noteAccess_onlyRun r c
  unfold State.claimBank
  generalize s.noteAccess r c = s1 at h
  dsimp only
  split
  · exact h
  · split
    · exact h
    · exact h.trans (s1.setCol_onlyRun _ _)

theorem State.claimBanks_onlyRun : ∀ (l : List (RowAt × Nat × Bool)) (s : State), s.OnlyRun (s.claimBanks l).1
  | [], s => State.OnlyRun.refl s
  | (r, c, w) :: l, s => by
    have h := s.claimBank_onlyRun r c w
    unfold State.claimBanks
    split
    · next e => rw [e] at h; exact h.trans (State.claimBanks_onlyRun l _)
    · next e => rw [e] at h; exact h

theorem State.push_onlyRun (s : State) (x : Src) (q : QueueId) (l : List Row) : s.OnlyRun (s.push x q l) := by
  unfold State.push
  dsimp only
  split
  · exact lateTrap_onlyRun _ _ _ _
  · rfl

theorem State.pop_onlyRun (s : State) (x : Src) (q : QueueId) (n : Nat) : s.OnlyRun (s.pop x q n).1 := by
  unfold State.pop
  dsimp only
  split
  · exact lateTrap_onlyRun _ _ _ _
  · rfl

/-- A pop that finds its rows gives the head rows and leaves the others (06 R172). -/
theorem State.pop_rows (s : State) (x : Src) (q : QueueId) (n : Nat) (h : n ≤ ((s.core x.core).queue q).length) :
    s.pop x q n = (s.setCore x.core ((s.core x.core).setQueue q (((s.core x.core).queue q).drop n)),
      ((s.core x.core).queue q).take n) := by
  simp [State.pop, Nat.not_lt.mpr h]

@[simp] theorem Core.queue_setQueue (c : Core) (q : QueueId) (l : List Row) : (c.setQueue q l).queue q = l :=
  FMap.get_set_same _ _ _ _

/-! ### The Trellis and rings -/

theorem State.tell_onlyRun (s : State) (n : Notice) : s.OnlyRun (s.tell n) := rfl

theorem State.addLine_onlyRun (s : State) (c l n : Nat) : s.OnlyRun (s.addLine c l n) := by
  unfold State.addLine
  extract_lets excess s1
  have h : s.OnlyRun s1 := s.modCol_onlyRun _ _
  split
  · exact (h.trans (State.OnlyRun.foldl (fun s k => s.raiseIrq_onlyRun _ _) _ _)).trans (State.tell_onlyRun _ _)
  · exact h

theorem State.notePulse_onlyRun (s : State) (c x n : Nat) : s.OnlyRun (s.notePulse c x n) := by
  unfold State.notePulse
  split
  · exact s.modCol_onlyRun _ _
  · exact State.OnlyRun.refl s

theorem State.pulse_onlyRun (s : State) (c x n : Nat) : s.OnlyRun (s.pulse c x n) := by
  unfold State.pulse
  refine (s.notePulse_onlyRun c x n).trans (State.OnlyRun.foldl (fun s l => ?_) _ _)
  split
  · exact s.addLine_onlyRun _ _ _
  · rfl

theorem State.modRing_onlyRun (s : State) (c g : Nat) (f : Ring → Ring) : s.OnlyRun (s.modRing c g f) := rfl

theorem State.publishRing_onlyRun (s : State) (c g x n : Nat) : s.OnlyRun (s.publishRing c g x n) := by
  unfold State.publishRing
  dsimp only
  split
  · exact (s.modRing_onlyRun _ _ _).trans (State.pulse_onlyRun _ _ _ _)
  · rfl

theorem State.releaseRing_onlyRun (s : State) (c g x n : Nat) : s.OnlyRun (s.releaseRing c g x n) := rfl

/-! ### The look-ahead -/

/-- A slot that acts goes on with the count that its look-ahead reserved from (01 R22). -/
theorem State.look_acting (s : State) (h : s.Acting) (l : State → Look) (k : Nat → State → Host.Outcome State Fault Refusal) :
    s.look l k = k s.askStart s := by
  obtain ⟨hv, a, ha, ht⟩ := h
  simp [State.look, State.endLook, State.askStart, hv, ha, ht]

theorem State.look_actingOn (s : State) (l : State → Look) (h : s.ActingOn l) (k : Nat → State → Host.Outcome State Fault Refusal) :
    ∃ n, s.look l k = k n s := by
  rcases h with h | ⟨hv, ha, hl⟩
  · exact ⟨_, s.look_acting h l k⟩
  · exact ⟨0, by simp [State.look, State.endLook, hv, ha, hl]⟩

/-! ### Rows of memory -/

@[simp] theorem State.setTag_mem (s : State) (r : RowAt) (t : Nat) : (s.setTag r t).mem = s.mem := by
  unfold State.setTag
  split <;> rfl

theorem State.writeRow_canonical (s : State) (r : RowAt) (d : Row) (h : s.Canonical) : (s.writeRow r d).Canonical :=
  Memory.writeBytes_wf _ _ _ h

theorem State.openWrite_canonical (s : State) (r : RowAt) (d : Row) (h : s.Canonical) : (s.openWrite r d).Canonical := by
  unfold State.Canonical State.openWrite
  rw [State.setTag_mem]
  exact s.writeRow_canonical r d h

/-- A row written reads back (04 R102). -/
theorem State.readRow_writeRow (s : State) (r : RowAt) (d : Row) (h : d.length = 256) : (s.writeRow r d).readRow r = d := by
  show (s.mem.writeBytes r.addr d).readBytes r.addr 256 = d
  rw [← h]
  exact Memory.readBytes_writeBytes _ _ _

/-- A row's write leaves every byte outside the row. -/
theorem State.writeRow_frame (s : State) (r : RowAt) (d : Row) (h : d.length = 256) : s.SameMemBut (s.writeRow r d) r.addr 256 := by
  intro x hx
  exact Memory.read_writeBytes_out _ _ _ _ (by rw [h]; exact hx)

end Sys2Proof.Machine
end

