-- ==== Sys2Proof/Laws/PerInstr.lean ====
section
/-! SUPPORT. Facts of every instruction, constructor by constructor: where an instruction has a slot encoding, its opcode fits its seven
bits, and it carries a literal only where its opcode takes one (02 R54, R63). -/

namespace Sys2Proof.Laws.Literal

/-- What holds of each instruction's encoding. -/
def Statement (i : Instr) : Prop :=
  ∀ e, encode i = some e → e.op < 128 ∧ (e.lit = 0 ∨ takesLiteral e.space e.op = true)

theorem nopX : ∀ x0, Statement (.nopX x0) := by
  intro x0 e h; cases h <;> exact ⟨Nat.le_of_ble_eq_true rfl, by first | exact .inl rfl | exact .inr rfl⟩

theorem rept : ∀ x0 x1 x2 x3, Statement (.rept x0 x1 x2 x3) := by
  intro x0 x1 x2 x3 e h; cases h <;> exact ⟨Nat.le_of_ble_eq_true rfl, by first | exact .inl rfl | exact .inr rfl⟩

theorem repts : ∀ x0 x1 x2 x3 x4, Statement (.repts x0 x1 x2 x3 x4) := by
  intro x0 x1 x2 x3 x4 e h; cases h <;> exact ⟨Nat.le_of_ble_eq_true rfl, by first | exact .inl rfl | exact .inr rfl⟩

theorem trap : ∀ x0, Statement (.trap x0) := by
  intro x0 e h; cases h <;> exact ⟨Nat.le_of_ble_eq_true rfl, by first | exact .inl rfl | exact .inr rfl⟩

theorem krd : ∀ x0 x1, Statement (.krd x0 x1) := by
  intro x0 x1 e h; cases h <;> exact ⟨Nat.le_of_ble_eq_true rfl, by first | exact .inl rfl | exact .inr rfl⟩

theorem kwr : ∀ x0 x1, Statement (.kwr x0 x1) := by
  intro x0 x1 e h; cases h <;> exact ⟨Nat.le_of_ble_eq_true rfl, by first | exact .inl rfl | exact .inr rfl⟩

theorem icinv : ∀ x0 x1, Statement (.icinv x0 x1) := by
  intro x0 x1 e h; cases h <;> exact ⟨Nat.le_of_ble_eq_true rfl, by first | exact .inl rfl | exact .inr rfl⟩

theorem add : ∀ x0, Statement (.add x0) := by
  intro x0 e h; cases h <;> exact ⟨Nat.le_of_ble_eq_true rfl, by first | exact .inl rfl | exact .inr rfl⟩

theorem sub : ∀ x0, Statement (.sub x0) := by
  intro x0 e h; cases h <;> exact ⟨Nat.le_of_ble_eq_true rfl, by first | exact .inl rfl | exact .inr rfl⟩

theorem mul : ∀ x0, Statement (.mul x0) := by
  intro x0 e h; cases h <;> exact ⟨Nat.le_of_ble_eq_true rfl, by first | exact .inl rfl | exact .inr rfl⟩

theorem mulh : ∀ x0, Statement (.mulh x0) := by
  intro x0 e h; cases h <;> exact ⟨Nat.le_of_ble_eq_true rfl, by first | exact .inl rfl | exact .inr rfl⟩

theorem div : ∀ x0, Statement (.div x0) := by
  intro x0 e h; cases h <;> exact ⟨Nat.le_of_ble_eq_true rfl, by first | exact .inl rfl | exact .inr rfl⟩

theorem divn : ∀ x0, Statement (.divn x0) := by
  intro x0 e h; cases h <;> exact ⟨Nat.le_of_ble_eq_true rfl, by first | exact .inl rfl | exact .inr rfl⟩

theorem rem : ∀ x0, Statement (.rem x0) := by
  intro x0 e h; cases h <;> exact ⟨Nat.le_of_ble_eq_true rfl, by first | exact .inl rfl | exact .inr rfl⟩

theorem remn : ∀ x0, Statement (.remn x0) := by
  intro x0 e h; cases h <;> exact ⟨Nat.le_of_ble_eq_true rfl, by first | exact .inl rfl | exact .inr rfl⟩

theorem and : ∀ x0, Statement (.and x0) := by
  intro x0 e h; cases h <;> exact ⟨Nat.le_of_ble_eq_true rfl, by first | exact .inl rfl | exact .inr rfl⟩

theorem or : ∀ x0, Statement (.or x0) := by
  intro x0 e h; cases h <;> exact ⟨Nat.le_of_ble_eq_true rfl, by first | exact .inl rfl | exact .inr rfl⟩

theorem xor : ∀ x0, Statement (.xor x0) := by
  intro x0 e h; cases h <;> exact ⟨Nat.le_of_ble_eq_true rfl, by first | exact .inl rfl | exact .inr rfl⟩

theorem shl : ∀ x0, Statement (.shl x0) := by
  intro x0 e h; cases h <;> exact ⟨Nat.le_of_ble_eq_true rfl, by first | exact .inl rfl | exact .inr rfl⟩

theorem shr : ∀ x0, Statement (.shr x0) := by
  intro x0 e h; cases h <;> exact ⟨Nat.le_of_ble_eq_true rfl, by first | exact .inl rfl | exact .inr rfl⟩

theorem sar : ∀ x0, Statement (.sar x0) := by
  intro x0 e h; cases h <;> exact ⟨Nat.le_of_ble_eq_true rfl, by first | exact .inl rfl | exact .inr rfl⟩

theorem min : ∀ x0, Statement (.min x0) := by
  intro x0 e h; cases h <;> exact ⟨Nat.le_of_ble_eq_true rfl, by first | exact .inl rfl | exact .inr rfl⟩

theorem max : ∀ x0, Statement (.max x0) := by
  intro x0 e h; cases h <;> exact ⟨Nat.le_of_ble_eq_true rfl, by first | exact .inl rfl | exact .inr rfl⟩

theorem minn : ∀ x0, Statement (.minn x0) := by
  intro x0 e h; cases h <;> exact ⟨Nat.le_of_ble_eq_true rfl, by first | exact .inl rfl | exact .inr rfl⟩

theorem maxn : ∀ x0, Statement (.maxn x0) := by
  intro x0 e h; cases h <;> exact ⟨Nat.le_of_ble_eq_true rfl, by first | exact .inl rfl | exact .inr rfl⟩

theorem clz : ∀ x0 x1 x2, Statement (.clz x0 x1 x2) := by
  intro x0 x1 x2 e h; cases h <;> exact ⟨Nat.le_of_ble_eq_true rfl, by first | exact .inl rfl | exact .inr rfl⟩

theorem ffs : ∀ x0 x1 x2, Statement (.ffs x0 x1 x2) := by
  intro x0 x1 x2 e h; cases h <;> exact ⟨Nat.le_of_ble_eq_true rfl, by first | exact .inl rfl | exact .inr rfl⟩

theorem popc : ∀ x0 x1 x2, Statement (.popc x0 x1 x2) := by
  intro x0 x1 x2 e h; cases h <;> exact ⟨Nat.le_of_ble_eq_true rfl, by first | exact .inl rfl | exact .inr rfl⟩

theorem sel : ∀ x0, Statement (.sel x0) := by
  intro x0 e h; cases h <;> exact ⟨Nat.le_of_ble_eq_true rfl, by first | exact .inl rfl | exact .inr rfl⟩

theorem mov : ∀ x0 x1 x2, Statement (.mov x0 x1 x2) := by
  intro x0 x1 x2 e h; cases h <;> exact ⟨Nat.le_of_ble_eq_true rfl, by first | exact .inl rfl | exact .inr rfl⟩

theorem addi : ∀ x0 x1, Statement (.addi x0 x1) := by
  intro x0 x1 e h; cases h <;> exact ⟨Nat.le_of_ble_eq_true rfl, by first | exact .inl rfl | exact .inr rfl⟩

theorem andi : ∀ x0 x1, Statement (.andi x0 x1) := by
  intro x0 x1 e h; cases h <;> exact ⟨Nat.le_of_ble_eq_true rfl, by first | exact .inl rfl | exact .inr rfl⟩

theorem ori : ∀ x0 x1, Statement (.ori x0 x1) := by
  intro x0 x1 e h; cases h <;> exact ⟨Nat.le_of_ble_eq_true rfl, by first | exact .inl rfl | exact .inr rfl⟩

theorem xori : ∀ x0 x1, Statement (.xori x0 x1) := by
  intro x0 x1 e h; cases h <;> exact ⟨Nat.le_of_ble_eq_true rfl, by first | exact .inl rfl | exact .inr rfl⟩

theorem shli : ∀ x0 x1, Statement (.shli x0 x1) := by
  intro x0 x1 e h; cases h <;> exact ⟨Nat.le_of_ble_eq_true rfl, by first | exact .inl rfl | exact .inr rfl⟩

theorem shri : ∀ x0 x1, Statement (.shri x0 x1) := by
  intro x0 x1 e h; cases h <;> exact ⟨Nat.le_of_ble_eq_true rfl, by first | exact .inl rfl | exact .inr rfl⟩

theorem sari : ∀ x0 x1, Statement (.sari x0 x1) := by
  intro x0 x1 e h; cases h <;> exact ⟨Nat.le_of_ble_eq_true rfl, by first | exact .inl rfl | exact .inr rfl⟩

theorem movi : ∀ x0 x1, Statement (.movi x0 x1) := by
  intro x0 x1 e h; cases h <;> exact ⟨Nat.le_of_ble_eq_true rfl, by first | exact .inl rfl | exact .inr rfl⟩

theorem lit : ∀ x0 x1, Statement (.lit x0 x1) := by
  intro x0 x1 e h; cases h <;> exact ⟨Nat.le_of_ble_eq_true rfl, by first | exact .inl rfl | exact .inr rfl⟩

theorem lith : ∀ x0 x1, Statement (.lith x0 x1) := by
  intro x0 x1 e h; cases h <;> exact ⟨Nat.le_of_ble_eq_true rfl, by first | exact .inl rfl | exact .inr rfl⟩

theorem cmp : ∀ x0 x1 x2 x3, Statement (.cmp x0 x1 x2 x3) := by
  intro x0 x1 x2 x3 e h; cases h <;> exact ⟨Nat.le_of_ble_eq_true rfl, by first | exact .inl rfl | exact .inr rfl⟩

theorem cmpi : ∀ x0 x1 x2 x3, Statement (.cmpi x0 x1 x2 x3) := by
  intro x0 x1 x2 x3 e h; cases h <;> exact ⟨Nat.le_of_ble_eq_true rfl, by first | exact .inl rfl | exact .inr rfl⟩

theorem plog : ∀ x0 x1 x2 x3, Statement (.plog x0 x1 x2 x3) := by
  intro x0 x1 x2 x3 e h; cases h <;> exact ⟨Nat.le_of_ble_eq_true rfl, by first | exact .inl rfl | exact .inr rfl⟩

theorem hmake : ∀ x0 x1, Statement (.hmake x0 x1) := by
  intro x0 x1 e h; cases h <;> exact ⟨Nat.le_of_ble_eq_true rfl, by first | exact .inl rfl | exact .inr rfl⟩

theorem hset : ∀ x0 x1 x2, Statement (.hset x0 x1 x2) := by
  intro x0 x1 x2 e h; cases h <;> exact ⟨Nat.le_of_ble_eq_true rfl, by first | exact .inl rfl | exact .inr rfl⟩

theorem hget : ∀ x0 x1 x2, Statement (.hget x0 x1 x2) := by
  intro x0 x1 x2 e h; cases h <;> exact ⟨Nat.le_of_ble_eq_true rfl, by first | exact .inl rfl | exact .inr rfl⟩

theorem hadv : ∀ x0 x1 x2 x3, Statement (.hadv x0 x1 x2 x3) := by
  intro x0 x1 x2 x3 e h; cases h <;> exact ⟨Nat.le_of_ble_eq_true rfl, by first | exact .inl rfl | exact .inr rfl⟩

theorem hmov : ∀ x0 x1, Statement (.hmov x0 x1) := by
  intro x0 x1 e h; cases h <;> exact ⟨Nat.le_of_ble_eq_true rfl, by first | exact .inl rfl | exact .inr rfl⟩

theorem htag : ∀ x0 x1 x2, Statement (.htag x0 x1 x2) := by
  intro x0 x1 x2 e h; cases h <;> exact ⟨Nat.le_of_ble_eq_true rfl, by first | exact .inl rfl | exact .inr rfl⟩

theorem sld : ∀ x0, Statement (.sld x0) := by
  intro x0 e h; cases h <;> exact ⟨Nat.le_of_ble_eq_true rfl, by first | exact .inl rfl | exact .inr rfl⟩

theorem sst : ∀ x0 x1 x2, Statement (.sst x0 x1 x2) := by
  intro x0 x1 x2 e h; cases h <;> exact ⟨Nat.le_of_ble_eq_true rfl, by first | exact .inl rfl | exact .inr rfl⟩

theorem br : ∀ x0, Statement (.br x0) := by
  intro x0 e h; cases h <;> exact ⟨Nat.le_of_ble_eq_true rfl, by first | exact .inl rfl | exact .inr rfl⟩

theorem jmp : ∀ x0, Statement (.jmp x0) := by
  intro x0 e h; cases h <;> exact ⟨Nat.le_of_ble_eq_true rfl, by first | exact .inl rfl | exact .inr rfl⟩

theorem call : ∀ x0, Statement (.call x0) := by
  intro x0 e h; cases h <;> exact ⟨Nat.le_of_ble_eq_true rfl, by first | exact .inl rfl | exact .inr rfl⟩

theorem loop : ∀ x0 x1, Statement (.loop x0 x1) := by
  intro x0 x1 e h; cases h <;> exact ⟨Nat.le_of_ble_eq_true rfl, by first | exact .inl rfl | exact .inr rfl⟩

theorem rwfil : ∀ x0 x1, Statement (.rwfil x0 x1) := by
  intro x0 x1 e h; cases h <;> exact ⟨Nat.le_of_ble_eq_true rfl, by first | exact .inl rfl | exact .inr rfl⟩

theorem rwfre : ∀ x0 x1, Statement (.rwfre x0 x1) := by
  intro x0 x1 e h; cases h <;> exact ⟨Nat.le_of_ble_eq_true rfl, by first | exact .inl rfl | exact .inr rfl⟩

theorem waitev : ∀ x0 x1 x2, Statement (.waitev x0 x1 x2) := by
  intro x0 x1 x2 e h; cases h <;> exact ⟨Nat.le_of_ble_eq_true rfl, by first | exact .inl rfl | exact .inr rfl⟩

theorem sigev : ∀ x0, Statement (.sigev x0) := by
  intro x0 e h; cases h <;> exact ⟨Nat.le_of_ble_eq_true rfl, by first | exact .inl rfl | exact .inr rfl⟩

theorem sigevRemote : ∀ x0 x1 x2, Statement (.sigevRemote x0 x1 x2) := by
  intro x0 x1 x2 e h; cases h <;> exact ⟨Nat.le_of_ble_eq_true rfl, by first | exact .inl rfl | exact .inr rfl⟩

theorem evarmRoute : ∀ x0 x1 x2, Statement (.evarmRoute x0 x1 x2) := by
  intro x0 x1 x2 e h; cases h <;> exact ⟨Nat.le_of_ble_eq_true rfl, by first | exact .inl rfl | exact .inr rfl⟩

theorem evarmWindow : ∀ x0 x1 x2, Statement (.evarmWindow x0 x1 x2) := by
  intro x0 x1 x2 e h; cases h <;> exact ⟨Nat.le_of_ble_eq_true rfl, by first | exact .inl rfl | exact .inr rfl⟩

theorem evarmCount : ∀ x0 x1 x2, Statement (.evarmCount x0 x1 x2) := by
  intro x0 x1 x2 e h; cases h <;> exact ⟨Nat.le_of_ble_eq_true rfl, by first | exact .inl rfl | exact .inr rfl⟩

theorem ldq : ∀ x0 x1 x2, Statement (.ldq x0 x1 x2) := by
  intro x0 x1 x2 e h; cases h <;> exact ⟨Nat.le_of_ble_eq_true rfl, by first | exact .inl rfl | exact .inr rfl⟩

theorem ldqs : ∀ x0 x1 x2, Statement (.ldqs x0 x1 x2) := by
  intro x0 x1 x2 e h; cases h <;> exact ⟨Nat.le_of_ble_eq_true rfl, by first | exact .inl rfl | exact .inr rfl⟩

theorem stq : ∀ x0 x1 x2, Statement (.stq x0 x1 x2) := by
  intro x0 x1 x2 e h; cases h <;> exact ⟨Nat.le_of_ble_eq_true rfl, by first | exact .inl rfl | exact .inr rfl⟩

theorem stqs : ∀ x0 x1 x2, Statement (.stqs x0 x1 x2) := by
  intro x0 x1 x2 e h; cases h <;> exact ⟨Nat.le_of_ble_eq_true rfl, by first | exact .inl rfl | exact .inr rfl⟩

theorem copy : ∀ x0 x1, Statement (.copy x0 x1) := by
  intro x0 x1 e h; cases h <;> exact ⟨Nat.le_of_ble_eq_true rfl, by first | exact .inl rfl | exact .inr rfl⟩

theorem tcopy : ∀ x0 x1 x2, Statement (.tcopy x0 x1 x2) := by
  intro x0 x1 x2 e h; cases h <;> exact ⟨Nat.le_of_ble_eq_true rfl, by first | exact .inl rfl | exact .inr rfl⟩

theorem gather : ∀ x0 x1 x2 x3, Statement (.gather x0 x1 x2 x3) := by
  intro x0 x1 x2 x3 e h; cases h <;> exact ⟨Nat.le_of_ble_eq_true rfl, by first | exact .inl rfl | exact .inr rfl⟩

theorem scatter : ∀ x0 x1 x2 x3, Statement (.scatter x0 x1 x2 x3) := by
  intro x0 x1 x2 x3 e h; cases h <;> exact ⟨Nat.le_of_ble_eq_true rfl, by first | exact .inl rfl | exact .inr rfl⟩

theorem rmerge : ∀ x0 x1 x2 x3, Statement (.rmerge x0 x1 x2 x3) := by
  intro x0 x1 x2 x3 e h; cases h <;> exact ⟨Nat.le_of_ble_eq_true rfl, by first | exact .inl rfl | exact .inr rfl⟩

theorem planes : ∀ x0 x1 x2, Statement (.planes x0 x1 x2) := by
  intro x0 x1 x2 e h; cases h <;> exact ⟨Nat.le_of_ble_eq_true rfl, by first | exact .inl rfl | exact .inr rfl⟩

theorem unplane : ∀ x0 x1, Statement (.unplane x0 x1) := by
  intro x0 x1 e h; cases h <;> exact ⟨Nat.le_of_ble_eq_true rfl, by first | exact .inl rfl | exact .inr rfl⟩

theorem lput : ∀ x0 x1 x2 x3, Statement (.lput x0 x1 x2 x3) := by
  intro x0 x1 x2 x3 e h; cases h <;> exact ⟨Nat.le_of_ble_eq_true rfl, by first | exact .inl rfl | exact .inr rfl⟩

theorem lputQ : ∀ x0 x1 x2, Statement (.lputQ x0 x1 x2) := by
  intro x0 x1 x2 e h; cases h <;> exact ⟨Nat.le_of_ble_eq_true rfl, by first | exact .inl rfl | exact .inr rfl⟩

theorem ltap : ∀ x0 x1 x2, Statement (.ltap x0 x1 x2) := by
  intro x0 x1 x2 e h; cases h <;> exact ⟨Nat.le_of_ble_eq_true rfl, by first | exact .inl rfl | exact .inr rfl⟩

theorem ltapRow : ∀ x0 x1 x2 x3, Statement (.ltapRow x0 x1 x2 x3) := by
  intro x0 x1 x2 x3 e h; cases h <;> exact ⟨Nat.le_of_ble_eq_true rfl, by first | exact .inl rfl | exact .inr rfl⟩

theorem tcpf : ∀ x0 x1, Statement (.tcpf x0 x1) := by
  intro x0 x1 e h; cases h <;> exact ⟨Nat.le_of_ble_eq_true rfl, by first | exact .inl rfl | exact .inr rfl⟩

theorem tcwb : ∀ x0 x1, Statement (.tcwb x0 x1) := by
  intro x0 x1 e h; cases h <;> exact ⟨Nat.le_of_ble_eq_true rfl, by first | exact .inl rfl | exact .inr rfl⟩

theorem tcinv : ∀ x0 x1, Statement (.tcinv x0 x1) := by
  intro x0 x1 e h; cases h <;> exact ⟨Nat.le_of_ble_eq_true rfl, by first | exact .inl rfl | exact .inr rfl⟩

theorem tcresize : ∀ x0 x1, Statement (.tcresize x0 x1) := by
  intro x0 x1 e h; cases h <;> exact ⟨Nat.le_of_ble_eq_true rfl, by first | exact .inl rfl | exact .inr rfl⟩

theorem rinit : ∀ x0 x1 x2 x3, Statement (.rinit x0 x1 x2 x3) := by
  intro x0 x1 x2 x3 e h; cases h <;> exact ⟨Nat.le_of_ble_eq_true rfl, by first | exact .inl rfl | exact .inr rfl⟩

theorem rclaim : ∀ x0 x1 x2, Statement (.rclaim x0 x1 x2) := by
  intro x0 x1 x2 e h; cases h <;> exact ⟨Nat.le_of_ble_eq_true rfl, by first | exact .inl rfl | exact .inr rfl⟩

theorem rpush : ∀ x0 x1 x2, Statement (.rpush x0 x1 x2) := by
  intro x0 x1 x2 e h; cases h <;> exact ⟨Nat.le_of_ble_eq_true rfl, by first | exact .inl rfl | exact .inr rfl⟩

theorem rpop : ∀ x0 x1 x2, Statement (.rpop x0 x1 x2) := by
  intro x0 x1 x2 e h; cases h <;> exact ⟨Nat.le_of_ble_eq_true rfl, by first | exact .inl rfl | exact .inr rfl⟩

theorem rstat : ∀ x0 x1, Statement (.rstat x0 x1) := by
  intro x0 x1 e h; cases h <;> exact ⟨Nat.le_of_ble_eq_true rfl, by first | exact .inl rfl | exact .inr rfl⟩

theorem atadd : ∀ x0, Statement (.atadd x0) := by
  intro x0 e h; cases h <;> exact ⟨Nat.le_of_ble_eq_true rfl, by first | exact .inl rfl | exact .inr rfl⟩

theorem atmin : ∀ x0, Statement (.atmin x0) := by
  intro x0 e h; cases h <;> exact ⟨Nat.le_of_ble_eq_true rfl, by first | exact .inl rfl | exact .inr rfl⟩

theorem atmax : ∀ x0, Statement (.atmax x0) := by
  intro x0 e h; cases h <;> exact ⟨Nat.le_of_ble_eq_true rfl, by first | exact .inl rfl | exact .inr rfl⟩

theorem atxch : ∀ x0, Statement (.atxch x0) := by
  intro x0 e h; cases h <;> exact ⟨Nat.le_of_ble_eq_true rfl, by first | exact .inl rfl | exact .inr rfl⟩

theorem atcas : ∀ x0, Statement (.atcas x0) := by
  intro x0 e h; cases h <;> exact ⟨Nat.le_of_ble_eq_true rfl, by first | exact .inl rfl | exact .inr rfl⟩

theorem ator : ∀ x0, Statement (.ator x0) := by
  intro x0 e h; cases h <;> exact ⟨Nat.le_of_ble_eq_true rfl, by first | exact .inl rfl | exact .inr rfl⟩

theorem atradd : ∀ x0, Statement (.atradd x0) := by
  intro x0 e h; cases h <;> exact ⟨Nat.le_of_ble_eq_true rfl, by first | exact .inl rfl | exact .inr rfl⟩

theorem bind : ∀ x0 x1, Statement (.bind x0 x1) := by
  intro x0 x1 e h; cases h <;> exact ⟨Nat.le_of_ble_eq_true rfl, by first | exact .inl rfl | exact .inr rfl⟩

theorem acq : ∀ x0 x1 x2 x3, Statement (.acq x0 x1 x2 x3) := by
  intro x0 x1 x2 x3 e h; cases h <;> exact ⟨Nat.le_of_ble_eq_true rfl, by first | exact .inl rfl | exact .inr rfl⟩

theorem rel : ∀ x0 x1 x2 x3, Statement (.rel x0 x1 x2 x3) := by
  intro x0 x1 x2 x3 e h; cases h <;> exact ⟨Nat.le_of_ble_eq_true rfl, by first | exact .inl rfl | exact .inr rfl⟩

theorem qfence : ∀ x0 x1 x2, Statement (.qfence x0 x1 x2) := by
  intro x0 x1 x2 e h; cases h <;> exact ⟨Nat.le_of_ble_eq_true rfl, by first | exact .inl rfl | exact .inr rfl⟩

theorem seqtag : ∀ x0 x1, Statement (.seqtag x0 x1) := by
  intro x0 x1 e h; cases h <;> exact ⟨Nat.le_of_ble_eq_true rfl, by first | exact .inl rfl | exact .inr rfl⟩

theorem mcfg : ∀ x0 x1, Statement (.mcfg x0 x1) := by
  intro x0 x1 e h; cases h <;> exact ⟨Nat.le_of_ble_eq_true rfl, by first | exact .inl rfl | exact .inr rfl⟩

theorem mcfgi : ∀ x0 x1, Statement (.mcfgi x0 x1) := by
  intro x0 x1 e h; cases h <;> exact ⟨Nat.le_of_ble_eq_true rfl, by first | exact .inl rfl | exact .inr rfl⟩

theorem mgo : ∀ x0, Statement (.mgo x0) := by
  intro x0 e h; cases h <;> exact ⟨Nat.le_of_ble_eq_true rfl, by first | exact .inl rfl | exact .inr rfl⟩

theorem mrel : ∀ x0, Statement (.mrel x0) := by
  intro x0 e h; cases h <;> exact ⟨Nat.le_of_ble_eq_true rfl, by first | exact .inl rfl | exact .inr rfl⟩

theorem mclr : ∀ x0, Statement (.mclr x0) := by
  intro x0 e h; cases h <;> exact ⟨Nat.le_of_ble_eq_true rfl, by first | exact .inl rfl | exact .inr rfl⟩

theorem mdrain : ∀ x0 x1 x2 x3, Statement (.mdrain x0 x1 x2 x3) := by
  intro x0 x1 x2 x3 e h; cases h <;> exact ⟨Nat.le_of_ble_eq_true rfl, by first | exact .inl rfl | exact .inr rfl⟩

theorem mepi : ∀ x0, Statement (.mepi x0) := by
  intro x0 e h; cases h <;> exact ⟨Nat.le_of_ble_eq_true rfl, by first | exact .inl rfl | exact .inr rfl⟩

theorem mheapReset : ∀ x0 x1, Statement (.mheapReset x0 x1) := by
  intro x0 x1 e h; cases h <;> exact ⟨Nat.le_of_ble_eq_true rfl, by first | exact .inl rfl | exact .inr rfl⟩

theorem mconst : ∀ x0, Statement (.mconst x0) := by
  intro x0 e h; cases h <;> exact ⟨Nat.le_of_ble_eq_true rfl, by first | exact .inl rfl | exact .inr rfl⟩

theorem mmaskCausal : ∀ x0, Statement (.mmaskCausal x0) := by
  intro x0 e h; cases h <;> exact ⟨Nat.le_of_ble_eq_true rfl, by first | exact .inl rfl | exact .inr rfl⟩

theorem mmaskWindow : ∀ x0 x1, Statement (.mmaskWindow x0 x1) := by
  intro x0 x1 e h; cases h <;> exact ⟨Nat.le_of_ble_eq_true rfl, by first | exact .inl rfl | exact .inr rfl⟩

theorem mmaskTree : ∀ x0 x1, Statement (.mmaskTree x0 x1) := by
  intro x0 x1 e h; cases h <;> exact ⟨Nat.le_of_ble_eq_true rfl, by first | exact .inl rfl | exact .inr rfl⟩

theorem mscale : ∀ x0 x1, Statement (.mscale x0 x1) := by
  intro x0 x1 e h; cases h <;> exact ⟨Nat.le_of_ble_eq_true rfl, by first | exact .inl rfl | exact .inr rfl⟩

theorem mcoop : ∀ x0, Statement (.mcoop x0) := by
  intro x0 e h; cases h <;> exact ⟨Nat.le_of_ble_eq_true rfl, by first | exact .inl rfl | exact .inr rfl⟩

theorem vadd : ∀ x0, Statement (.vadd x0) := by
  intro x0 e h; cases h <;> exact ⟨Nat.le_of_ble_eq_true rfl, by first | exact .inl rfl | exact .inr rfl⟩

theorem vsub : ∀ x0, Statement (.vsub x0) := by
  intro x0 e h; cases h <;> exact ⟨Nat.le_of_ble_eq_true rfl, by first | exact .inl rfl | exact .inr rfl⟩

theorem vmul : ∀ x0, Statement (.vmul x0) := by
  intro x0 e h; cases h <;> exact ⟨Nat.le_of_ble_eq_true rfl, by first | exact .inl rfl | exact .inr rfl⟩

theorem vmac : ∀ x0, Statement (.vmac x0) := by
  intro x0 e h; cases h <;> exact ⟨Nat.le_of_ble_eq_true rfl, by first | exact .inl rfl | exact .inr rfl⟩

theorem vfma : ∀ x0, Statement (.vfma x0) := by
  intro x0 e h; cases h <;> exact ⟨Nat.le_of_ble_eq_true rfl, by first | exact .inl rfl | exact .inr rfl⟩

theorem vmin : ∀ x0, Statement (.vmin x0) := by
  intro x0 e h; cases h <;> exact ⟨Nat.le_of_ble_eq_true rfl, by first | exact .inl rfl | exact .inr rfl⟩

theorem vmax : ∀ x0, Statement (.vmax x0) := by
  intro x0 e h; cases h <;> exact ⟨Nat.le_of_ble_eq_true rfl, by first | exact .inl rfl | exact .inr rfl⟩

theorem vabs : ∀ x0, Statement (.vabs x0) := by
  intro x0 e h; cases h <;> exact ⟨Nat.le_of_ble_eq_true rfl, by first | exact .inl rfl | exact .inr rfl⟩

theorem vneg : ∀ x0, Statement (.vneg x0) := by
  intro x0 e h; cases h <;> exact ⟨Nat.le_of_ble_eq_true rfl, by first | exact .inl rfl | exact .inr rfl⟩

theorem vand : ∀ x0, Statement (.vand x0) := by
  intro x0 e h; cases h <;> exact ⟨Nat.le_of_ble_eq_true rfl, by first | exact .inl rfl | exact .inr rfl⟩

theorem vor : ∀ x0, Statement (.vor x0) := by
  intro x0 e h; cases h <;> exact ⟨Nat.le_of_ble_eq_true rfl, by first | exact .inl rfl | exact .inr rfl⟩

theorem vxor : ∀ x0, Statement (.vxor x0) := by
  intro x0 e h; cases h <;> exact ⟨Nat.le_of_ble_eq_true rfl, by first | exact .inl rfl | exact .inr rfl⟩

theorem vnot : ∀ x0, Statement (.vnot x0) := by
  intro x0 e h; cases h <;> exact ⟨Nat.le_of_ble_eq_true rfl, by first | exact .inl rfl | exact .inr rfl⟩

theorem vshl : ∀ x0, Statement (.vshl x0) := by
  intro x0 e h; cases h <;> exact ⟨Nat.le_of_ble_eq_true rfl, by first | exact .inl rfl | exact .inr rfl⟩

theorem vshr : ∀ x0, Statement (.vshr x0) := by
  intro x0 e h; cases h <;> exact ⟨Nat.le_of_ble_eq_true rfl, by first | exact .inl rfl | exact .inr rfl⟩

theorem vsar : ∀ x0, Statement (.vsar x0) := by
  intro x0 e h; cases h <;> exact ⟨Nat.le_of_ble_eq_true rfl, by first | exact .inl rfl | exact .inr rfl⟩

theorem vrshr : ∀ x0, Statement (.vrshr x0) := by
  intro x0 e h; cases h <;> exact ⟨Nat.le_of_ble_eq_true rfl, by first | exact .inl rfl | exact .inr rfl⟩

theorem vsat : ∀ x0, Statement (.vsat x0) := by
  intro x0 e h; cases h <;> exact ⟨Nat.le_of_ble_eq_true rfl, by first | exact .inl rfl | exact .inr rfl⟩

theorem vclz : ∀ x0, Statement (.vclz x0) := by
  intro x0 e h; cases h <;> exact ⟨Nat.le_of_ble_eq_true rfl, by first | exact .inl rfl | exact .inr rfl⟩

theorem vffs : ∀ x0, Statement (.vffs x0) := by
  intro x0 e h; cases h <;> exact ⟨Nat.le_of_ble_eq_true rfl, by first | exact .inl rfl | exact .inr rfl⟩

theorem vpopc : ∀ x0, Statement (.vpopc x0) := by
  intro x0 e h; cases h <;> exact ⟨Nat.le_of_ble_eq_true rfl, by first | exact .inl rfl | exact .inr rfl⟩

theorem vcmp : ∀ x0, Statement (.vcmp x0) := by
  intro x0 e h; cases h <;> exact ⟨Nat.le_of_ble_eq_true rfl, by first | exact .inl rfl | exact .inr rfl⟩

theorem vsel : ∀ x0, Statement (.vsel x0) := by
  intro x0 e h; cases h <;> exact ⟨Nat.le_of_ble_eq_true rfl, by first | exact .inl rfl | exact .inr rfl⟩

theorem vcvt : ∀ x0, Statement (.vcvt x0) := by
  intro x0 e h; cases h <;> exact ⟨Nat.le_of_ble_eq_true rfl, by first | exact .inl rfl | exact .inr rfl⟩

theorem vsrnd : ∀ x0, Statement (.vsrnd x0) := by
  intro x0 e h; cases h <;> exact ⟨Nat.le_of_ble_eq_true rfl, by first | exact .inl rfl | exact .inr rfl⟩

theorem vrand : ∀ x0, Statement (.vrand x0) := by
  intro x0 e h; cases h <;> exact ⟨Nat.le_of_ble_eq_true rfl, by first | exact .inl rfl | exact .inr rfl⟩

theorem viota : ∀ x0, Statement (.viota x0) := by
  intro x0 e h; cases h <;> exact ⟨Nat.le_of_ble_eq_true rfl, by first | exact .inl rfl | exact .inr rfl⟩

theorem vmov : ∀ x0, Statement (.vmov x0) := by
  intro x0 e h; cases h <;> exact ⟨Nat.le_of_ble_eq_true rfl, by first | exact .inl rfl | exact .inr rfl⟩

theorem vimm : ∀ x0 x1, Statement (.vimm x0 x1) := by
  intro x0 x1 e h; cases h <;> exact ⟨Nat.le_of_ble_eq_true rfl, by first | exact .inl rfl | exact .inr rfl⟩

theorem vmulh : ∀ x0, Statement (.vmulh x0) := by
  intro x0 e h; cases h <;> exact ⟨Nat.le_of_ble_eq_true rfl, by first | exact .inl rfl | exact .inr rfl⟩

theorem vrotr : ∀ x0, Statement (.vrotr x0) := by
  intro x0 e h; cases h <;> exact ⟨Nat.le_of_ble_eq_true rfl, by first | exact .inl rfl | exact .inr rfl⟩

theorem vrotc : ∀ x0, Statement (.vrotc x0) := by
  intro x0 e h; cases h <;> exact ⟨Nat.le_of_ble_eq_true rfl, by first | exact .inl rfl | exact .inr rfl⟩

theorem vbcr : ∀ x0, Statement (.vbcr x0) := by
  intro x0 e h; cases h <;> exact ⟨Nat.le_of_ble_eq_true rfl, by first | exact .inl rfl | exact .inr rfl⟩

theorem vbcc : ∀ x0, Statement (.vbcc x0) := by
  intro x0 e h; cases h <;> exact ⟨Nat.le_of_ble_eq_true rfl, by first | exact .inl rfl | exact .inr rfl⟩

theorem vredr : ∀ x0, Statement (.vredr x0) := by
  intro x0 e h; cases h <;> exact ⟨Nat.le_of_ble_eq_true rfl, by first | exact .inl rfl | exact .inr rfl⟩

theorem vredc : ∀ x0, Statement (.vredc x0) := by
  intro x0 e h; cases h <;> exact ⟨Nat.le_of_ble_eq_true rfl, by first | exact .inl rfl | exact .inr rfl⟩

theorem vscanr : ∀ x0, Statement (.vscanr x0) := by
  intro x0 e h; cases h <;> exact ⟨Nat.le_of_ble_eq_true rfl, by first | exact .inl rfl | exact .inr rfl⟩

theorem vscanc : ∀ x0, Statement (.vscanc x0) := by
  intro x0 e h; cases h <;> exact ⟨Nat.le_of_ble_eq_true rfl, by first | exact .inl rfl | exact .inr rfl⟩

theorem vshfr : ∀ x0, Statement (.vshfr x0) := by
  intro x0 e h; cases h <;> exact ⟨Nat.le_of_ble_eq_true rfl, by first | exact .inl rfl | exact .inr rfl⟩

theorem vtrn : ∀ x0, Statement (.vtrn x0) := by
  intro x0 e h; cases h <;> exact ⟨Nat.le_of_ble_eq_true rfl, by first | exact .inl rfl | exact .inr rfl⟩

theorem vpop : ∀ x0, Statement (.vpop x0) := by
  intro x0 e h; cases h <;> exact ⟨Nat.le_of_ble_eq_true rfl, by first | exact .inl rfl | exact .inr rfl⟩

theorem vpush : ∀ x0, Statement (.vpush x0) := by
  intro x0 e h; cases h <;> exact ⟨Nat.le_of_ble_eq_true rfl, by first | exact .inl rfl | exact .inr rfl⟩

theorem vrdacc : ∀ x0, Statement (.vrdacc x0) := by
  intro x0 e h; cases h <;> exact ⟨Nat.le_of_ble_eq_true rfl, by first | exact .inl rfl | exact .inr rfl⟩

theorem vwracc : ∀ x0, Statement (.vwracc x0) := by
  intro x0 e h; cases h <;> exact ⟨Nat.le_of_ble_eq_true rfl, by first | exact .inl rfl | exact .inr rfl⟩

theorem vsfn : ∀ x0, Statement (.vsfn x0) := by
  intro x0 e h; cases h <;> exact ⟨Nat.le_of_ble_eq_true rfl, by first | exact .inl rfl | exact .inr rfl⟩

theorem vcoef : ∀ x0 x1, Statement (.vcoef x0 x1) := by
  intro x0 x1 e h; cases h <;> exact ⟨Nat.le_of_ble_eq_true rfl, by first | exact .inl rfl | exact .inr rfl⟩

theorem dact : ∀ x0 x1 x2, Statement (.dact x0 x1 x2) := by
  intro x0 x1 x2 e h; cases h <;> exact ⟨Nat.le_of_ble_eq_true rfl, by first | exact .inl rfl | exact .inr rfl⟩

theorem drd : ∀ x0 x1 x2 x3 x4 x5, Statement (.drd x0 x1 x2 x3 x4 x5) := by
  intro x0 x1 x2 x3 x4 x5 e h; cases h <;> exact ⟨Nat.le_of_ble_eq_true rfl, by first | exact .inl rfl | exact .inr rfl⟩

theorem dwr : ∀ x0 x1 x2 x3 x4 x5, Statement (.dwr x0 x1 x2 x3 x4 x5) := by
  intro x0 x1 x2 x3 x4 x5 e h; cases h <;> exact ⟨Nat.le_of_ble_eq_true rfl, by first | exact .inl rfl | exact .inr rfl⟩

theorem dpre : ∀ x0 x1, Statement (.dpre x0 x1) := by
  intro x0 x1 e h; cases h <;> exact ⟨Nat.le_of_ble_eq_true rfl, by first | exact .inl rfl | exact .inr rfl⟩

theorem dprea : ∀ x0, Statement (.dprea x0) := by
  intro x0 e h; cases h <;> exact ⟨Nat.le_of_ble_eq_true rfl, by first | exact .inl rfl | exact .inr rfl⟩

theorem dref : ∀ x0, Statement (.dref x0) := by
  intro x0 e h; cases h <;> exact ⟨Nat.le_of_ble_eq_true rfl, by first | exact .inl rfl | exact .inr rfl⟩

theorem drefb : ∀ x0 x1, Statement (.drefb x0 x1) := by
  intro x0 x1 e h; cases h <;> exact ⟨Nat.le_of_ble_eq_true rfl, by first | exact .inl rfl | exact .inr rfl⟩

theorem dmrw : ∀ x0 x1 x2, Statement (.dmrw x0 x1 x2) := by
  intro x0 x1 x2 e h; cases h <;> exact ⟨Nat.le_of_ble_eq_true rfl, by first | exact .inl rfl | exact .inr rfl⟩

theorem dmrr : ∀ x0 x1 x2 x3, Statement (.dmrr x0 x1 x2 x3) := by
  intro x0 x1 x2 x3 e h; cases h <;> exact ⟨Nat.le_of_ble_eq_true rfl, by first | exact .inl rfl | exact .inr rfl⟩

theorem dzqStart : ∀ x0, Statement (.dzqStart x0) := by
  intro x0 e h; cases h <;> exact ⟨Nat.le_of_ble_eq_true rfl, by first | exact .inl rfl | exact .inr rfl⟩

theorem dzqLatch : ∀ x0, Statement (.dzqLatch x0) := by
  intro x0 e h; cases h <;> exact ⟨Nat.le_of_ble_eq_true rfl, by first | exact .inl rfl | exact .inr rfl⟩

theorem dsrefEnter : ∀ x0, Statement (.dsrefEnter x0) := by
  intro x0 e h; cases h <;> exact ⟨Nat.le_of_ble_eq_true rfl, by first | exact .inl rfl | exact .inr rfl⟩

theorem dsrefExit : ∀ x0, Statement (.dsrefExit x0) := by
  intro x0 e h; cases h <;> exact ⟨Nat.le_of_ble_eq_true rfl, by first | exact .inl rfl | exact .inr rfl⟩

theorem dtlb : ∀ x0 x1 x2 x3, Statement (.dtlb x0 x1 x2 x3) := by
  intro x0 x1 x2 x3 e h; cases h <;> exact ⟨Nat.le_of_ble_eq_true rfl, by first | exact .inl rfl | exact .inr rfl⟩

theorem dtlbq : ∀ x0 x1 x2 x3, Statement (.dtlbq x0 x1 x2 x3) := by
  intro x0 x1 x2 x3 e h; cases h <;> exact ⟨Nat.le_of_ble_eq_true rfl, by first | exact .inl rfl | exact .inr rfl⟩

theorem dpfs : ∀ x0 x1, Statement (.dpfs x0 x1) := by
  intro x0 x1 e h; cases h <;> exact ⟨Nat.le_of_ble_eq_true rfl, by first | exact .inl rfl | exact .inr rfl⟩

theorem qbind : ∀ x0 x1, Statement (.qbind x0 x1) := by
  intro x0 x1 e h; cases h <;> exact ⟨Nat.le_of_ble_eq_true rfl, by first | exact .inl rfl | exact .inr rfl⟩

theorem qstep : ∀ x0 x1, Statement (.qstep x0 x1) := by
  intro x0 x1 e h; cases h <;> exact ⟨Nat.le_of_ble_eq_true rfl, by first | exact .inl rfl | exact .inr rfl⟩

theorem qmask : ∀ x0 x1, Statement (.qmask x0 x1) := by
  intro x0 x1 e h; cases h <;> exact ⟨Nat.le_of_ble_eq_true rfl, by first | exact .inl rfl | exact .inr rfl⟩

theorem qmerge : ∀ x0 x1, Statement (.qmerge x0 x1) := by
  intro x0 x1 e h; cases h <;> exact ⟨Nat.le_of_ble_eq_true rfl, by first | exact .inl rfl | exact .inr rfl⟩

theorem qstate : ∀ x0 x1, Statement (.qstate x0 x1) := by
  intro x0 x1 e h; cases h <;> exact ⟨Nat.le_of_ble_eq_true rfl, by first | exact .inl rfl | exact .inr rfl⟩

theorem qchain : ∀ x0 x1, Statement (.qchain x0 x1) := by
  intro x0 x1 e h; cases h <;> exact ⟨Nat.le_of_ble_eq_true rfl, by first | exact .inl rfl | exact .inr rfl⟩

theorem knew : ∀ x0, Statement (.knew x0) := by
  intro x0 e h; cases h <;> exact ⟨Nat.le_of_ble_eq_true rfl, by first | exact .inl rfl | exact .inr rfl⟩

theorem knewSeq : ∀ x0, Statement (.knewSeq x0) := by
  intro x0 e h; cases h <;> exact ⟨Nat.le_of_ble_eq_true rfl, by first | exact .inl rfl | exact .inr rfl⟩

theorem kput : ∀ x0, Statement (.kput x0) := by
  intro x0 e h; cases h <;> exact ⟨Nat.le_of_ble_eq_true rfl, by first | exact .inl rfl | exact .inr rfl⟩

theorem ktree : ∀ x0, Statement (.ktree x0) := by
  intro x0 e h; cases h <;> exact ⟨Nat.le_of_ble_eq_true rfl, by first | exact .inl rfl | exact .inr rfl⟩

theorem kcommit : ∀ x0, Statement (.kcommit x0) := by
  intro x0 e h; cases h <;> exact ⟨Nat.le_of_ble_eq_true rfl, by first | exact .inl rfl | exact .inr rfl⟩

theorem ksquash : ∀ x0, Statement (.ksquash x0) := by
  intro x0 e h; cases h <;> exact ⟨Nat.le_of_ble_eq_true rfl, by first | exact .inl rfl | exact .inr rfl⟩

theorem ksquashSeq : ∀ x0, Statement (.ksquashSeq x0) := by
  intro x0 e h; cases h <;> exact ⟨Nat.le_of_ble_eq_true rfl, by first | exact .inl rfl | exact .inr rfl⟩

theorem kfork : ∀ x0, Statement (.kfork x0) := by
  intro x0 e h; cases h <;> exact ⟨Nat.le_of_ble_eq_true rfl, by first | exact .inl rfl | exact .inr rfl⟩

theorem kpin : ∀ x0, Statement (.kpin x0) := by
  intro x0 e h; cases h <;> exact ⟨Nat.le_of_ble_eq_true rfl, by first | exact .inl rfl | exact .inr rfl⟩

theorem kslide : ∀ x0, Statement (.kslide x0) := by
  intro x0 e h; cases h <;> exact ⟨Nat.le_of_ble_eq_true rfl, by first | exact .inl rfl | exact .inr rfl⟩

theorem kdemote : ∀ x0 x1, Statement (.kdemote x0 x1) := by
  intro x0 x1 e h; cases h <;> exact ⟨Nat.le_of_ble_eq_true rfl, by first | exact .inl rfl | exact .inr rfl⟩

theorem kpromote : ∀ x0 x1, Statement (.kpromote x0 x1) := by
  intro x0 x1 e h; cases h <;> exact ⟨Nat.le_of_ble_eq_true rfl, by first | exact .inl rfl | exact .inr rfl⟩

theorem kfeat : ∀ x0 x1, Statement (.kfeat x0 x1) := by
  intro x0 x1 e h; cases h <;> exact ⟨Nat.le_of_ble_eq_true rfl, by first | exact .inl rfl | exact .inr rfl⟩

theorem kfeatRd : ∀ x0 x1, Statement (.kfeatRd x0 x1) := by
  intro x0 x1 e h; cases h <;> exact ⟨Nat.le_of_ble_eq_true rfl, by first | exact .inl rfl | exact .inr rfl⟩

theorem kfroll : ∀ x0, Statement (.kfroll x0) := by
  intro x0 e h; cases h <;> exact ⟨Nat.le_of_ble_eq_true rfl, by first | exact .inl rfl | exact .inr rfl⟩

theorem kquery : ∀ x0, Statement (.kquery x0) := by
  intro x0 e h; cases h <;> exact ⟨Nat.le_of_ble_eq_true rfl, by first | exact .inl rfl | exact .inr rfl⟩

theorem kqueryHeads : ∀ x0, Statement (.kqueryHeads x0) := by
  intro x0 e h; cases h <;> exact ⟨Nat.le_of_ble_eq_true rfl, by first | exact .inl rfl | exact .inr rfl⟩

theorem kreq : ∀ x0, Statement (.kreq x0) := by
  intro x0 e h; cases h <;> exact ⟨Nat.le_of_ble_eq_true rfl, by first | exact .inl rfl | exact .inr rfl⟩

theorem gseedSeq : ∀ x0 x1, Statement (.gseedSeq x0 x1) := by
  intro x0 x1 e h; cases h <;> exact ⟨Nat.le_of_ble_eq_true rfl, by first | exact .inl rfl | exact .inr rfl⟩

theorem gseedObj : ∀ x0 x1, Statement (.gseedObj x0 x1) := by
  intro x0 x1 e h; cases h <;> exact ⟨Nat.le_of_ble_eq_true rfl, by first | exact .inl rfl | exact .inr rfl⟩

theorem gsoft : ∀ x0 x1, Statement (.gsoft x0 x1) := by
  intro x0 x1 e h; cases h <;> exact ⟨Nat.le_of_ble_eq_true rfl, by first | exact .inl rfl | exact .inr rfl⟩

theorem gsoftTopk : ∀ x0 x1, Statement (.gsoftTopk x0 x1) := by
  intro x0 x1 e h; cases h <;> exact ⟨Nat.le_of_ble_eq_true rfl, by first | exact .inl rfl | exact .inr rfl⟩

theorem gcdf : ∀ x0 x1, Statement (.gcdf x0 x1) := by
  intro x0 x1 e h; cases h <;> exact ⟨Nat.le_of_ble_eq_true rfl, by first | exact .inl rfl | exact .inr rfl⟩

theorem gpick : ∀ x0 x1, Statement (.gpick x0 x1) := by
  intro x0 x1 e h; cases h <;> exact ⟨Nat.le_of_ble_eq_true rfl, by first | exact .inl rfl | exact .inr rfl⟩

theorem gpickTopk : ∀ x0 x1, Statement (.gpickTopk x0 x1) := by
  intro x0 x1 e h; cases h <;> exact ⟨Nat.le_of_ble_eq_true rfl, by first | exact .inl rfl | exact .inr rfl⟩

theorem gaccept : ∀ x0 x1, Statement (.gaccept x0 x1) := by
  intro x0 x1 e h; cases h <;> exact ⟨Nat.le_of_ble_eq_true rfl, by first | exact .inl rfl | exact .inr rfl⟩

theorem gacceptGreedy : ∀ x0 x1, Statement (.gacceptGreedy x0 x1) := by
  intro x0 x1 e h; cases h <;> exact ⟨Nat.le_of_ble_eq_true rfl, by first | exact .inl rfl | exact .inr rfl⟩

theorem gresid : ∀ x0 x1, Statement (.gresid x0 x1) := by
  intro x0 x1 e h; cases h <;> exact ⟨Nat.le_of_ble_eq_true rfl, by first | exact .inl rfl | exact .inr rfl⟩

theorem gnext : ∀ x0 x1, Statement (.gnext x0 x1) := by
  intro x0 x1 e h; cases h <;> exact ⟨Nat.le_of_ble_eq_true rfl, by first | exact .inl rfl | exact .inr rfl⟩

theorem gparamAssume : ∀ x0 x1, Statement (.gparamAssume x0 x1) := by
  intro x0 x1 e h; cases h <;> exact ⟨Nat.le_of_ble_eq_true rfl, by first | exact .inl rfl | exact .inr rfl⟩

theorem gparamClear : ∀ x0 x1, Statement (.gparamClear x0 x1) := by
  intro x0 x1 e h; cases h <;> exact ⟨Nat.le_of_ble_eq_true rfl, by first | exact .inl rfl | exact .inr rfl⟩

theorem gpub : ∀ x0 x1, Statement (.gpub x0 x1) := by
  intro x0 x1 e h; cases h <;> exact ⟨Nat.le_of_ble_eq_true rfl, by first | exact .inl rfl | exact .inr rfl⟩

theorem gstat : ∀ x0 x1, Statement (.gstat x0 x1) := by
  intro x0 x1 e h; cases h <;> exact ⟨Nat.le_of_ble_eq_true rfl, by first | exact .inl rfl | exact .inr rfl⟩

theorem gstatClr : ∀ x0 x1, Statement (.gstatClr x0 x1) := by
  intro x0 x1 e h; cases h <;> exact ⟨Nat.le_of_ble_eq_true rfl, by first | exact .inl rfl | exact .inr rfl⟩

theorem wtime : ∀ x0, Statement (.wtime x0) := by
  intro x0 e h; cases h <;> exact ⟨Nat.le_of_ble_eq_true rfl, by first | exact .inl rfl | exact .inr rfl⟩

theorem wtimePort : ∀ x0, Statement (.wtimePort x0) := by
  intro x0 e h; cases h <;> exact ⟨Nat.le_of_ble_eq_true rfl, by first | exact .inl rfl | exact .inr rfl⟩

theorem wtick : ∀ x0, Statement (.wtick x0) := by
  intro x0 e h; cases h <;> exact ⟨Nat.le_of_ble_eq_true rfl, by first | exact .inl rfl | exact .inr rfl⟩

theorem wtickOff : ∀ x0, Statement (.wtickOff x0) := by
  intro x0 e h; cases h <;> exact ⟨Nat.le_of_ble_eq_true rfl, by first | exact .inl rfl | exact .inr rfl⟩

theorem wflow : ∀ x0, Statement (.wflow x0) := by
  intro x0 e h; cases h <;> exact ⟨Nat.le_of_ble_eq_true rfl, by first | exact .inl rfl | exact .inr rfl⟩

theorem wflowOff : ∀ x0, Statement (.wflowOff x0) := by
  intro x0 e h; cases h <;> exact ⟨Nat.le_of_ble_eq_true rfl, by first | exact .inl rfl | exact .inr rfl⟩

theorem wbind : ∀ x0, Statement (.wbind x0) := by
  intro x0 e h; cases h <;> exact ⟨Nat.le_of_ble_eq_true rfl, by first | exact .inl rfl | exact .inr rfl⟩

theorem wbindOff : ∀ x0, Statement (.wbindOff x0) := by
  intro x0 e h; cases h <;> exact ⟨Nat.le_of_ble_eq_true rfl, by first | exact .inl rfl | exact .inr rfl⟩

theorem wlate : ∀ x0, Statement (.wlate x0) := by
  intro x0 e h; cases h <;> exact ⟨Nat.le_of_ble_eq_true rfl, by first | exact .inl rfl | exact .inr rfl⟩

theorem wdead : ∀ x0, Statement (.wdead x0) := by
  intro x0 e h; cases h <;> exact ⟨Nat.le_of_ble_eq_true rfl, by first | exact .inl rfl | exact .inr rfl⟩

theorem wdeadOff : ∀ x0, Statement (.wdeadOff x0) := by
  intro x0 e h; cases h <;> exact ⟨Nat.le_of_ble_eq_true rfl, by first | exact .inl rfl | exact .inr rfl⟩

theorem wstat : ∀ x0, Statement (.wstat x0) := by
  intro x0 e h; cases h <;> exact ⟨Nat.le_of_ble_eq_true rfl, by first | exact .inl rfl | exact .inr rfl⟩

theorem wstatClr : ∀ x0, Statement (.wstatClr x0) := by
  intro x0 e h; cases h <;> exact ⟨Nat.le_of_ble_eq_true rfl, by first | exact .inl rfl | exact .inr rfl⟩

theorem nsend : ∀ x0 x1, Statement (.nsend x0 x1) := by
  intro x0 x1 e h; cases h <;> exact ⟨Nat.le_of_ble_eq_true rfl, by first | exact .inl rfl | exact .inr rfl⟩

theorem nrecv : ∀ x0 x1 x2 x3, Statement (.nrecv x0 x1 x2 x3) := by
  intro x0 x1 x2 x3 e h; cases h <;> exact ⟨Nat.le_of_ble_eq_true rfl, by first | exact .inl rfl | exact .inr rfl⟩

theorem nred : ∀ x0 x1, Statement (.nred x0 x1) := by
  intro x0 x1 e h; cases h <;> exact ⟨Nat.le_of_ble_eq_true rfl, by first | exact .inl rfl | exact .inr rfl⟩

theorem nredArrival : ∀ x0 x1, Statement (.nredArrival x0 x1) := by
  intro x0 x1 e h; cases h <;> exact ⟨Nat.le_of_ble_eq_true rfl, by first | exact .inl rfl | exact .inr rfl⟩

theorem nbar : ∀ x0 x1, Statement (.nbar x0 x1) := by
  intro x0 x1 e h; cases h <;> exact ⟨Nat.le_of_ble_eq_true rfl, by first | exact .inl rfl | exact .inr rfl⟩

theorem nmode : ∀ x0 x1, Statement (.nmode x0 x1) := by
  intro x0 x1 e h; cases h <;> exact ⟨Nat.le_of_ble_eq_true rfl, by first | exact .inl rfl | exact .inr rfl⟩

theorem nstat : ∀ x0 x1, Statement (.nstat x0 x1) := by
  intro x0 x1 e h; cases h <;> exact ⟨Nat.le_of_ble_eq_true rfl, by first | exact .inl rfl | exact .inr rfl⟩

theorem nstatClr : ∀ x0 x1, Statement (.nstatClr x0 x1) := by
  intro x0 x1 e h; cases h <;> exact ⟨Nat.le_of_ble_eq_true rfl, by first | exact .inl rfl | exact .inr rfl⟩

theorem ftrig : ∀ x0, Statement (.ftrig x0) := by
  intro x0 e h; cases h <;> exact ⟨Nat.le_of_ble_eq_true rfl, by first | exact .inl rfl | exact .inr rfl⟩

theorem fckpt : ∀ x0, Statement (.fckpt x0) := by
  intro x0 e h; cases h <;> exact ⟨Nat.le_of_ble_eq_true rfl, by first | exact .inl rfl | exact .inr rfl⟩

theorem flend : ∀ x0, Statement (.flend x0) := by
  intro x0 e h; cases h <;> exact ⟨Nat.le_of_ble_eq_true rfl, by first | exact .inl rfl | exact .inr rfl⟩

theorem frecl : ∀ x0, Statement (.frecl x0) := by
  intro x0 e h; cases h <;> exact ⟨Nat.le_of_ble_eq_true rfl, by first | exact .inl rfl | exact .inr rfl⟩

theorem fpost : ∀ x0, Statement (.fpost x0) := by
  intro x0 e h; cases h <;> exact ⟨Nat.le_of_ble_eq_true rfl, by first | exact .inl rfl | exact .inr rfl⟩

theorem spacer : Statement .spacer := by
  intro e h; cases h <;> exact ⟨Nat.le_of_ble_eq_true rfl, by first | exact .inl rfl | exact .inr rfl⟩

theorem nop : Statement .nop := by
  intro e h; cases h <;> exact ⟨Nat.le_of_ble_eq_true rfl, by first | exact .inl rfl | exact .inr rfl⟩

theorem align : Statement .align := by
  intro e h; cases h <;> exact ⟨Nat.le_of_ble_eq_true rfl, by first | exact .inl rfl | exact .inr rfl⟩

theorem halt : Statement .halt := by
  intro e h; cases h <;> exact ⟨Nat.le_of_ble_eq_true rfl, by first | exact .inl rfl | exact .inr rfl⟩

theorem rett : Statement .rett := by
  intro e h; cases h <;> exact ⟨Nat.le_of_ble_eq_true rfl, by first | exact .inl rfl | exact .inr rfl⟩

theorem fetchb : Statement .fetchb := by
  intro e h; cases h <;> exact ⟨Nat.le_of_ble_eq_true rfl, by first | exact .inl rfl | exact .inr rfl⟩

theorem ret : Statement .ret := by
  intro e h; cases h <;> exact ⟨Nat.le_of_ble_eq_true rfl, by first | exact .inl rfl | exact .inr rfl⟩

theorem frag : Statement .frag := by
  intro e h; cases h <;> exact ⟨Nat.le_of_ble_eq_true rfl, by first | exact .inl rfl | exact .inr rfl⟩

theorem mswap : Statement .mswap := by
  intro e h; cases h <;> exact ⟨Nat.le_of_ble_eq_true rfl, by first | exact .inl rfl | exact .inr rfl⟩

theorem mheapDrain : Statement .mheapDrain := by
  intro e h; cases h <;> exact ⟨Nat.le_of_ble_eq_true rfl, by first | exact .inl rfl | exact .inr rfl⟩

theorem mheapDrainr : Statement .mheapDrainr := by
  intro e h; cases h <;> exact ⟨Nat.le_of_ble_eq_true rfl, by first | exact .inl rfl | exact .inr rfl⟩

theorem mconstOff : Statement .mconstOff := by
  intro e h; cases h <;> exact ⟨Nat.le_of_ble_eq_true rfl, by first | exact .inl rfl | exact .inr rfl⟩

theorem mmaskNone : Statement .mmaskNone := by
  intro e h; cases h <;> exact ⟨Nat.le_of_ble_eq_true rfl, by first | exact .inl rfl | exact .inr rfl⟩

theorem mcoopOff : Statement .mcoopOff := by
  intro e h; cases h <;> exact ⟨Nat.le_of_ble_eq_true rfl, by first | exact .inl rfl | exact .inr rfl⟩

theorem alignRelease : Statement .alignRelease := by
  intro e h; cases h <;> exact ⟨Nat.le_of_ble_eq_true rfl, by first | exact .inl rfl | exact .inr rfl⟩

theorem fragRelease : Statement .fragRelease := by
  intro e h; cases h <;> exact ⟨Nat.le_of_ble_eq_true rfl, by first | exact .inl rfl | exact .inr rfl⟩

theorem resumption : Statement .resumption := by
  intro e h; cases h <;> exact ⟨Nat.le_of_ble_eq_true rfl, by first | exact .inl rfl | exact .inr rfl⟩

theorem interrupt : Statement .interrupt := by
  intro e h; cases h <;> exact ⟨Nat.le_of_ble_eq_true rfl, by first | exact .inl rfl | exact .inr rfl⟩

theorem translationAbsent : Statement .translationAbsent := by
  intro e h; cases h <;> exact ⟨Nat.le_of_ble_eq_true rfl, by first | exact .inl rfl | exact .inr rfl⟩

theorem tileCacheFill : Statement .tileCacheFill := by
  intro e h; cases h <;> exact ⟨Nat.le_of_ble_eq_true rfl, by first | exact .inl rfl | exact .inr rfl⟩

theorem drdLanding : Statement .drdLanding := by
  intro e h; cases h <;> exact ⟨Nat.le_of_ble_eq_true rfl, by first | exact .inl rfl | exact .inr rfl⟩

theorem dmrrLanding : Statement .dmrrLanding := by
  intro e h; cases h <;> exact ⟨Nat.le_of_ble_eq_true rfl, by first | exact .inl rfl | exact .inr rfl⟩

theorem refreshDebt : Statement .refreshDebt := by
  intro e h; cases h <;> exact ⟨Nat.le_of_ble_eq_true rfl, by first | exact .inl rfl | exact .inr rfl⟩

theorem pollGap : Statement .pollGap := by
  intro e h; cases h <;> exact ⟨Nat.le_of_ble_eq_true rfl, by first | exact .inl rfl | exact .inr rfl⟩

theorem frozenRefresh : Statement .frozenRefresh := by
  intro e h; cases h <;> exact ⟨Nat.le_of_ble_eq_true rfl, by first | exact .inl rfl | exact .inr rfl⟩

theorem frozenPoll : Statement .frozenPoll := by
  intro e h; cases h <;> exact ⟨Nat.le_of_ble_eq_true rfl, by first | exact .inl rfl | exact .inr rfl⟩

theorem temperatureReport : Statement .temperatureReport := by
  intro e h; cases h <;> exact ⟨Nat.le_of_ble_eq_true rfl, by first | exact .inl rfl | exact .inr rfl⟩

theorem jobCardStart : Statement .jobCardStart := by
  intro e h; cases h <;> exact ⟨Nat.le_of_ble_eq_true rfl, by first | exact .inl rfl | exact .inr rfl⟩

theorem decodeAttentionCardCompletion : Statement .decodeAttentionCardCompletion := by
  intro e h; cases h <;> exact ⟨Nat.le_of_ble_eq_true rfl, by first | exact .inl rfl | exact .inr rfl⟩

theorem stacksStep : Statement .stacksStep := by
  intro e h; cases h <;> exact ⟨Nat.le_of_ble_eq_true rfl, by first | exact .inl rfl | exact .inr rfl⟩

theorem samplingCardCompletion : Statement .samplingCardCompletion := by
  intro e h; cases h <;> exact ⟨Nat.le_of_ble_eq_true rfl, by first | exact .inl rfl | exact .inr rfl⟩

theorem abandonment : Statement .abandonment := by
  intro e h; cases h <;> exact ⟨Nat.le_of_ble_eq_true rfl, by first | exact .inl rfl | exact .inr rfl⟩

theorem timeIngestCardCompletion : Statement .timeIngestCardCompletion := by
  intro e h; cases h <;> exact ⟨Nat.le_of_ble_eq_true rfl, by first | exact .inl rfl | exact .inr rfl⟩

theorem linkCardCompletion : Statement .linkCardCompletion := by
  intro e h; cases h <;> exact ⟨Nat.le_of_ble_eq_true rfl, by first | exact .inl rfl | exact .inr rfl⟩

theorem frontEndCardCompletion : Statement .frontEndCardCompletion := by
  intro e h; cases h <;> exact ⟨Nat.le_of_ble_eq_true rfl, by first | exact .inl rfl | exact .inr rfl⟩

theorem specFault : Statement .specFault := by
  intro e h; cases h <;> exact ⟨Nat.le_of_ble_eq_true rfl, by first | exact .inl rfl | exact .inr rfl⟩

theorem link : Statement .link := by
  intro e h; cases h <;> exact ⟨Nat.le_of_ble_eq_true rfl, by first | exact .inl rfl | exact .inr rfl⟩

theorem copyLanding : Statement .copyLanding := by
  intro e h; cases h <;> exact ⟨Nat.le_of_ble_eq_true rfl, by first | exact .inl rfl | exact .inr rfl⟩

theorem requantisationLanding : Statement .requantisationLanding := by
  intro e h; cases h <;> exact ⟨Nat.le_of_ble_eq_true rfl, by first | exact .inl rfl | exact .inr rfl⟩

theorem faultReport : Statement .faultReport := by
  intro e h; cases h <;> exact ⟨Nat.le_of_ble_eq_true rfl, by first | exact .inl rfl | exact .inr rfl⟩

theorem tick : Statement .tick := by
  intro e h; cases h <;> exact ⟨Nat.le_of_ble_eq_true rfl, by first | exact .inl rfl | exact .inr rfl⟩

theorem decision : Statement .decision := by
  intro e h; cases h <;> exact ⟨Nat.le_of_ble_eq_true rfl, by first | exact .inl rfl | exact .inr rfl⟩

theorem watchDeadline : Statement .watchDeadline := by
  intro e h; cases h <;> exact ⟨Nat.le_of_ble_eq_true rfl, by first | exact .inl rfl | exact .inr rfl⟩

theorem frame : Statement .frame := by
  intro e h; cases h <;> exact ⟨Nat.le_of_ble_eq_true rfl, by first | exact .inl rfl | exact .inr rfl⟩

theorem clockFrame : Statement .clockFrame := by
  intro e h; cases h <;> exact ⟨Nat.le_of_ble_eq_true rfl, by first | exact .inl rfl | exact .inr rfl⟩

theorem flitReception : Statement .flitReception := by
  intro e h; cases h <;> exact ⟨Nat.le_of_ble_eq_true rfl, by first | exact .inl rfl | exact .inr rfl⟩

theorem nak : Statement .nak := by
  intro e h; cases h <;> exact ⟨Nat.le_of_ble_eq_true rfl, by first | exact .inl rfl | exact .inr rfl⟩

theorem replayLimit : Statement .replayLimit := by
  intro e h; cases h <;> exact ⟨Nat.le_of_ble_eq_true rfl, by first | exact .inl rfl | exact .inr rfl⟩

theorem ackTimeout : Statement .ackTimeout := by
  intro e h; cases h <;> exact ⟨Nat.le_of_ble_eq_true rfl, by first | exact .inl rfl | exact .inr rfl⟩

theorem lossOfLink : Statement .lossOfLink := by
  intro e h; cases h <;> exact ⟨Nat.le_of_ble_eq_true rfl, by first | exact .inl rfl | exact .inr rfl⟩

theorem message : Statement .message := by
  intro e h; cases h <;> exact ⟨Nat.le_of_ble_eq_true rfl, by first | exact .inl rfl | exact .inr rfl⟩

theorem delivery : Statement .delivery := by
  intro e h; cases h <;> exact ⟨Nat.le_of_ble_eq_true rfl, by first | exact .inl rfl | exact .inr rfl⟩

theorem instancePlacement : Statement .instancePlacement := by
  intro e h; cases h <;> exact ⟨Nat.le_of_ble_eq_true rfl, by first | exact .inl rfl | exact .inr rfl⟩

theorem preEmption : Statement .preEmption := by
  intro e h; cases h <;> exact ⟨Nat.le_of_ble_eq_true rfl, by first | exact .inl rfl | exact .inr rfl⟩

theorem reclaimed : Statement .reclaimed := by
  intro e h; cases h <;> exact ⟨Nat.le_of_ble_eq_true rfl, by first | exact .inl rfl | exact .inr rfl⟩

theorem doorbell : Statement .doorbell := by
  intro e h; cases h <;> exact ⟨Nat.le_of_ble_eq_true rfl, by first | exact .inl rfl | exact .inr rfl⟩

theorem registerWrite : Statement .registerWrite := by
  intro e h; cases h <;> exact ⟨Nat.le_of_ble_eq_true rfl, by first | exact .inl rfl | exact .inr rfl⟩

theorem hostWindowWrite : Statement .hostWindowWrite := by
  intro e h; cases h <;> exact ⟨Nat.le_of_ble_eq_true rfl, by first | exact .inl rfl | exact .inr rfl⟩

theorem hostWindowRead : Statement .hostWindowRead := by
  intro e h; cases h <;> exact ⟨Nat.le_of_ble_eq_true rfl, by first | exact .inl rfl | exact .inr rfl⟩

theorem launch : Statement .launch := by
  intro e h; cases h <;> exact ⟨Nat.le_of_ble_eq_true rfl, by first | exact .inl rfl | exact .inr rfl⟩

theorem kill : Statement .kill := by
  intro e h; cases h <;> exact ⟨Nat.le_of_ble_eq_true rfl, by first | exact .inl rfl | exact .inr rfl⟩

theorem graphLoad : Statement .graphLoad := by
  intro e h; cases h <;> exact ⟨Nat.le_of_ble_eq_true rfl, by first | exact .inl rfl | exact .inr rfl⟩

theorem graphFree : Statement .graphFree := by
  intro e h; cases h <;> exact ⟨Nat.le_of_ble_eq_true rfl, by first | exact .inl rfl | exact .inr rfl⟩

theorem graphRun : Statement .graphRun := by
  intro e h; cases h <;> exact ⟨Nat.le_of_ble_eq_true rfl, by first | exact .inl rfl | exact .inr rfl⟩

theorem triggerWrite : Statement .triggerWrite := by
  intro e h; cases h <;> exact ⟨Nat.le_of_ble_eq_true rfl, by first | exact .inl rfl | exact .inr rfl⟩

theorem lend : Statement .lend := by
  intro e h; cases h <;> exact ⟨Nat.le_of_ble_eq_true rfl, by first | exact .inl rfl | exact .inr rfl⟩

theorem reclaim : Statement .reclaim := by
  intro e h; cases h <;> exact ⟨Nat.le_of_ble_eq_true rfl, by first | exact .inl rfl | exact .inr rfl⟩

theorem drain : Statement .drain := by
  intro e h; cases h <;> exact ⟨Nat.le_of_ble_eq_true rfl, by first | exact .inl rfl | exact .inr rfl⟩

theorem returnCol : Statement .returnCol := by
  intro e h; cases h <;> exact ⟨Nat.le_of_ble_eq_true rfl, by first | exact .inl rfl | exact .inr rfl⟩

theorem grant : Statement .grant := by
  intro e h; cases h <;> exact ⟨Nat.le_of_ble_eq_true rfl, by first | exact .inl rfl | exact .inr rfl⟩

theorem partCreate : Statement .partCreate := by
  intro e h; cases h <;> exact ⟨Nat.le_of_ble_eq_true rfl, by first | exact .inl rfl | exact .inr rfl⟩

theorem partDestroy : Statement .partDestroy := by
  intro e h; cases h <;> exact ⟨Nat.le_of_ble_eq_true rfl, by first | exact .inl rfl | exact .inr rfl⟩

theorem powerMode : Statement .powerMode := by
  intro e h; cases h <;> exact ⟨Nat.le_of_ble_eq_true rfl, by first | exact .inl rfl | exact .inr rfl⟩

theorem fwUpdate : Statement .fwUpdate := by
  intro e h; cases h <;> exact ⟨Nat.le_of_ble_eq_true rfl, by first | exact .inl rfl | exact .inr rfl⟩

theorem attest : Statement .attest := by
  intro e h; cases h <;> exact ⟨Nat.le_of_ble_eq_true rfl, by first | exact .inl rfl | exact .inr rfl⟩

theorem portAssign : Statement .portAssign := by
  intro e h; cases h <;> exact ⟨Nat.le_of_ble_eq_true rfl, by first | exact .inl rfl | exact .inr rfl⟩

theorem timeStep : Statement .timeStep := by
  intro e h; cases h <;> exact ⟨Nat.le_of_ble_eq_true rfl, by first | exact .inl rfl | exact .inr rfl⟩

theorem heartbeat : Statement .heartbeat := by
  intro e h; cases h <;> exact ⟨Nat.le_of_ble_eq_true rfl, by first | exact .inl rfl | exact .inr rfl⟩

theorem hang : Statement .hang := by
  intro e h; cases h <;> exact ⟨Nat.le_of_ble_eq_true rfl, by first | exact .inl rfl | exact .inr rfl⟩

theorem fatalError : Statement .fatalError := by
  intro e h; cases h <;> exact ⟨Nat.le_of_ble_eq_true rfl, by first | exact .inl rfl | exact .inr rfl⟩

theorem mainPower : Statement .mainPower := by
  intro e h; cases h <;> exact ⟨Nat.le_of_ble_eq_true rfl, by first | exact .inl rfl | exact .inr rfl⟩

theorem status : Statement .status := by
  intro e h; cases h <;> exact ⟨Nat.le_of_ble_eq_true rfl, by first | exact .inl rfl | exact .inr rfl⟩

theorem read : Statement .read := by
  intro e h; cases h <;> exact ⟨Nat.le_of_ble_eq_true rfl, by first | exact .inl rfl | exact .inr rfl⟩

theorem write : Statement .write := by
  intro e h; cases h <;> exact ⟨Nat.le_of_ble_eq_true rfl, by first | exact .inl rfl | exact .inr rfl⟩

theorem reset : Statement .reset := by
  intro e h; cases h <;> exact ⟨Nat.le_of_ble_eq_true rfl, by first | exact .inl rfl | exact .inr rfl⟩

theorem flr : Statement .flr := by
  intro e h; cases h <;> exact ⟨Nat.le_of_ble_eq_true rfl, by first | exact .inl rfl | exact .inr rfl⟩

theorem hotReset : Statement .hotReset := by
  intro e h; cases h <;> exact ⟨Nat.le_of_ble_eq_true rfl, by first | exact .inl rfl | exact .inr rfl⟩

theorem fundamentalReset : Statement .fundamentalReset := by
  intro e h; cases h <;> exact ⟨Nat.le_of_ble_eq_true rfl, by first | exact .inl rfl | exact .inr rfl⟩

theorem powerSample : Statement .powerSample := by
  intro e h; cases h <;> exact ⟨Nat.le_of_ble_eq_true rfl, by first | exact .inl rfl | exact .inr rfl⟩

theorem thermalWarn : Statement .thermalWarn := by
  intro e h; cases h <;> exact ⟨Nat.le_of_ble_eq_true rfl, by first | exact .inl rfl | exact .inr rfl⟩

theorem thermal : Statement .thermal := by
  intro e h; cases h <;> exact ⟨Nat.le_of_ble_eq_true rfl, by first | exact .inl rfl | exact .inr rfl⟩

theorem thermalTrip : Statement .thermalTrip := by
  intro e h; cases h <;> exact ⟨Nat.le_of_ble_eq_true rfl, by first | exact .inl rfl | exact .inr rfl⟩

theorem reservedOpcode : Statement .reservedOpcode := by
  intro e h; cases h <;> exact ⟨Nat.le_of_ble_eq_true rfl, by first | exact .inl rfl | exact .inr rfl⟩

theorem acqVersionReturn : Statement .acqVersionReturn := by
  intro e h; cases h <;> exact ⟨Nat.le_of_ble_eq_true rfl, by first | exact .inl rfl | exact .inr rfl⟩

theorem untimedRel : Statement .untimedRel := by
  intro e h; cases h <;> exact ⟨Nat.le_of_ble_eq_true rfl, by first | exact .inl rfl | exact .inr rfl⟩

theorem writeThrough : Statement .writeThrough := by
  intro e h; cases h <;> exact ⟨Nat.le_of_ble_eq_true rfl, by first | exact .inl rfl | exact .inr rfl⟩

theorem untimetabledRefresh : Statement .untimetabledRefresh := by
  intro e h; cases h <;> exact ⟨Nat.le_of_ble_eq_true rfl, by first | exact .inl rfl | exact .inr rfl⟩

theorem masterLost : Statement .masterLost := by
  intro e h; cases h <;> exact ⟨Nat.le_of_ble_eq_true rfl, by first | exact .inl rfl | exact .inr rfl⟩

theorem linkBringUp : Statement .linkBringUp := by
  intro e h; cases h <;> exact ⟨Nat.le_of_ble_eq_true rfl, by first | exact .inl rfl | exact .inr rfl⟩

theorem pcieLinkUp : Statement .pcieLinkUp := by
  intro e h; cases h <;> exact ⟨Nat.le_of_ble_eq_true rfl, by first | exact .inl rfl | exact .inr rfl⟩

theorem thermalClear : Statement .thermalClear := by
  intro e h; cases h <;> exact ⟨Nat.le_of_ble_eq_true rfl, by first | exact .inl rfl | exact .inr rfl⟩

theorem mainPowerLoss : Statement .mainPowerLoss := by
  intro e h; cases h <;> exact ⟨Nat.le_of_ble_eq_true rfl, by first | exact .inl rfl | exact .inr rfl⟩

end Sys2Proof.Laws.Literal
end

