-- ==== Sys2Proof/Laws/Port.lean ====
section
/-! SUPPORT. What untimed work comes to (04 R110; 09 R281): it waits, or it is done; and where nothing timed keeps it waiting it is done at
once. -/

namespace Sys2Proof.Machine

@[simp] theorem State.beginWork_col (s : State) (key n c : Nat) : (s.beginWork key n).col c = s.col c := rfl
@[simp] theorem State.beginWork_group (s : State) (key n g : Nat) : (s.beginWork key n).group g = s.group g := rfl
@[simp] theorem State.beginWork_inst (s : State) (key n i : Nat) : (s.beginWork key n).inst i = s.inst i := rfl
@[simp] theorem State.beginWork_unheld (s : State) (key n c : Nat) : (s.beginWork key n).unheld c = s.unheld c := rfl
@[simp] theorem State.endWork_col (s : State) (c : Nat) : s.endWork.col c = s.col c := rfl
@[simp] theorem State.endWork_core (s : State) (k : Nat) : s.endWork.core k = s.core k := rfl
@[simp] theorem State.endWork_mem (s : State) : s.endWork.mem = s.mem := rfl
@[simp] theorem State.asRead_none (s : State) : s.asRead none = s := rfl

/-- Where no running group holds a channel, every access unit is served (09 R281). -/
theorem State.servedFor_of_unheld (s : State) (h : ∀ c, s.unheld c = true) (key : Nat) (l : List PortUnit) : s.servedFor key l = true := by
  simp [State.servedFor, h]

theorem State.served_of_unheld (s : State) (h : ∀ c, s.unheld c = true) (since : Nat) (l : List PortUnit) : s.served since l = true :=
  s.servedFor_of_unheld h _ l

/-- Where no timed access is planned, no row is blocked (04 R110). -/
theorem State.portBlocked_of_unused (s : State) (h : ∀ c, (s.col c).uses = []) (n : Nat) : s.portBlocked n = false := by
  simp [State.portBlocked, h]

theorem State.banksFree_of_unused (s : State) (h : ∀ c, (s.col c).uses = []) (free rows : List Nat) (b : Nat) :
    b ∈ s.banksFree free rows ↔ b ∈ free ∨ b ∈ rows.map flatBank := by
  have hb : rows.filter s.portBlocked = [] := by simp [s.portBlocked_of_unused h]
  by_cases hf : b ∈ free <;> simp [State.banksFree, hb, hf]

theorem State.openRows_of_unused (s t : State) (h : ∀ c, (s.col c).uses = []) (run : Option PortRun) : (s.openRows t run).2 = [] := by
  simp only [State.openRows, s.portBlocked_of_unused h, Bool.not_false]
  generalize t.wroteRows.filter _ = l
  induction l with
  | nil => rfl
  | cons n l ih => simpa using ih

/-- A colonnade that no work asks for anything forgets nothing. -/
theorem State.dropReqs_of_none (s : State) (h : ∀ c, (s.col c).reqs = []) (key : Nat) : s.dropReqs key = s := by
  have go (l : List Nat) : l.foldl (fun s n =>
      if (s.col n).reqs.any (fun r => r.key = key) then s.modCol n (fun c => { c with reqs := c.reqs.filter (fun r => r.key ≠ key) }) else s) s = s := by
    induction l with
    | nil => rfl
    | cons n l ih => simpa [h] using ih
  exact go _

/-- What a try of untimed work comes to: it waits, as it was or with requests made or rows written, or it is done, or it stops. -/
theorem State.tryPort_cases (s : State) (key since : Nat) (first : Bool) (free : List Nat) (run : Option PortRun) (rows : List Nat)
    (units : List PortUnit) (k : State → Host.Outcome State Fault Refusal) :
    (∃ t d f r, s.tryPort key since first free run rows units k = .wait t d f r ∧
      (t = s ∨ (∃ l, t = s.askUnits key first l) ∨
        ∃ u now, k ((s.asRead run).beginWork key since) = .next u ∧ t = (s.landRows ((s.asRead run).beginWork key since) u run rows now).1)) ∨
    (∃ u, k ((s.asRead run).beginWork key since) = .next u ∧
      s.tryPort key since first free run rows units k = .done (s.landLast u run).endWork) ∨
    (∃ r, s.tryPort key since first free run rows units k = .stop r ∧ k ((s.asRead run).beginWork key since) = r ∧ ∀ u, r ≠ .next u) := by
  generalize he : s.tryPort key since first free run rows units k = p
  unfold State.tryPort at he
  generalize (if run.isSome = true then free else s.banksFree free rows) = fr at he
  dsimp only at he
  split at he
  · exact .inl ⟨_, _, _, _, he.symm, .inr (.inl ⟨_, rfl⟩)⟩
  · split at he
    · exact .inl ⟨_, _, _, _, he.symm, .inl rfl⟩
    · split at he
      · next u hu =>
        split at he
        · exact .inl ⟨_, _, _, _, he.symm, .inr (.inl ⟨_, rfl⟩)⟩
        · split at he
          · exact .inr (.inl ⟨u, hu, he.symm⟩)
          · exact .inl ⟨_, _, _, _, he.symm, .inr (.inr ⟨u, _, hu, rfl⟩)⟩
      · next hn => exact .inr (.inr ⟨_, he.symm, rfl, fun u hu => hn u hu⟩)

/-- Where nothing timed keeps it waiting, untimed work is done at once. -/
theorem State.tryPort_quiet (s u : State) (hc : ∀ c, (s.col c).uses = [] ∧ s.unheld c = true) (key since : Nat) (first : Bool) (rows : List Nat)
    (units : List PortUnit) (k : State → Host.Outcome State Fault Refusal) (hk : k (s.beginWork key since) = .next u) :
    s.tryPort key since first [] none rows units k = .done u.endWork := by
  have hs := s.servedFor_of_unheld (fun c => (hc c).2) key
  have hf : (rows.all fun n => (s.banksFree [] rows).contains (flatBank n)) = true := by
    simp only [List.all_eq_true, List.contains_eq_mem, decide_eq_true_eq, s.banksFree_of_unused (fun c => (hc c).1)]
    exact fun n hn => .inr (List.mem_map_of_mem hn)
  have ho := s.openRows_of_unused u (fun c => (hc c).1) none
  simp only [State.tryPort, State.asRead_none, hs, hk, hf, Option.isSome_none, Bool.false_or, Bool.not_true, if_false, Bool.false_eq_true]
  generalize s.openRows u none = o at ho ⊢
  obtain ⟨a, b⟩ := o
  subst ho
  rfl

/-- What untimed work of an event comes to: the event comes again, or it is done. -/
theorem State.viaPort_cases (s : State) (key since : Nat) (first : Bool) (rows : List Nat) (units : List PortUnit)
    (k : State → Host.Outcome State Fault Refusal) (again : Event) (t : State)
    (h : s.viaPort key since first rows units k again = .next t) :
    (∃ u d args, t = u.eventAt (s.wall + d) again.op args ∧ (u = s ∨ (∃ l, u = s.askUnits key first l) ∨
      ∃ v now, k ((s.asRead again.args.run).beginWork key since) = .next v ∧
        u = (s.landRows ((s.asRead again.args.run).beginWork key since) v again.args.run rows now).1)) ∨
    ∃ u, k ((s.asRead again.args.run).beginWork key since) = .next u ∧ t = (s.landLast u again.args.run).endWork.dropReqs key := by
  unfold State.viaPort at h
  rcases s.tryPort_cases key since first again.args.lines again.args.run rows units k with
    ⟨u, d, f, r, e, hu⟩ | ⟨u, hu, e⟩ | ⟨r, e, hr, hn⟩ <;> rw [e] at h
  · exact .inl ⟨u, d, { again.args with lines := f, run := r }, (Host.Outcome.next.inj h).symm, hu⟩
  · exact .inr ⟨u, hu, (Host.Outcome.next.inj h).symm⟩
  · exact absurd h (hn t)

/-- Where nothing timed keeps it waiting, untimed work of an event is done at once. -/
theorem State.throughPort_quiet (s u : State) (q : s.Quiet) (since : Nat) (rows : List Nat) (units : List PortUnit)
    (k : State → Host.Outcome State Fault Refusal) (again : Event) (hl : again.args.lines = []) (hr : again.args.run = none)
    (hk : k (s.beginWork (eventKey (max 1 since)) (max 1 since)) = .next u) :
    s.throughPort since rows units k again = .next (u.endWork.dropReqs (eventKey (max 1 since))) := by
  simp only [State.throughPort, State.viaPort, hl, hr]
  rw [State.tryPort_quiet s u (fun c => ⟨(q.1 c).1, (q.1 c).2.2⟩) _ _ _ _ _ _ hk]

/-- What the completion of a card comes to: there is none, it goes on against what was saved of its instance, it waits, or it is done. -/
theorem State.withCard_cases (s : State) (reach : State → JobCard → List Area) (k : State → JobCard → Host.Outcome State Fault Refusal)
    (t : State) (h : s.withCard reach k = .next t) :
    t = s ∨ ∃ c, s.runningCard = some c ∧
      (t = s.atWall (s.wall + 1) (.onRecord c.inst ⟨completionOp s.ev.q.engine, s.ev⟩) ∨
        (∃ u free run d, t = u.againCard c free run d ∧ (u = s ∨ (∃ l, u = s.askUnits c.workKey false l) ∨
          ∃ v rows now, k ((s.asRead c.run).beginWork c.workKey c.claimed) c = .next v ∧
            u = (s.landRows ((s.asRead c.run).beginWork c.workKey c.claimed) v c.run rows now).1)) ∨
        ∃ u, k ((s.asRead c.run).beginWork c.workKey c.claimed) c = .next u ∧ t = (s.landLast u c.run).endWork.settleCard s.ev.q c) := by
  unfold State.withCard at h
  split at h
  · exact .inl (by injection h with h; exact h.symm)
  · next c hc =>
    refine .inr ⟨c, hc, ?_⟩
    have e {x : State} (h : (Host.Outcome.next x : Host.Outcome State Fault Refusal) = .next t) : t = x := by injection h with h; exact h.symm
    dsimp only at h
    split at h
    · exact .inl (e h)
    · rcases s.tryPort_cases c.workKey c.claimed false c.free c.run (areaRows (reach ((s.asRead c.run).beginWork c.workKey c.claimed) c))
        (((s.asRead c.run).beginWork c.workKey c.claimed).areaUnits (reach ((s.asRead c.run).beginWork c.workKey c.claimed) c)) (fun s => k s c) with
        ⟨u, d, f, r, w, hu⟩ | ⟨u, hu, w⟩ | ⟨r, w, hr, hn⟩
      · rw [w] at h
        refine .inr (.inl ⟨u, f, r, d, e h, hu.imp_right (Or.imp_right ?_)⟩)
        rintro ⟨v, now, hv, rfl⟩
        exact ⟨v, _, now, hv, rfl⟩
      · rw [w] at h
        exact .inr (.inr ⟨u, hu, e h⟩)
      · rw [w] at h
        exact absurd h (hn t)

/-- A running card of a placed instance, or of one that has nothing saved, where nothing timed keeps it waiting, completes at once. -/
theorem State.withCard_quiet (s u : State) (q : s.Quiet) (c : JobCard) (hc : s.runningCard = some c) (hf : c.free = []) (hr : c.run = none)
    (hp : ((s.placeOf c.inst c.logical).isNone && !(s.inst c.inst).saved.isEmpty) = false) (reach : State → JobCard → List Area)
    (k : State → JobCard → Host.Outcome State Fault Refusal) (hk : k (s.beginWork c.workKey c.claimed) c = .next u) :
    s.withCard reach k = .next (u.endWork.settleCard s.ev.q c) := by
  simp only [State.withCard, hc, hp, hr, hf, Bool.false_eq_true, if_false, State.asRead_none]
  rw [State.tryPort_quiet s u (fun c => ⟨(q.1 c).1, (q.1 c).2.2⟩) _ _ _ _ _ (fun s => k s c) hk]

end Sys2Proof.Machine
end

