-- ==== Sys2Proof/Laws/Registers.lean ====
section
/-! SUPPORT. What the named register operations do, once: writes of scalar registers, predicates and handles, the pc, the checks that
stand before an effect, and the number conversions of the register forms. -/

namespace Sys2Proof.Machine

/-! ### The issuing core -/

@[simp] theorem State.modMe_me (s : State) (f : Core → Core) : (s.modMe f).me = f s.me :=
  State.setCore_core_same _ _ _

@[simp] theorem State.modMe_here (s : State) (f : Core → Core) : (s.modMe f).here = s.here := rfl

/-- A change of the issuing core leaves the rest of the machine alone. -/
theorem State.modMe_onlyMe (s : State) (f : Core → Core) : s.OnlyMe (s.modMe f) :=
  ⟨rfl, fun _ h => State.setCore_core_ne _ _ h, fun _ => rfl⟩

/-! ### Scalar registers, predicates, handles -/

/-- Reading a scalar register after a write of one. -/
theorem Core.sreg_setS (c : Core) (r j : Nat) (v : Word) :
    (c.setS r v).sreg j = if j = r then (if r = 0 then 0 else v) else c.sreg j := by
  unfold Core.setS Core.sreg
  by_cases hr : r = 0
  · subst hr; by_cases hj : j = 0 <;> simp [hj]
  · by_cases hj : j = 0
    · subst hj; simp [Ne.symm hr]
    · cases c.shadow <;> simp [hr, hj, FMap.get_set]

/-- Reading a predicate after a write of one. -/
theorem Core.preg_setP (c : Core) (r j : Nat) (v : Bool) :
    (c.setP r v).preg j = if j = r then (if r = 0 then true else v) else c.preg j := by
  unfold Core.setP Core.preg
  by_cases hr : r = 0
  · subst hr; by_cases hj : j = 0 <;> simp [hj]
  · by_cases hj : j = 0
    · subst hj; simp [Ne.symm hr]
    · cases c.shadow <;> simp [hr, hj, FMap.get_set]

/-- A C slot's register write gives the register its value and changes nothing else. -/
theorem State.ws_gives (s : State) (d : SReg) (v : Word) : s.GivesS d v (s.ws d v) := by
  have hm : (s.ws d v).me = { s.me.setS d.val v with
      cwrote := if s.me.shadow then s.me.cwrote else some (s.here.cycle, d.val) } := s.modMe_me _
  have hr : ∀ r : Nat, (s.ws d v).me.sreg r = (s.me.setS d.val v).sreg r := fun r => by rw [hm]; rfl
  refine ⟨?_, s.modMe_onlyMe _, fun r h => ?_, ?_, ?_⟩
  · rw [State.rs, hr, Core.sreg_setS]; simp
  · rw [hr, Core.sreg_setS]; simp [h]
  · rw [hm]; unfold Core.setS; split
    · rfl
    · split <;> rfl
  · rw [hm]; unfold Core.setS
    by_cases hd : d.val = 0 <;> cases s.me.shadow <;> simp [hd]

/-- A C slot's predicate write gives the predicate its value and changes nothing else. -/
theorem State.wp_gives (s : State) (d : PReg) (v : Bool) : s.GivesP d v (s.wp d v) := by
  have hm : (s.wp d v).me = s.me.setP d.val v := s.modMe_me _
  refine ⟨?_, s.modMe_onlyMe _, fun r h => ?_, ?_, ?_⟩
  · rw [hm, Core.preg_setP]; simp
  · rw [hm, Core.preg_setP]; simp [h]
  · rw [hm]; unfold Core.setP; split
    · rfl
    · split <;> rfl
  · rw [hm]; unfold Core.setP
    by_cases hd : d.val = 0 <;> cases s.me.shadow <;> simp [hd]

/-- A C slot's handle write gives the handle its value and changes nothing else. -/
theorem State.wh_gives (s : State) (d : HReg) (v : Handle) : s.GivesH d v (s.wh d v) := by
  have hm : (s.wh d v).me = s.me.setH d.val v := s.modMe_me _
  refine ⟨?_, s.modMe_onlyMe _, fun r h => ?_, ?_⟩
  · rw [State.rh, hm]; exact FMap.get_set_same _ _ _ _
  · rw [hm]; exact FMap.get_set_ne _ _ _ h
  · rw [hm]; rfl

/-- What a transfer of control does. -/
theorem State.goto_gives (s : State) (n : Nat) :
    (s.goto n).me.pc = n ∧ s.OnlyMe (s.goto n) ∧ { (s.goto n).me with pc := s.me.pc } = s.me := by
  have hm : (s.goto n).me = { s.me with pc := n } := s.modMe_me _
  exact ⟨by rw [hm], s.modMe_onlyMe _, by rw [hm]⟩

/-! ### Checks before an effect -/

@[simp] theorem State.orTrap_none (s t : State) : s.orTrap none t = .next t := rfl
@[simp] theorem State.orTrap_some (s t : State) (x : Trap) : s.orTrap (some x) t = .next (takeTrap s x s.here.bundle) := rfl
@[simp] theorem firstTrap_nil : firstTrap [] = none := rfl
@[simp] theorem firstTrap_none (l : List (Option Trap)) : firstTrap (none :: l) = firstTrap l := rfl
@[simp] theorem firstTrap_some (x : Trap) (l : List (Option Trap)) : firstTrap (some x :: l) = some x := rfl
@[simp] theorem trapIf_true (x : Trap) : trapIf true x = some x := rfl
@[simp] theorem trapIf_false (x : Trap) : trapIf false x = none := rfl
@[simp] theorem State.noShadow_main (s : State) (h : s.me.shadow = false) : s.noShadow = none := by simp [State.noShadow, h]
@[simp] theorem State.noShadow_shadow (s : State) (h : s.me.shadow = true) : s.noShadow = some s.illegal := by
  simp [State.noShadow, h]

/-! ### Narrow results -/

theorem Sz.bits_pos (sz : Sz) : 0 < sz.bits := by cases sz <;> decide

/-- The low bits of a register as the register forms read them. -/
theorem lowBits_eq (s : State) (r : SReg) (sz : Sz) : lowBits sz.bits (s.rs r) = (s.low r sz).toNat := by
  simp [lowBits, State.low]

/-- The zero extension of a w-bit result. -/
theorem zextW_eq (w x : Nat) : zextW w x = (BitVec.ofNat w x).setWidth 64 := by
  apply BitVec.eq_of_toNat_eq; simp [zextW]

/-- The signed value of a pattern's low w bits. -/
theorem signedOf_toInt (w x : Nat) (hw : 0 < w) : signedOf w x = (BitVec.ofNat w x).toInt := by
  obtain ⟨n, rfl⟩ : ∃ n, w = n + 1 := ⟨w - 1, by omega⟩
  simp only [signedOf, BitVec.toInt_eq_toNat_cond, BitVec.toNat_ofNat, Nat.add_sub_cancel, Nat.pow_succ]
  split <;> split <;> first | omega | rfl

/-- The sign extension of a w-bit result. -/
theorem sextW_eq (w x : Nat) (hw : 0 < w) : sextW w x = (BitVec.ofNat w x).signExtend 64 := by
  rw [sextW, signedOf_toInt w x hw]; rfl

/-- The w-bit pattern of an integer. -/
theorem wrapInt_ofInt (w : Nat) (i : Int) : BitVec.ofNat w (wrapInt w i) = BitVec.ofInt w i := by
  apply BitVec.eq_of_toNat_eq
  have hp : 0 < 2 ^ w := Nat.two_pow_pos w
  have h0 := Int.emod_nonneg i (b := ((2 ^ w : Nat) : Int)) (by omega)
  have h1 := Int.emod_lt_of_pos i (b := ((2 ^ w : Nat) : Int)) (by omega)
  simp only [wrapInt, BitVec.toNat_ofNat, BitVec.toNat_ofInt]
  exact Nat.mod_eq_of_lt (by omega)

@[simp] theorem State.flagsAfter_zero (s : State) (d : Nat) : s.flagsAfter d 0 = s := rfl

end Sys2Proof.Machine
end

