-- ==== Sys2Proof/Tests/Slice0.lean ====
section
/-! SUPPORT. Tests: ill-formed terms that WellFormed refuses, words of the spec that decode to their instructions, the worked examples of
the spec, and for every statement with hypotheses a state and operands that meet them, at the edges of their ranges. -/

set_option maxRecDepth 20000

namespace Sys2Proof.Tests

open Sys2Proof Sys2Proof.Machine

/-! ### Helpers -/

/-- Reset with core 0 about to act in a slot, at cycle 100. -/
def st : State := { State.reset with here := { slot := 1, bundle := 16, addr := 17, next := 18, cycle := 100 } }

/-- A state with its core 0 changed. -/
def core0 (s : State) (f : Core → Core) : State := s.setCore 0 (f (s.core 0))

/-- `st` after its look-ahead. -/
def acting : State := core0 st (fun c => { c with asks := [{
  cycle := 100, slot := 1, sl := ⟨false, false, 0, .nop⟩, addr := 17, word := 0, held := false, bundle := 16, next := 18, stop := false,
  guard := true, acts := true, done := true }] })

/-- Whether the acting slot has been looked ahead for. -/
def actsNow (s : State) : Bool := s.here.visit = .issue && (match s.myAsk.filter (·.done) with | some a => a.trap.isNone | none => false)

theorem acting_of_actsNow {s : State} (h : actsNow s = true) : s.Acting := by
  unfold actsNow at h
  simp only [Bool.and_eq_true, decide_eq_true_eq] at h
  refine ⟨h.1, ?_⟩
  cases hm : s.myAsk.filter (·.done) with
  | none => simp [hm] at h
  | some a => exact ⟨a, rfl, by simpa [hm] using h.2⟩

/-- Whether nothing timed runs and no untimed work is in hand. -/
def isQuiet (s : State) : Bool :=
  (s.cols.all (fun p => p.2.uses.isEmpty && p.2.reqs.isEmpty) && s.groups.all (fun p => decide (p.2.phase ≠ .run))) &&
  (s.olds.isEmpty && s.since == 0 && s.work == 0 && s.port.isEmpty && s.wrote.isEmpty &&
    s.queues.all (fun p => match p.2.running with | some c => c.free.isEmpty && c.run.isNone | none => true))

theorem get_all {α : Type} {P : α → Prop} {d : α} (hd : P d) : ∀ (m : FMap α) (i : Nat), (∀ p ∈ m, P p.2) → P (FMap.get d m i)
  | [], _, _ => hd
  | (k, v) :: r, i, h => by
    simp only [FMap.get]
    split
    · exact h (k, v) (List.mem_cons_self ..)
    · exact get_all hd r i (fun p hp => h p (List.mem_cons_of_mem _ hp))

theorem quiet_of_isQuiet {s : State} (h : isQuiet s = true) : s.Quiet := by
  simp only [isQuiet, Bool.and_eq_true, List.all_eq_true, decide_eq_true_eq, List.isEmpty_iff, beq_iff_eq] at h
  obtain ⟨⟨hu, hg⟩, ⟨⟨⟨⟨ho, hs⟩, hw⟩, hp⟩, hr⟩, hq⟩ := h
  refine ⟨fun c => ?_, ho, hs, hw, hp, hr, fun q c hc => ?_⟩
  · have hc : (s.col c).uses = [] ∧ (s.col c).reqs = [] := get_all (P := fun x : Col => x.uses = [] ∧ x.reqs = []) ⟨rfl, rfl⟩ s.cols c hu
    have : (s.group (s.col c).group).phase ≠ .run := get_all (P := fun x : Group => x.phase ≠ .run) (by decide) s.groups _ hg
    exact ⟨hc.1, hc.2, by simp [State.unheld, this]⟩
  · have hr : (match (s.queue q).running with | some c => c.free.isEmpty && c.run.isNone | none => true) = true :=
      get_all (P := fun x : CardQueue => (match x.running with | some c => c.free.isEmpty && c.run.isNone | none => true) = true)
        (by decide) s.queues (queueKey q) hq
    rw [hc] at hr
    simpa using hr

/-- `st` in a handler. -/
def shadowed : State := core0 st (fun c => { c with shadow := true })

/-- A scalar register set in core 0. -/
def withS (s : State) (r : Nat) (v : Word) : State := core0 s (fun c => { c with s := FMap.set 0 c.s r v })

/-- A handle of a space with a base row, a tag, and tile fields of 8-bit elements. -/
def handle (space base tag tilew tileh : Nat) : Handle :=
  hset (hset (hset (hset (hset 0 .space space) .base base) .tag tag) .tilew tilew) .tileh tileh

/-- A handle set in core 0. -/
def withH (s : State) (r : Nat) (h : Handle) : State := core0 s (fun c => { c with h := FMap.set 0 c.h r h })

/-- The state an instruction leaves. -/
def after (i : Instr) (s : State) : State := match exec i s with | .next t => t | _ => s

/-- Reset with the operands of an event. -/
def ev (e : EvArgs) : State := { State.reset with ev := e }

/-- An instance that runs on colonnade 0. -/
def running (s : State) : State :=
  (s.setInst 1 { placed := true, cols := [(0, 1)], groups := [1] }).modCol 0 (fun c => { c with inst := some 1, group := 1 })

/-! ### Ill-formed terms -/

def card (q : Nat) : Card := { queue := q, a := 0, wait := 0, signal := 0 }
def vargs (ty : VType) (mode : Fin 4) (vd va vb : VReg) : VArgs := ⟨vd, va, vb, ty, mode⟩
def atargs (sz : Sz) (byte : Fin 256) (b : SReg) : AtArgs := { handle := 0, off := 0, byte := byte, d := 1, a := 2, b := b, sz := sz }

theorem test_wf_sequencer_refuses :
    ∀ i ∈ [Instr.repts 0 1 0 0 0, .krd 1 0x00C, .krd 1 0x141, .kwr 1 0x000, .shli 1 64, .shri 1 64, .sari 1 0x3FFF, .hmake 0 61,
      .waitev 1 0 0, .waitev 1 97 0x80000000, .sigev 0, .sigevRemote 0 0 0, .evarmWindow 0 0 0, .evarmWindow 1 4 0, .evarmWindow 1 0 113],
      i.wf = false := by decide

theorem test_wf_stream_refuses :
    ∀ i ∈ [Instr.ldq .sq 0 1, .ldq .ma 0 0, .ldqs .sq 0 0, .stq .ma 0 1, .stq .sq 0 0, .stqs .iq 0 0, .copy 31 1, .copy 0 0,
      .gather .iq 0 1 0, .gather .ma 0 0 0, .scatter .ma 0 1 0, .scatter .sq 0 0 0, .rmerge .sq 0 1 0, .rmerge .ma 0 0 0, .rmerge .ma 0 2047 0,
      .lputQ .ma 0 0, .ltap .sq true 0, .tcpf 0 0, .tcwb 0 0, .tcinv 0 0, .rinit 0 0 1 0, .rinit 0 1 3 0, .rinit 0 1 4 5, .rclaim 0 0 0,
      .rpush 0 0 0, .rpop 0 0 0, .rstat 0 0, .atadd (atargs .w32 2 0), .atmin (atargs .w8 0 1), .atmax (atargs .w64 4 0), .atxch (atargs .w8 0 1),
      .atcas (atargs .w16 1 5), .ator (atargs .w16 1 0), .atradd (atargs .w64 0 0), .qfence true 1 0, .qfence false 0 1, .qfence false 1 0,
      .qfence false 16 1, .seqtag 0 0], i.wf = false := by decide

theorem test_wf_matrix_refuses :
    ∀ i ∈ [Instr.mcfg 7 0, .mcfg 6 0x200000, .mcfg 0 0x2000000, .mcfgi 6 0, .mdrain 0 0 3 1, .mepi 9, .mepi 0x30, .mepi 0x180, .mepi 0x800,
      .mepi 0x40000000, .mepi 0x400, .mepi 0x47, .mconst 0, .mconst 6, .mconst 0xC0, .mconst 0x600, .mconst 0x800, .mmaskWindow 1 0, .mcoop 0,
      .mcoop 0x100, .mcoop 0xC0], i.wf = (i == .mepi 0x47) := by decide

theorem test_wf_vector_refuses :
    ∀ i ∈ [Instr.vadd (vargs .f32 3 0 0 0), .vsub (vargs .i32 2 0 0 0), .vmul (vargs .i16x2 3 0 0 0), .vmac (vargs .f32 0 0 0 0),
      .vmac (vargs .i8x4 2 1 0 0), .vmac (vargs .i32 2 0 0 0), .vfma (vargs .i32 0 0 0 0), .vmin (vargs .f32 1 0 0 0), .vmax (vargs .i32 2 0 0 0),
      .vabs (vargs .i32 0 0 0 1), .vneg (vargs .f32 1 0 0 0), .vand (vargs .f32 0 0 0 0), .vor (vargs .i32 1 0 0 0), .vxor (vargs .i32 3 8 0 0),
      .vnot (vargs .i32 0 0 0 1), .vshl (vargs .i8x4 1 0 0 8), .vshr (vargs .f32 0 0 0 0), .vsar (vargs .i32 2 0 0 0), .vrshr (vargs .i16x2 1 0 0 16),
      .vsat (vargs .i8x4 0 0 0 8), .vclz (vargs .f32 0 0 0 0), .vffs (vargs .i32 1 0 0 0), .vpopc (vargs .i32 0 0 0 1), .vcmp (vargs .f32 0 8 0 0),
      .vcvt (vargs .i32 3 0 0 2), .vsrnd (vargs .i32 0 0 0 0), .vrand (vargs .i8x4 0 0 0 0), .viota (vargs .i32 3 0 0 0), .vmov (vargs .i32 1 0 8 0),
      .vimm (vargs .i32 1 0 0 0) 0, .vmulh (vargs .f32 0 0 0 0), .vrotc (vargs .i32 0 0 0 16), .vbcr (vargs .i32 2 0 0 0),
      .vbcc (vargs .i32 1 0 0 0), .vredr (vargs .f32 0 0 0 3), .vredc (vargs .i32 1 0 0 0), .vscanr (vargs .i32 2 0 0 1),
      .vscanc (vargs .i32 1 0 0 0), .vshfr (vargs .i32 2 0 0 0), .vtrn (vargs .i32 0 0 0 1), .vpop (vargs .i32 0 0 4 0),
      .vpush (vargs .i32 0 1 0 0), .vrdacc (vargs .i32 0 0 0 4), .vwracc (vargs .i32 3 0 0 0), .vsfn (vargs .i32 0 0 0 0),
      .vcoef (vargs .i32 0 0 0 0) 0x40, .vcoef (vargs .i32 0 0 0 0) 0x13F], i.wf = false := by decide

theorem test_wf_external_refuses :
    ∀ i ∈ [Instr.drd 0 0 0 ⟨9, 0⟩ false 0, .dwr 0 0 0 ⟨0, 4096⟩ false 0, .dmrw 0 0x1F 0, .dmrw 0 0x40 0, .dmrr 0 0 ⟨15, 0⟩ 0, .dtlb 0 1023 1 0,
      .dtlbq 0 0 ⟨10, 0⟩ 0, .dpfs 0 0, .qbind (card 4) 0, .knew (card 4), .gpub 0 (card 8), .wtime (card 4), .nsend 0 (card 0), .nsend 1 (card 4),
      .nrecv 0 (card 0) 0 0, .nred 0 (card 0), .nbar 0 (card 0), .nmode 0 (card 0), .nstat 0 (card 0), .ftrig (card 4), .fpost (card 4)],
      i.wf = false := by decide

theorem test_hold_refused : holdAllowed .c .nop = false ∧ holdAllowed .x (.knew (card 0)) = false ∧ holdAllowed .x (.dprea 0) = true ∧
    holdAllowed .v .nop = true := by decide

/-! ### Decoding (words written out in the spec) -/

theorem test_decode_sequencer : decodeSlot .c 0x0130C415 0 = .ok ⟨false, false, 0, .mulh ⟨3, 4, 5, .w32⟩⟩ ∧
    decodeSlot .c 0x03B18861 0 = .ok ⟨false, false, 0, .hadv 3 2 6 true⟩ ∧
    decodeSlot .c 0x04927FFE 0 = .ok ⟨false, false, 0, .loop 9 0x3FFE⟩ := ⟨rfl, rfl, rfl⟩

theorem test_decode_stream : decodeSlot .t 0x00110840 0 = .ok ⟨false, false, 0, .ldq .mb 1 64⟩ ∧
    decodeSlot .t 0x00190001 0 = .error .code := ⟨rfl, rfl⟩

theorem test_decode_matrix : decodeSlot .m 0x00106000 7 = .ok ⟨false, false, 0, .mcfg 6 7⟩ ∧
    decodeSlot .m 0x00400001 0 = .ok ⟨false, false, 0, .mgo true⟩ ∧ decodeSlot .m 0x00800000 0x603 = .ok ⟨false, false, 0, .mepi 0x603⟩ := ⟨rfl, rfl, rfl⟩

theorem test_decode_vector : decodeSlot .v 0x88110020 0 = .ok ⟨true, false, 1, .vadd ⟨2, 0, 1, .i32, 0⟩⟩ ∧
    decodeSlot .v 0x004E640A 0 = .ok ⟨false, false, 0, .vmac ⟨28, 25, 0, .i8x4, 2⟩⟩ ∧
    decodeSlot .v 0x02620C21 0 = .ok ⟨false, false, 0, .vscanr ⟨4, 3, 1, .i32, 1⟩⟩ := ⟨rfl, rfl, rfl⟩

theorem test_decode_memory_command :
    decodeSlot .x 0x00212400 0x05804123 = .ok ⟨false, false, 0, .drd 1 9 2 ⟨0, 0x123⟩ true 5⟩ := rfl

theorem test_decode_cards : decodeSlot .x 0x01108600 0x00010002 = .ok ⟨false, false, 0, .qstep ⟨2, 6, 1, 2⟩ 0⟩ ∧
    decodeSlot .x 0x01B04900 0x00040008 = .ok ⟨false, false, 0, .kcommit ⟨1, 9, 4, 8⟩⟩ ∧
    decodeSlot .x 0x02C06009 4 = .ok ⟨false, false, 0, .gaccept 0 ⟨3, 9, 0, 4⟩⟩ ∧
    decodeSlot .x 0x03900500 1 = .ok ⟨false, false, 0, .wtick ⟨0, 5, 0, 1⟩⟩ ∧
    decodeSlot .x 0x0412478C 2 = .ok ⟨false, false, 0, .nrecv 2 ⟨1, 7, 0, 2⟩ 2 12⟩ ∧
    decodeSlot .x 0x04B00400 1 = .ok ⟨false, false, 0, .frecl ⟨0, 4, 0, 1⟩⟩ := ⟨rfl, rfl, rfl, rfl, rfl, rfl⟩

/-- Header 0x0300_0000, two X slots with their literals: the NRED bundle of 14. -/
theorem test_decode_bundle : (decodeBundle 0 [0x03000000, 0x54210500, 1, 0x14210501, 1]).map (fun b => (b.len, b.x0, b.x1)) =
    .ok (5, some ⟨false, true, 2, .nred 1 ⟨0, 5, 0, 1⟩⟩, some ⟨false, false, 2, .nredArrival 1 ⟨0, 5, 0, 1⟩⟩) := by rfl

/-! ### Worked examples of the spec -/

/-- 05 R136: mulh.i32 and mul.i32 of 0x8000_0000 and 3. -/
theorem test_mulh_example : let s := withS (withS st 4 0x80000000) 5 3
    (after (.mulh ⟨3, 4, 5, .w32⟩) s).rs 3 = 0xFFFFFFFFFFFFFFFE ∧ (after (.mul ⟨3, 4, 5, .w32⟩) s).rs 3 = 0xFFFFFFFF80000000 := by decide

/-- 03 R98 at width 8: DIV of 0x80 by 0xFF gives 0x80 (sign-extended), DIVN of 0x2A by 0 gives 0xFF and REMN 0x2A. -/
theorem test_divide_example : let s := withS (withS (withS st 4 0x80) 5 0xFF) 6 0x2A
    (after (.div ⟨3, 4, 5, .w8⟩) s).rs 3 = 0xFFFFFFFFFFFFFF80 ∧ (after (.divn ⟨3, 6, 0, .w8⟩) s).rs 3 = 0xFF ∧
    (after (.remn ⟨3, 6, 0, .w8⟩) s).rs 3 = 0x2A := by decide

/-- 05 R138: lit s7, 0x1234_5678 then lith s7, 9. -/
theorem test_lith_example : (after (.lith 7 9) (after (.lit 7 0x12345678) st)).rs 7 = 0x0000000912345678 := by decide

/-- The handle of R143: DIM0 300, TILEW 64, DIM1 100, TILEH 16, COL 0, TX 4, TY 2, TAG 0xFF. -/
def walked : Handle := hset (hset (hset (hset (handle 0 0 0xFF 64 16) .dim0 300) .dim1 100) .tx 4) .ty 2

/-- 05 R142, R143: hadv.tag h3, h2, s6 with s6 = 1 and -16, and htag with 300. -/
theorem test_hadv_example : let s (n : Int) := withS (withH st 2 walked) 6 (BitVec.ofInt 64 n)
    let g (n : Int) := (after (.hadv 3 2 6 true) (s n)).rh 3
    (hget (g 1) .ty, hget (g 1) .tx, hget (g 1) .tag) = (3, 0, 1) ∧ (hget (g (-16)) .ty, hget (g (-16)) .tx, hget (g (-16)) .tag) = (6, 3, 1) ∧
    hget ((after (.htag 3 2 6) (s 300)).rh 3) .tag = 0x2D := by decide

/-- 05 R129: a write of s0 is discarded. -/
theorem test_s0_reads_zero : (after (.movi 0 5) st).rs 0 = 0 ∧ (after (.movi 1 0x2000) st).rs 1 = 0xFFFFFFFFFFFFE000 := by decide

/-- 05 R146: loop s9, -2 at bundle 16 with s9 = 2 goes to 14 and leaves 1; with s9 = 1 it falls through and leaves 0. -/
theorem test_loop : let s (n : Word) := after (.loop 9 0x3FFE) (core0 (withS st 9 n) (fun c => { c with pc := 18 }))
    ((s 2).me.pc, (s 2).rs 9) = (14, 1) ∧ ((s 1).me.pc, (s 1).rs 9) = (18, 0) := by decide

/-- 05 R155, R156: TRAP 0x7B with TVEC = EN, address 0x40: SW_TRAP, SKIPC set, the handler next. -/
theorem test_trap : let t := after (.trap 0x7B) (core0 st (fun c => { c with tvec := 0x80000040 }))
    (t.me.shadow, t.me.pc, t.me.tval, t.me.epc, t.me.tcause) = (true, 0x40, 0x7B#64, 0x10010#64, 0x112#64) := by decide

/-- 01 R10, 02 R52: the step fetches a MOVI placed at the next fetch, and runs it; the pc is past its two words. -/
theorem test_step_runs_movi : (match step (State.reset.withFetchWord 32 0x02F14002) with
    | .next t => (t.me.pc, (t.core 0).sreg 5) | _ => (0, 0)) = (2, 2#64) := by decide

/-- 09 R264: edges are the cycles 0, 3, 6 and 9 of each 11; the send edge of a command that arrives at 100 is 102. -/
theorem test_send_edges : edgeAt 100 = 102 ∧ edgeIndex 102 = 37 ∧ edgeCycle 37 = 102 ∧ isEdge 102 = true ∧ isEdge 101 = false := by decide

/-! ### Witnesses: states and operands that meet the hypotheses of the statements, clause by clause -/

theorem witness_register_forms : -- CLZ and FFS of 0, 1 and all ones at width 8
    let s := withS (withS st 4 1) 5 0xFF
    (∀ i < 8, (s.low 0 .w8).getLsbD i = false) ∧
    ((∀ i < 8, 1 ≤ i → (s.low 4 .w8).getLsbD i = false) ∧ (s.low 4 .w8).getLsbD 0 = true) ∧
    ((s.low 5 .w8).getLsbD 7 = true ∧ (s.low 5 .w8).getLsbD 0 = true) := by decide

theorem witness_immediate_forms : (63#14).toNat < 64 ∧ 64 ≤ (64#14).toNat := by decide

theorem witness_handles : st.me.shadow = false ∧ (60 : SReg).val ≤ 60 ∧ shadowed.me.shadow = true := by decide

theorem witness_hadv : let s := withH st 2 walked; let h := s.rh 2
    (hget h .tilew ≠ 0 ∧ hget h .tileh ≠ 0 ∧ hget h .dim0 ≠ 0 ∧ hget h .dim1 ≠ 0) ∧ hget (st.rh 2) .tilew = 0 := by decide

theorem witness_transfers : let b : Int := st.here.bundle
    (0 ≤ b + (0xFFFF0#20).toInt ∧ b + (0xFFFF0#20).toInt ≤ 65535) ∧ ¬ (0 ≤ b + (0xFFFEF#20).toInt) ∧
    ((withS st 1 65535).rs 1).toNat ≤ 65535 ∧ 65535 < ((withS st 63 65536).rs 63).toNat ∧
    (0 ≤ b + (0x3FF0#14).toInt ∧ b + (0x3FF0#14).toInt ≤ 65535) ∧ ¬ (0 ≤ b + (0x3FEF#14).toInt) := by decide

theorem witness_repeats : st.me.shadow = false ∧ st.repeatChecks st.here.next 1 0 0 0 = none ∧ ((withS st 1 4).rs 1).toNat ≤ (4 : Fin 4096).val ∧
    (3 : Fin 4096).val < ((withS st 1 4).rs 1).toNat ∧ shadowed.me.shadow = true := by decide

theorem witness_special_registers : st.me.shadow = false ∧ knumReadable 0x00C = false ∧ knumWritable 0x007 = false ∧
    (0x100 ≤ (0x140#12).toNat ∧ (0x140#12).toNat ≤ 0x140) ∧ (st.groupOf st.here.core).gnextAt ≠ st.wall + 1 ∧
    (core0 st (fun c => { c with icinv := [(1023, 1)] })).me.icinv.any (fun p => p.1 ≤ 1023 && 1023 < p.1 + p.2) = true := by decide

theorem witness_trap_enters : let s := (core0 st (fun c => { c with tvec := 0x80000040 })).modGroup 0 (fun g => { g with phase := .run, cols := [0] })
    s.me.shadow = false ∧ s.me.tvec.getLsbD 31 = true ∧ (s.group (s.groupNo 0)).cols.length ≤ 1 ∧ (s.group (s.groupNo 0)).phase = .run ∧
    s.here.slot < 8 ∧ s.here.bundle < 65536 := by decide

theorem witness_trap_ends : let s := running st
    (s.inst ((s.col 0).inst.getD 0)).status = none ∧ (s.group (s.groupNo 0)).cols.length ≤ 1 ∧ (s.core 0).tvec.getLsbD 31 = false ∧
    (running shadowed).me.shadow = true := by decide

theorem witness_rett : let s := (core0 shadowed (fun c => { c with mode := .run })).modGroup 0 (fun g => { g with phase := .frozen 0 none })
    s.me.shadow = true ∧ s.me.tcause.getLsbD 11 = false ∧ mayResume s = true ∧ s.me.mode ≠ .halted ∧ st.me.shadow = false := by decide

theorem witness_trap_then_rett :
    let s := (core0 st (fun c => { c with tvec := 0x80000040, rep := { active := true, addr := 16 } })).modGroup 0 (fun g => { g with phase := .run })
    s.me.shadow = false ∧ s.me.tvec.getLsbD 31 = true ∧ Cause.swTrap.ending = false ∧ (s.group (s.groupNo 0)).cols.length ≤ 1 ∧
    s.me.mode ≠ .halted ∧ (s.me.rep.active = true → s.me.rep.addr = 16) := by decide

theorem witness_waits :
    let s := acting.modCol 0 (fun c => { c with
      counts := FMap.set 0 c.counts 127 1, rings := FMap.set {} c.rings 5 { e := 4, tail := 3, res := 3 } })
    let r := (s.col 0).ring 5
    s.me.shadow = false ∧ actsNow s = true ∧ (1#32 : Word32) ≠ 0 ∧
    (∀ l ∈ waitLines 127 1, l ≤ 127) ∧ (∀ l ∈ waitLines 127 1, FMap.get 0 (s.col 0).counts l ≠ 0) ∧ (waitLines 127 1).Nodup ∧
    r.e < (5#14).toNat ∧ ((4#14).toNat ≤ r.e ∧ r.filled < (4#14).toNat) ∧ ((2#14).toNat ≤ r.e ∧ r.room < (2#14).toNat) := by decide

theorem witness_signals : let s := running st
    s.me.shadow = false ∧ (s.physical 0).isSome = true ∧ s.physical 15 = none ∧ (3 < engineQueues 1 ∧ (112 : Fin 128).val ≤ 112) := by decide

/-- Whether the plan of a move stands and its banks are free. -/
def planned (s : State) (a b : End) (n : Nat) (one : Bool) : Bool :=
  match s.plan a b n (s.here.cycle + 2) one with
  | .ok steps => (s.poisonOf a).isNone && (s.claimBanks (planUses (a.alpha + b.beta) steps)).2.isNone
  | .error _ => false

/-- Whether banks are free. -/
def banksFree (s : State) (l : List (RowAt × Nat × Bool)) : Bool := (s.claimBanks l).2.isNone

/-- The rows of a list of operands, none where one has no place. -/
def placed (s : State) (h : Handle) (fs : List (Ref × Nat)) : List RowAt := match s.placesAt h fs with | .ok l => l | .error _ => []

theorem witness_scratchpad : let s := withS st 1 0xFFFF8
    let p := rowAt 0 0 ((s.rs 1).extractLsb' 8 12).toNat
    p.row = 4095 ∧ s.me.shadow = false ∧ banksFree s [(p, 102, false)] = true ∧ banksFree s (rmwUses p 102) = true ∧
    ((s.rs 1).extractLsb' 3 5).toNat = 31 ∧ shadowed.me.shadow = true := by decide

/-- Core 0 with h1 a scratchpad row sequence at its last rows, h2 a colonnade-buffer one and h3 an instruction-memory one. -/
def streaming : State := withH (withH (withH acting 1 (handle 0 4094 0 0 0)) 2 (handle 1 8 5 0 0)) 3 (handle 9 0 0 0 0)

theorem witness_moves : let s := core0 streaming (fun c => { c.setQueue .iq [List.replicate 256 0] with iqAt := [99] })
    let h := s.rh 1; let g := s.rh 2
    let seq (h : Handle) (n : Nat) : End := (seqEnd h n).getD (.queue .sq)
    let row (h : Handle) (n : Nat) : End := (rowEnd h n).getD (.queue .sq)
    let idx : End := (idxEnd h 1 ((s.indices 2).getD [])).getD (.queue .sq)
    actsNow s = true ∧ handleUsable h = true ∧ handleUsable g = true ∧ spaceIn h true true false = true ∧ QueueId.ma.loadable = true ∧ QueueId.sq.storable = true ∧
    (seqEnd h 2).isSome ∧ planned s (seq h 2) (.queue .ma) 2 false = true ∧ planned s (.queue .sq) (seq h 2) 2 false = true ∧
    (rowEnd h 1).isSome ∧ planned s (row h 1) (.queue .ma) 1 false = true ∧ planned s (.queue .sq) (row h 1) 1 false = true ∧
    (seqEnd g 1).isSome ∧ planned s (seq g 1) (seq h 1) 1 false = true ∧
    (s.indices 2).isSome ∧ (idxEnd h 1 ((s.indices 2).getD [])).isSome ∧ planned s idx (.queue .ma) 2 true = true ∧
    planned s (.queue .sq) idx 2 true = true := by decide

theorem witness_moves_read : let s := core0 st (fun c => c.setQueue .sq [[], []]); let r := rowAt 0 0 4095
    s.rowTag r = 0 ∧ (r.space ≤ 8 ∧ s.rowTag r ≠ 5) ∧ 2 ≤ ((s.core 0).queue .sq).length ∧ ((s.core 0).queue .sq).length < 3 := by decide

theorem witness_rows_reach : let s := core0 st (fun c => c.setQueue .lq (List.replicate 16 []))
    (((s.core 0).queue .lq).length + 0 ≤ QueueId.lq.depth) ∧ (QueueId.lq.depth < ((s.core 0).queue .lq).length + 1) ∧
    (∀ x ∈ [List.replicate 256 (0 : Byte), List.replicate 256 1], x.length = 256) ∧
    [rowAt 0 0 4095, rowAt 0 9 1023].Pairwise (fun r r' => r.addr + 256 ≤ r'.addr ∨ r'.addr + 256 ≤ r.addr) ∧
    (s.core 0).patch.length < 8 ∧ (∀ p ∈ (s.core 0).patch, p.1 ≠ 7) := by decide

/-- A patch buffer in which a row is pending, and a full one. -/
theorem witness_patch_buffer :
    let s (n : Nat) := core0 st (fun c => { c with patch := (List.range n).map (fun i => (i, List.replicate 256 (0 : Byte))) })
    (∃ p ∈ ((s 8).core 0).patch, p.1 = 7) ∧ (∀ p ∈ ((s 7).core 0).patch, p.1 ≠ 7) ∧ ((s 7).core 0).patch.length < 8 ∧
    ((((s 8).core 0).patch.drop 1).length = 7 ∧ (∀ p ∈ ((s 8).core 0).patch, p.1 ≠ 8) ∧
      ∀ p ∈ ((s 8).core 0).patch.head?, p.2.length = 256) := by decide

/-- A ring of 4 entries with two in it: waits for entries and for room that are met, one short of being met, and above the capacity. -/
theorem witness_ring_waits : let r : Ring := { e := 4, tail := 2, res := 2 }
    r.filled = 2 ∧ r.room = 2 ∧ ((2#8 : Byte) ≠ 0 ∧ (2#8 : Byte).toNat ≤ r.filled ∧ (2#8 : Byte).toNat ≤ r.room) ∧
    (r.filled < (3#8 : Byte).toNat ∧ r.room < (3#8 : Byte).toNat ∧ (4#8 : Byte).toNat ≤ r.e ∧ r.e < (5#8 : Byte).toNat) := by decide

theorem witness_copies : let s := streaming; let h := s.rh 1; let k := s.here.core; let c := s.here.cycle
    let refs := (seqRefs h 2).getD []
    let f := (idxRef h 1).getD ⟨0, { tid := 0, tx := 0, ty := 0, j := 0, rows := [] }, 0⟩
    s.me.shadow = false ∧ actsNow s = true ∧ handleUsable h = true ∧ handleUsable (s.rh 2) = true ∧ spaceIn (s.rh 2) true true false = true ∧
    spaceIn h true true true = true ∧ banksFree s [(rowAt k 0 4095, c + 2, false)] = true ∧
    (seqRefs h 2).isSome ∧ (placed s h (refs.zipIdx.map (fun p => (p.1, c + 2 + (p.2 - 1))))).length = 2 ∧ s.poisonCheck h refs = none ∧
    banksFree s (rmergeUses c (placed s h (refs.zipIdx.map (fun p => (p.1, c + 2 + (p.2 - 1)))))) = true ∧
    (idxRef h 1).isSome ∧ (s.resolve h f (c + 2)).toBool = true ∧ banksFree s ((placed s h [(f, c + 2)]).map (fun r => (r, c + 2, false))) = true ∧
    (s.resolve h f (c + 5)).toBool = true ∧ banksFree s ((placed s h [(f, c + 5)]).map (fun r => (r, c + 5, false))) = true := by decide

theorem witness_lanes : let s := st.modCol 0 (fun c => { c with beats := [⟨15, 15, 0, 0, 1, []⟩] })
    (st.col 0).beatAt 15 15 0 = none ∧ (s.col 0).beatAt 15 15 0 ≠ none := by decide

/-- h4 a 32 × 64 tile of i8, h5 a plane tile of one plane. -/
def tiling : State := withH (withH acting 4 (handle 0 0 0 32 64)) 5 (hset (handle 1 0 0 0 0) .fmt 0x20)

theorem witness_tile_conversions : let s := tiling; let sv := s.rh 4; let dv := s.rh 5; let c := s.here.cycle
    let el := (seqRefs sv 64).getD []; let src : End := .rows sv el
    let steps : List Step := match s.plan src (.buffer 0) 64 (c + 3) false with | .ok l => l | _ => []
    let tl := steps.foldl (fun m st => max m st.time) (c + 3)
    let w0 := tl + src.alpha + 3 + betaOf 1
    let ds := (seqRefs dv 2).getD []
    let el2 := (seqRefs dv 2).getD []; let src2 : End := .rows dv el2; let ds2 := (seqRefs sv 64).getD []
    let steps2 : List Step := match s.plan src2 (.buffer 0) 2 (c + 2) false with | .ok l => l | _ => []
    let w2 := steps2.foldl (fun m st => max m st.time) (c + 2) + src2.alpha + 3 + betaOf 0
    actsNow s = true ∧ handleUsable sv = true ∧ handleUsable dv = true ∧ spaceIn sv true true false = true ∧ spaceIn dv true true false = true ∧
    planesOk sv dv false = true ∧ el.length = 64 ∧ (planesScaleRefs sv).map (·.length) = some 0 ∧ steps ≠ [] ∧ ds.length = 2 ∧
    (placed s dv (ds.zipIdx.map (fun x => (x.1, w0 + x.2)))).length = 2 ∧ s.poisonCheck sv el = none ∧
    banksFree s (planUses 0 steps ++ (placed s dv (ds.zipIdx.map (fun x => (x.1, w0 + x.2)))).zipIdx.map (fun x => (x.1, w0 + x.2, false))) = true ∧
    unplaneOk dv sv = true ∧ ds2.length = 64 ∧ steps2 ≠ [] ∧ (placed s sv (ds2.zipIdx.map (fun x => (x.1, w2 + x.2)))).length = 64 ∧
    banksFree s (planUses 0 steps2 ++ (placed s sv (ds2.zipIdx.map (fun x => (x.1, w2 + x.2)))).zipIdx.map (fun x => (x.1, w2 + x.2, false)))
      = true := by decide

/-- An entry of a page of 64 KiB at address 0: state 1, size 1. -/
def pageEntry : BitVec 128 := BitVec.ofNat 128 (2 ^ 56 + 2 ^ 52)

/-- Whether the acting core's table covers an address. -/
def translates (s : State) (a : Nat) : Bool := match s.me.translate a with | .ok .. => true | _ => false

/-- h6 a tile-cache handle, h3 rows 1023 of instruction memory, one way open in block 7, a locked page at 0. -/
def caching : State :=
  core0 ((withH (withH acting 6 (handle 10 0 0 0 0)) 3 (handle 9 1023 0 0 0)).modCol 0 (fun c => { c with ways := FMap.set 0 c.ways 7 1 }))
    (fun c => { c with locked := FMap.set 0 c.locked 0 pageEntry })

theorem witness_tile_cache : let s := caching
    let fs := (seqRefs (s.rh 6) 1).getD []; let im := (seqRefs (s.rh 3) 1).getD []
    let need := (needsOf fs).headD { tid := 0, tx := 0, ty := 0, j := 0, rows := [] }
    s.me.shadow = false ∧ handleUsable (s.rh 6) = true ∧ fs.length = 1 ∧ hget (s.rh 6) .space = 10 ∧
    (handleUsable (s.rh 3) = true ∧ hget (s.rh 3) .space = 9 ∧ im.length = 1 ∧ ∀ f ∈ im, f.row < 1024) ∧
    (s.col 0).useInWays 7 0 (s.here.cycle + 2) s.here.cycle = false ∧
    (s.col 0).findLine need.tid need.tx need.ty need.j = none ∧
    (s.victim 0 (setOf need.tid need.tx need.ty need.j) s.here.cycle).isSome ∧
    (((s.modCol 0 (fun c => { c with resizes := [(0, 7, 3)] })).col 0).resizes = [] ++ [((s.groupOf 0).sched, 7, 3)]) ∧
    (∀ r ∈ need.rows, ∀ o ∈ [0, 128], translates s (r * 256 + o) = true) := by decide

/-- h2 a row of the colonnade buffer, ring 63 of 4 entries at row 16 of it with two entries in it, its counts about to wrap. -/
def ringing : State := (withH acting 2 (handle 1 8 5 0 0)).modCol 0 (fun c => { c with
  rings := FMap.set {} c.rings 63 { e := 4, tail := 1048575, res := 1048575, head := 1048573, claim := 1048573, space := 1, base := 16 } })

theorem witness_rings : let s := ringing
    let r := s.myRing 63
    let f := (idxRef (s.rh 2) 0).getD ⟨0, { tid := 0, tx := 0, ty := 0, j := 0, rows := [] }, 0⟩
    s.me.shadow = false ∧ actsNow s = true ∧ (2 ≤ r.e ∧ 2 ≤ r.filled) ∧ (2 ≤ r.e ∧ r.copying = false ∧ 2 ≤ r.room) ∧ (r.done = [] ∧ r.tail < 2 ^ 20) ∧ r.freed = [] ∧
    handleUsable (s.rh 2) = true ∧ spaceIn (s.rh 2) true false false = true ∧ (idxRef (s.rh 2) 0).isSome ∧
    s.ringRowsOk (hget (s.rh 2) .space) (hget (s.rh 2) .base) 4096 = true ∧ s.ringRowsOk (hget (s.rh 2) .space) (hget (s.rh 2) .base) 16 = true ∧
    (s.resolve (s.rh 2) f (s.here.cycle + 3)).toBool = true ∧
    banksFree s ((placed s (s.rh 2) [(f, s.here.cycle + 3)]).map (fun r => (r, s.here.cycle + 3, false))) = true ∧
    (seqEnd (s.rh 2) 2).isSome ∧ spaceIn (s.rh 2) true true true = true ∧
    planned s ((seqEnd (s.rh 2) 2).getD (.queue .sq)) (s.ringEnd 63 s.askStart 2) 2 false = true ∧
    planned s (s.ringEnd 63 s.askStart 2) ((seqEnd (s.rh 2) 2).getD (.queue .sq)) 2 false = true := by decide

theorem witness_atomics : let s := withH st 2 (handle 1 8 0 0 0); let c := s.here.cycle
    let f := (idxRef (s.rh 2) 2047).getD ⟨0, { tid := 0, tx := 0, ty := 0, j := 0, rows := [] }, 0⟩
    let rs := placed s (s.rh 2) [(f, c + 2), (f, c + 3), (f, c + 4)]
    let r := rs.headD (rowAt 0 0 0)
    s.me.shadow = false ∧ (252 % (Sz.w32.bits / 8) = 0) ∧ handleUsable (s.rh 2) = true ∧ spaceIn (s.rh 2) true false false = true ∧
    (idxRef (s.rh 2) 2047).isSome ∧ rs.length = 3 ∧ banksFree s (rmwUses r (c + 2)) = true := by decide

theorem witness_entry_consistency : let s := withH (withH acting 2 (handle 1 8 0 0 0)) 1 (handle 0 0 0 0 0); let c := s.here.cycle; let h := s.rh 2
    let f := (idxRef h 0).getD ⟨0, { tid := 0, tx := 0, ty := 0, j := 0, rows := [] }, 0⟩
    let regions := s.me.regionsOf (hget h .space) (hget h .base)
    let at_ := max (c + 3) (s.me.lastTouch 0 regions + 1)
    s.me.shadow = false ∧ handleUsable h = true ∧ handleUsable (s.rh 1) = true ∧ regionSpace h = true ∧ regionSpace (s.rh 1) = true ∧
    (bindings s.me.binds 1 8 (regionRows h) 0 0).isSome ∧ hget h .space ≤ 8 ∧ (idxRef h 0).isSome ∧ (s.resolve h f (c + 2)).toBool = true ∧
    banksFree s ((placed s h [(f, c + 2)]).map (fun r => (r, c + 2, false))) = true ∧ (∀ x ∈ regions, x.1 ≤ 8) ∧
    (s.resolve h f at_).toBool = true ∧ banksFree s ((placed s h [(f, at_)]).map (fun r => (r, at_, false))) = true ∧
    ((0x8#8 : Byte) ≠ 0 ∧ engineQueues 1 ≠ 0 ∧ (0x8#8 : Byte).toNat < 2 ^ engineQueues 1) ∧ spaceIn h true false false = true ∧
    (seqEnd h 2).isSome ∧ planned s ((seqEnd h 2).getD (.queue .sq)) (.queue .lq) 2 false = true := by decide

theorem witness_untimed_objects : let s := core0 (withH acting 2 (handle 10 0 0 0 0)) (fun c => { c with locked := FMap.set 0 c.locked 0 pageEntry })
    s.me.shadow = false ∧ actsNow s = true ∧ handleUsable (s.rh 2) = true ∧ hget (s.rh 2) .space = 10 ∧ (24 + 64 / 8 ≤ 32) ∧
    (hget (s.rh 2) .base < 2 ^ 44 ∧ translates s (hget (s.rh 2) .base * 256) = true) ∧ s.me.lastTouch 0 [] < s.here.cycle := by decide

/-- A handler at cycle 100 where a read-modify-write slot of scratchpad row 0 issued at 97. -/
theorem witness_slot_held : let s := shadowed.modCol 0 (fun c => { c with uses := [⟨101, 0, 0, 0, 0, true, 0, 0, 97, {}⟩] })
    let s := core0 s (fun c => { c with trapAt := 100 })
    s.me.shadow = true ∧ s.slotHeld (rowAt 0 0 0) = true ∧ shadowed.slotHeld (rowAt 0 0 0) = false := by decide

theorem witness_signals_and_waits : let s := running acting
    s.me.shadow = false ∧ actsNow s = true ∧ (60 : SReg).val ≤ 60 ∧ (1#8 : Byte) ≠ 0 ∧ (s.physical 0).isSome = true ∧
    ((3 : Fin 16).val < engineQueues 1 ∧ (112 : Fin 128).val ≤ 112) ∧ (1#32 : Word32) ≠ 0 ∧ (∀ l ∈ waitLines 127 1, l ≤ 127) := by decide

/-- The run that core 0 of a state starts. -/
def runOf (s : State) (clr : Bool) : MgoRun :=
  { words := (List.range 7).map (FMap.get 0 s.me.cfgA), clr := clr, const := s.me.mconst, coop := s.me.mcoop, lasts := [], seen := [],
    pass := 0, total := 0 }

theorem witness_matrix_settings : let s := tiling; let c := s.here.cycle; let hv := s.rh 4
    let f (n : Nat) := (idxRef hv n).getD ⟨0, { tid := 0, tx := 0, ty := 0, j := 0, rows := [] }, 0⟩
    let rs := placed s hv [(f 0, c + 2), (f 1, c + 3)]
    s.me.shadow = false ∧ (Instr.mcfg 6 0x1FFFFF).wf = true ∧ (Instr.mcfg 5 0x1FFFFFF).wf = true ∧ (Instr.mcfgi 5 4095).wf = true ∧
    (Instr.mconst 0xFFFF05BD).wf = true ∧ (Instr.mcoop 0x3F).wf = true ∧ (Instr.mepi 0x603).wf = true ∧ (Instr.mmaskWindow 0xFFFF 0xFFFF).wf = true ∧
    s.me.busyAt 31 c = false ∧ s.me.feedEnd < c + 2 ∧ handleUsable hv = true ∧ spaceIn hv true false false = true ∧
    (idxRef hv 0).isSome ∧ (idxRef hv 1).isSome ∧ rs.length = 2 ∧
    banksFree s [(rs.headD (rowAt 0 0 0), c + 2, false), (rs.getLastD (rowAt 0 0 0), c + 3, false)] = true := by decide

theorem witness_matrix_runs : let s := core0 tiling (fun c => { c with wmark := FMap.set [] c.wmark 3 [(0, 64)] }); let r := runOf s true
    s.me.shadow = false ∧ (s.me.mgoEnd ≤ s.here.cycle + 3 ∧ r.bad = false ∧ (r.latchPlan false s.me.laPlanes).2 = false ∧
      (r.latchPlan true s.me.lbPlanes).2 = false ∧ r.reach ≠ [] ∧ ∀ p ∈ r.reach, s.me.drainBusyAt p.1 s.here.cycle = false) ∧
    ((3 : Fin 4).val + (0 : Fin 4).val + 1 ≤ 4 ∧ handleUsable (s.rh 4) = true ∧
      (∀ i < 64, 0 + i < s.me.markAt 3 (s.here.cycle + 2 + i)) ∧ epiHeap s.me.epi = false) ∧ s.me.feedEnd < s.here.cycle + 2 := by decide

/-- A tile of one plane of ones, read unsigned. -/
def ones : Tile := { planes := 1, rows := [List.replicate 256 0xFF, []] }

theorem witness_write_back : -- the sum of products at the edge of 64 bits, and one below it
    let c (n : Nat) : Core := ({} : Core).setAcc 0 0 [BitVec.ofNat 64 (2 ^ 63 - n)]
    let sum (n : Nat) : Int := ((c n).accWord 0 0 0).toInt + dot (ones.line 1 false 0) (ones.line 1 false 0)
    FMap.get 0 (c 0).accE 0 = 0 ∧ (∀ i < 64, ones.exp 1 i = 0) ∧ sum 33 = 2 ^ 63 - 1 ∧ sum 32 = 2 ^ 63 := by decide

/-- Core 0 with the accumulator slot 0 owned and drained to. -/
def vectoring : State := core0 acting (fun c => { c with
  valloc := 0x1F00, owned := FMap.set false c.owned 0 true, wmark := FMap.set [] c.wmark 0 [(0, 64)], vfin := 132 })

theorem witness_vector_pipeline : let s := vectoring; let start := max (s.here.cycle + 1) (s.me.vfin + 1)
    start = s.here.cycle + 33 ∧
    ∀ i ∈ [Instr.vadd (vargs .i32 0 31 31 31), .vmul (vargs .f32 0 3 2 1), .vmac (vargs .i8x4 2 28 1 0), .vfma (vargs .f32 0 1 2 3),
      .vmulh (vargs .i16x2 0 1 2 3), .vsat (vargs .i8x4 0 1 2 7), .vclz (vargs .i32 0 1 2 0), .vcmp (vargs .f32 0 7 2 3), .vcvt (vargs .i32 0 1 2 1),
      .vsrnd (vargs .f32 0 1 2 3), .vrand (vargs .i32 0 1 0 0), .viota (vargs .i32 0 1 0 0), .vimm (vargs .i32 0 1 0 0) 0xFFFFFFFF,
      .vrotr (vargs .i32 2 1 2 31), .vrotc (vargs .i32 0 1 2 15), .vbcr (vargs .i32 1 1 2 31), .vbcc (vargs .i32 0 1 2 15),
      .vredr (vargs .i32 0 1 2 0), .vredc (vargs .f32 0 1 2 0), .vscanr (vargs .i32 0 1 2 0), .vscanc (vargs .i32 0 1 2 0), .vtrn (vargs .i32 0 1 2 0),
      .vpop (vargs .i32 0 1 3 15), .vpush (vargs .i32 0 0 3 15), .vrdacc (vargs .i32 0 1 0 3), .vwracc (vargs .i32 0 0 1 3),
      .vsfn (vargs .f32 0 1 2 0)],
      (vectorArgs i).isSome ∧ i.wf = true ∧ s.allotment s.here.slot i 1 (fun _ => 0) = none ∧ s.vecCheck i = none := by decide

theorem witness_vector_pop : let s := core0 st (fun c => c.setQueue .vq3 (List.replicate 4 []))
    let n := min 4 ((15 : VReg).val + 1 - 4 * 3)
    0 < n ∧ n ≤ ((s.core 0).queue .vq3).length := by decide

/-- At cycle 2,996, with a page at address 0 and bank 1 of channel 0 opened 34 edges before the send edge. -/
def commanding : State :=
  (core0 (withS { st with here := { st.here with cycle := 2996 } } 1 0) (fun c => { c with locked := FMap.set 0 c.locked 0 pageEntry })).modChan 0 0 (fun c =>
    (c.setBank 1 (fun b => { b with row := some 7, actAt := some (edgeIndex (edgeAt 3000) - 34) })))

/-- Whether a command passes the checks of its channel in `commanding`. -/
def fits (s : State) (m : MemCmd) : Bool :=
  let m := { m with send := edgeAt (s.here.cycle + 4), edge := edgeIndex (edgeAt (s.here.cycle + 4)), src := s.src }
  (((s.col 0).chan m.ch).foreseen m).isNone && ((s.col 0).chan m.ch).settled m && !s.overRefresh 0 m.ch m.op s.here.cycle m.send

theorem witness_memory_commands : let s := commanding; let c := s.here.cycle; let send := edgeAt (c + 4)
    let table (s : State) (x : Nat) := (s.tableAt 0 (c + 2)).map (fun l => ({ locked := l } : Core).translate x)
    let tr := (table s (cmdAddr (s.rs 1) 0)).getD .range
    let at1 (op : Nat) : MemCmd := { ({ op := op } : MemCmd).place tr with row := rowAt 0 0 4095 }
    -- DRD and DWR need the row of the place that the table gives
    let s2 := s.modChan 0 0 (fun x => x.setBank (at1 2).bank (fun b => { b with
      row := some (at1 2).drow, actAt := some (edgeIndex (edgeAt 3000) - 15) }))
    s.me.shadow = false ∧ 2 < Config.channelsOf (colOf 0) ∧ Config.channelsOf (colOf 0) ≤ 3 ∧
    (fits s { op := 4, bank := 1, ch := 0 } ∧ fits s { op := 5, ch := 0 } ∧ fits s { op := 6, ch := 2 } ∧ fits s { op := 7, ch := 0, bank := 0 } ∧
      fits s { op := 8, ch := 2, half := 0x20 } ∧ fits s { op := 0xA, ch := 2 } ∧ fits s { op := 9, ch := 2 } ∧ fits s { op := 0xB, ch := 2 } ∧
      fits s { op := 0xE, ch := 2 } ∧
      fits (s.modChan 0 2 (fun x => { x with zqAt := some (edgeIndex (edgeAt 3000) - 800) })) { op := 0x1A, ch := 2 } ∧
      fits (s.modChan 0 2 (fun x => { x with selfRefresh := true })) { op := 0x1B, ch := 2 }) ∧
    (((s.col 0).chan 0).foreseen { op := 6, ch := 0, edge := 40, src := s.src } = some 2) ∧
    s.rowOk 0 (rowAt 0 0 4095) (send + 96) = true ∧ banksFree s [(rowAt 0 0 4095, send + 96, false)] = true ∧
    s.rowOk 0 (rowAt 0 0 4095) (c + 2) = true ∧ banksFree s [(rowAt 0 0 4095, c + 2, false)] = true ∧
    (tr ≠ .range ∧ fits s (at1 1) ∧ fits s2 (at1 2) ∧ fits s2 (at1 3)) ∧
    table s (cmdAddr (0xFFFFFFFFFFFFFFFF) 0) = some .range := by decide

/-- The conditions with their minima: met just at the minimum, broken one edge before. -/
theorem witness_command_edges :
    let at1 (f : Chan → Chan) (m : MemCmd) (e : Nat) : Bool := ((f {}).breach { m with edge := e }).isNone
    let edge (f : Chan → Chan) (m : MemCmd) (e : Nat) : Prop := at1 f m e = true ∧ at1 f m (e - 1) = false
    let bank (b : Bank) (c : Chan) : Chan := c.setBank 0 (fun _ => b)
    edge (bank { preAt := some 10 }) { op := 1 } 25 ∧ edge (bank { refAt := some 10 }) { op := 1 } 122 ∧
    edge (fun c => { c with acts := [10] }) { op := 7 } 14 ∧ edge (fun c => { c with acts := [10, 10, 10, 10] }) { op := 7 } 26 ∧
    edge (bank { row := some 0, actAt := some 10 }) { op := 2 } 25 ∧
    edge (fun c => { bank { row := some 0 } c with wrAt := some 10 }) { op := 2 } 35 ∧
    edge (fun c => { bank { row := some 0 } c with rdAt := some 10 }) { op := 3 } 29 ∧
    edge (bank { row := some 0, actAt := some 10 }) { op := 4 } 44 ∧ edge (bank { row := some 0, wrAt := some 10 }) { op := 5 } 55 ∧
    edge (fun c => { c with preAt := some 10 }) { op := 6 } 25 ∧ edge (fun c => { c with mrAt := some 10 }) { op := 8 } 18 ∧
    edge (fun c => { c with zqAt := some 10 }) { op := 0x1A } 810 ∧ edge (fun c => { c with refAllAt := some 10 }) { op := 0xB } 234 ∧
    edge (fun c => { c with selfRefresh := true, xsrAt := some 10 }) { op := 0x1B } 242 ∧
    edge (fun c => { c with lastSend := some 9 }) { op := 0xE } 10 := by decide

/-- A channel whose next command is `m`, in the channel state `f`. -/
def sending (f : Chan → Chan) (m : MemCmd) : State := st.modChan 0 0 (fun c => { f c with pend := [m] })

theorem witness_sent_commands :
    let fine (f : Chan → Chan) (m : MemCmd) : Prop := let s := sending f m
      s.findCmd 0 m = some m ∧ m.state = 0 ∧ (∀ p ∈ s.pending 0, p.state ≠ 2) ∧ ((s.col 0).chan 0).breach m = none ∧
      (s.dropCmd 0 m).overRefresh 0 0 m.op ((s.groupOf 0).debtAt - 1) m.send = false ∧ s.errs = []
    let open_ (c : Chan) : Chan := c.setBank 0 (fun b => { b with row := some 0 })
    (∀ op ∈ [1, 5, 6, 7, 8, 9, 0xA, 0xB, 0xE], fine id { op := op, edge := 37, send := 102 }) ∧
    (∀ op ∈ [2, 3, 4], fine open_ { op := op, edge := 37, send := 102 }) ∧
    fine (fun c => { c with zqAt := some 0 }) { op := 0x1A, edge := 800, send := 2200 } ∧
    fine (fun c => { c with selfRefresh := true }) { op := 0x1B, edge := 37, send := 102 } := by decide

theorem witness_table_loads : let s := st; let c := s.here.cycle
    s.me.shadow = false ∧ 2 < Config.channelsOf (colOf s.here.core) ∧ ((960 : Nat) + 63 + 1 ≤ 1024 ∧ (4092 : Nat) + 4 ≤ 4096) ∧
    banksFree s ((List.range 4).map (fun j => (rowAt 0 0 (4092 + j), c + 2 + j, false))) = true ∧
    s.rowOk 0 (rowAt 0 0 4095) (c + 4) = true ∧ banksFree s [(rowAt 0 0 4095, c + 4, false)] = true ∧
    (∀ i < 16, entryWf 3 (BitVec.ofNat 128 (leNat (s.mem.readBytes (spAddr 0 0 + 16 * i) 16))) = true) ∧
    entryWf 3 pageEntry = true ∧ entryWf 3 1 = false := by decide

theorem witness_landings :
    (({ bytes := List.replicate 128 0, index := 8, addr := 8191, count := 1, flag := true } : EvArgs).bytes.length = 128) ∧
    ((ev { opt := some 5 }).ev.opt = some 5) ∧ ((ev { bytes := List.replicate 256 0 }).ev.bytes.length ≤ 256) := by decide

theorem witness_temperature : let s := running (ev {})
    (((s.col s.ev.col).chan s.ev.ch).mr.find? (fun p => p.1 = 4)) = none ∧ (s.col s.ev.col).inst = some 1 ∧
    exceeds 0 1 = true ∧ exceeds 1 1 = false ∧ exceeds 1 2 = true ∧ exceeds 0 0 = false ∧ ((ev {}).col 0).inst = none := by decide

/-- A tile-cache line of one row that is being filled. -/
def filling (n : Nat) : State := ({ (core0 st (fun c => { c with locked := FMap.set 0 c.locked 0 pageEntry })) with
  ev := { index := 3, entry := none } }).modCol 0 (fun c => { c with lines := FMap.set none c.lines 3 (some
    { tid := 0, tx := 0, ty := 0, j := 0, dirty := true, rows := [n], poison := [1], used := 0, pinned := 0, filling := true, core := 0 }) })

theorem witness_absent_pages_and_fills :
    let s := (ev { index := 1023, entry := some pageEntry }).modChan 0 2 (fun c => { c with pend := [{ op := 1, ch := 2, state := 2 }] })
    let x := { s with ev := { s.ev with entry := none } }
    s.ev.entry = some pageEntry ∧ (x.ev.entry = none ∧ ((x.pending 0).find? (fun m => m.src.core = 0 && m.state = 2)).isSome) ∧
    ((filling 255).readDv 0 (255 * 256) 256 = some (List.replicate 256 0)) ∧ ((filling 256).readDv 0 (256 * 256) 256 = none) ∧ 256 < dvRows ∧
    (isQuiet (filling 255) = true ∧ ((filling 255).col 0).backs = [] ∧ (filling 255).errs = [] ∧ (filling 255).ev.flag = false) ∧
    ((s.groupOf 0).phase ≠ .run ∧ ((s.modGroup 0 (fun g => { g with phase := .run })).groupOf 0).phase = .run) := by decide

/-! Job cards. -/

/-- The engine's queue 3 runs a card of the instance of colonnade 0. -/
def carded (s : State) (e : Engine) (c : JobCard) : State :=
  { s with ev := { s.ev with q := ⟨e, 0, 3⟩ }, queues := FMap.set {} s.queues (queueKey ⟨e, 0, 3⟩) { running := some c } }

/-- What every statement about a completing card assumes. -/
def completing (s : State) (c : JobCard) : Bool :=
  s.runningCard == some c && (s.inst c.inst).status.isNone && s.placeOf c.inst c.logical == some 0 && (s.copyOf c.serial).isNone

theorem witness_job_cards :
    let s := acting.modCol 0 (fun c => { c with rings := FMap.set {} c.rings 63 { e := 64 } })
    let d : State := { acting with here := { acting.here with core := 96 } }
    s.me.shadow = false ∧ colOf s.here.core ≠ 12 ∧ actsNow s = true ∧
    4 ^ (3 : Fin 4).val ≤ ((s.col 0).ring 63).e ∧ s.noQueue .stacks = false ∧
    (s.modPart 0 (fun p => { p with noQueues := 2 ^ engineCode .stacks })).noQueue .stacks = true ∧ (∀ c ∈ (s.queue (queueFor 0 (linkEngine 3) 3)).transit, c.serial ≠ s.ctr) ∧
    shadowed.me.shadow = true ∧ (d.me.shadow = false ∧ colOf d.here.core = 12) := by decide

theorem witness_cards_start :
    let q : QueueRef := ⟨.stacks, 0, 3⟩
    let c : JobCard := { inst := 1, wait := [72, 127], serial := 9 }
    let s (n : Nat) (u : CardQueue) := (running { st with
      ev := { q := q, opt := some 9 }, queues := FMap.set {} st.queues (queueKey q) u }).modCol 0 (fun c => { c with
        counts := FMap.set 0 (FMap.set 0 c.counts 127 1) 72 n, credits := FMap.set 0 c.credits (creditKey q) (creditLimit q - 1) })
    let s (n : Nat) (u : CardQueue) := (s n u).modGroup 1 (fun g => { g with sched := 1 })
    let w := s 1 { cards := [c, c] }
    (FMap.get 0 (w.col 0).credits (creditKey q) < creditLimit q) ∧ creditLimit q ≤ creditLimit q ∧
    ((s 1 { transit := [c] }).queue q).transit.find? (fun d => d.serial = 9) = some c ∧
    (w.ev.q = q ∧ w.ev.opt = some c.serial ∧ (w.queue q).running = none ∧ (w.queue q).cards = c :: [c]) ∧ ({ c with claimed := 5 } : JobCard).claimed ≠ 0 ∧
    (c.claimed = 0 ∧ w.fenceDone c = true ∧ w.placeOf c.inst c.logical = some 0 ∧ w.leaving_ q = false) ∧
    ((∀ l ∈ c.wait, FMap.get 0 (w.col 0).counts l ≠ 0) ∧ c.wait.Nodup) ∧ FMap.get 0 ((s 0 {}).col 0).counts 72 = 0 := by decide

/-- Sequence 255 of partition 0, open and forked, of one chain: two pages of the colonnade buffer, the first with a
provisional slot of node 63, generation 3. -/
def sequenced : State :=
  let p : Page := { ptr := 0x1000000000000000, next := 0x1000000000000100, d := 0, ptok := 0, fmt := 0, seq := 255, chain := 0, share := 0,
                    slots := [provisionalSlot 3 63 0] }
  let q : Sequence := { isOpen := true, nchain := 1, homes := [0], forked := true, heads := [(0, 0x1000000000000000)], live := [3] }
  let s := (running { st with
    seqs := FMap.set {} st.seqs 255 q, mem := st.mem.writeBytes (cbAddr 0 0 0) p.bytes }).modPart 0 (fun p => { p with seqs := [255] })
  { s with mem := s.mem.writeBytes (cbAddr 0 0 256) (leBytes 8 noPage) }

theorem witness_decode_cards :
    let op (o : Nat) (i : Instr) : JobCard := { inst := 1, serial := 9, op := i, operand := BitVec.ofNat 64 o, signal := [72, 127] }
    let s (c : JobCard) := { carded ((running st).modCol 0 (fun x => x)) .decode c with wall := 10000 }
    let m := op (8 * 2 ^ 60 + 0xFFFFFF * 2 ^ 24 + 8190) (.qmask (card 0) 15)
    let b := (s m).setSlot 0 15 { bound := true }
    completing (s m) m = true ∧ isQuiet (s m) = true ∧ ((s m).beginWork m.workKey m.claimed).attnDue m ≤ (s m).wall ∧
    (s m).ev.flag = false ∧ m.dropSignal = false ∧ m.signal.Nodup ∧
    (m.operand.toNat / 2 ^ 48 % 2 ^ 12 = 0 ∧ m.operand.toNat / 2 ^ 13 % 2 ^ 11 = 0 ∧ m.operand.toNat / 2 ^ 60 ≤ 8) ∧
    (s m).rowArea 0 (8 * 2 ^ 60 + 8190) 2 = some (.row (rowAt 0 8 8190)) ∧ (b.slot 0 15).bound = true ∧ ((s m).slot 0 15).bound = false ∧
    8 < (op (9 * 2 ^ 60) (.qbind (card 0) 0)).operand.toNat / 2 ^ 60 := by decide

theorem witness_stacks_cards :
    let op (o : Nat) (i : Instr) : JobCard := { inst := 1, serial := 9, op := i, operand := BitVec.ofNat 64 o, signal := [72, 127] }
    let s (c : JobCard) := carded sequenced .stacks c
    let pin := op (255 * 2 ^ 56 + 255 * 2 ^ 48) (.kpin (card 0)); let bad := op (255 * 2 ^ 56 + 1) (.kpin (card 0))
    let no := op 0 (.kpin (card 0)); let qu := op (255 * 2 ^ 56 + 8191 + 2 ^ 44) (.kquery (card 0))
    let new := op (255 * 2 ^ 56 + 255 * 2 ^ 48) (.knew (card 0))
    let t := (carded sequenced .stacks new).modSeq 255 (fun q => { q with live := [], len := 2 ^ 24 - 64 })
    (∀ c ∈ [pin, bad, no, qu], completing (s c) c = true ∧ isQuiet (s c) = true) ∧ completing t new = true ∧ isQuiet t = true ∧
    (sequenced.part 0).seqs.contains 255 = true ∧ (sequenced.seq 255).isOpen = true ∧ (sequenced.part 0).seqs.contains 0 = false ∧
    bitsOf pin.operand.toNat 47 0 = 0 ∧ bitsOf bad.operand.toNat 47 0 ≠ 0 ∧ (t.seq 255).live = [] ∧ (t.seq 255).len + 64 ≤ 2 ^ 24 ∧
    bitsOf new.operand.toNat 47 0 = 0 ∧ bitsOf new.operand.toNat 55 48 = 0xFF ∧
    bitsOf qu.operand.toNat 55 48 = 0 ∧ bitsOf qu.operand.toNat 43 13 = 0 ∧ (s qu).cardRows qu 8191 1 = some (.row (rowAt 0 1 8191)) := by decide

theorem witness_page_copies :
    let y : PageCopy := ⟨5, 255, 0, 0x1000000000000000, [0x1000000000000200, 0x1000000000000300], none, {}, 0, [0, 0]⟩
    let s := { sequenced with copies := [y], ev := { index := 5, seq := 255, node := 63, gen := 3, chain := 0, value := 1 } }
    (s.copyOf 5 = some y ∧ (s.seq 255).forked = true ∧ s.chain 255 0 = [0x1000000000000000, 0x1000000000000100]) ∧
    (s.loadPage 0 y.page).slots.all (fun w => slotState w = 0) = false ∧ s.pageErr 0 y.page 0 65536 false = none ∧
    s.pageErr 0 (y.dests.headD noPage) 0 65536 true = none ∧ (∀ p ∈ s.chain 255 0, tierOf p ≠ 2 ∧ s.pageErr 0 p 0 65536 false = none) ∧
    isQuiet s = true ∧ s.ev.lines = [] ∧ s.ev.run = none ∧ (s.seq 255).opened = y.opened ∧
    (∀ p ∈ (y.page :: y.dests).filterMap pagePort, s.portReady p (s.seq 255).part = true) ∧
    (∀ p ∈ [y.page, y.dests.headD noPage], s.pageGranted (s.seq 255).part p = true) ∧
    ((s.beginWork y.card.workKey (s.wall + 1)).fitPages y (s.chain 255 0).length).map (·.1) = some y.dests ∧ s.ev.chain < (s.seq 255).nchain ∧ 3 ∈ (s.seq 255).live ∧
    (s.nodeSlot 255 0 3 63).isSome = true ∧ (s.seq 255).faults = [] := by decide

theorem witness_sampling_cards :
    let op (o : Nat) (i : Instr) (a : List Byte) : JobCard := { inst := 1, serial := 9, op := i, operand := BitVec.ofNat 64 o, arg := a }
    let s (c : JobCard) := carded sequenced .samp1 c
    let arg : Row := padTo 256 (leBytes 8 0xFFFFFFFFFFFFFFFF)
    let obj := op 8191 (.gseedObj 1 (card 0)) arg; let sq := op (255 * 2 ^ 56) (.gseedSeq 1 (card 0)) arg
    let no := op (254 * 2 ^ 56) (.gseedSeq 1 (card 0)) arg; let clr := op 0 (.gparamClear 1 (card 0)) []
    (∀ c ∈ [obj, sq, no, clr], completing (s c) c = true ∧ c.run = none) ∧ bitsOf obj.operand.toNat 55 48 = 0 ∧ bitsOf obj.operand.toNat 43 13 = 0 ∧
    arg ≠ [] ∧ (∀ i < 256, 8 ≤ i → (arg[i]?.getD 0) = 0) ∧ obj.seq = 0 ∧ sq.seq ∈ (sequenced.part 0).seqs ∧ no.seq ∉ (sequenced.part 0).seqs ∧
    bitsOf clr.operand.toNat 63 44 = 0 ∧ bitsOf clr.operand.toNat 39 0 = 0 ∧ (sequenced.physOf 1 (bitsOf clr.operand.toNat 43 40)).isSome = true := by
  decide

theorem witness_engine_reports : let s := { (running st) with ev := { inst := 1, core := 7 } }
    (s.inst 1).status = none ∧ s.placeOf 1 0 = some 0 ∧ (s.core 7).mode ≠ .halted ∧
    ((s.modCore 7 (fun c => { c with mode := .halted })).core 7).mode = .halted := by decide

theorem witness_time_cards :
    let op (o : Nat) (i : Instr) : JobCard := { inst := 1, serial := 9, op := i, operand := BitVec.ofNat 64 o }
    let s (c : JobCard) := carded ((running st).modPart 0 (fun p => { p with ticks := [15], watches := [31], rules := [255] })) .time c
    let off := op (15 * 2 ^ 48) (.wtickOff (card 0)); let dead := op (31 * 2 ^ 48) (.wdeadOff (card 0)); let flow := op (255 * 2 ^ 48) (.wflowOff (card 0))
    let b : State := { s off with streams := FMap.set {} (s off).streams 0 { bound := true, tick := 15 } }
    (∀ c ∈ [off, dead, flow], completing (s c) c = true ∧ c.run = none ∧ c.namesOnly true false false = true) ∧ off.index < 16 ∧
    15 ∈ ((s off).part 0).ticks ∧ (s off).tickBound 15 = false ∧ b.tickBound 15 = true ∧ 0 ∉ ((s off).part 0).ticks ∧
    dead.index < 32 ∧ 31 ∈ ((s dead).part 0).watches ∧ 255 ∈ ((s flow).part 0).rules := by decide

theorem witness_time_events :
    let s := { (running st).modPart 0 (fun p => { p with ticks := [15], cols := [0] }) with ev := { index := 15, addr := 100 } }
    let t : State := { s with streams := FMap.set {} s.streams 15 { bound := true, period := 100, first := 100, next := 0 } }
    let w : State := { s with watches := FMap.set {} s.watches 15 { isOpen := true, inst := 1 } }
    let f : State := { s with ev := { bytes := List.replicate 64 0 }, ports := FMap.set {} s.ports 0 { part := some 0 } }
    -- an Ethernet frame of type 0x88F7
    let ptp : List Byte := List.replicate 12 0 ++ [0x88, 0xF7] ++ List.replicate 46 0
    s.tickPart 15 = some 0 ∧
    ((t.stream 15).bound = true ∧ (t.stream 15).period ≠ 0 ∧ 0 ≤ dnDiff 100 (t.stream 15).first ∧
      (t.stream 15).next ≤ (dnDiff 100 (t.stream 15).first / ((t.stream 15).period : Int)).toNat) ∧
    ((w.watch 15).isOpen = true ∧ (w.inst 1).placed = true ∧ w.instGroup 1 0 = none) ∧
    ((f.ethPort 0).ptp = false ∧ (f.ethPort 0).part.isSome = true ∧ f.firstRule 0 (parseFrame f.ev.bytes) = none) ∧
    ((parseFrame ptp).isClock = true ∧ (parseFrame ptp).tooLong = false ∧ (parseFrame f.ev.bytes).tooLong = false) ∧
    (({ f with clock := 2 } : State).clock = 2 ∧ f.clock ≠ 2) ∧ ((ev { value := 5 }).dtSec * 10 ^ 9 + (ev { value := 5 }).dtNs < 2 ^ 48 * 10 ^ 9) := by decide

/-! Links and groups. -/

/-- Port 3 as a statement's state has it, with the operands of an event on it. -/
def linked (l : LinkPort) (e : EvArgs) : State := { (running (ev { e with port := 3 })) with links := FMap.set {} [] 3 l }

theorem witness_link_events :
    let up : LinkPort := { up := 2, goodSeq := 0xFFF, acked := 0xFFF, window := [[]], ackAt := 0 }
    let good := flitOf 1 0 0xFFF false [1]; let late := flitOf 1 1 0xFFF false [1]; let bad := 1#8 :: good.drop 1
    let s := linked up { bytes := good, value := 0xFFF }
    let c : JobCard := { inst := 1, serial := 9, op := .nmode 3 (card 0), operand := 1 }
    let n (o : Nat) := carded (linked up {}) .link3 { c with operand := BitVec.ofNat 64 o }
    let m : Incoming := { queue := 7, part := 0, kind := 0, addr := 0, col := 0, g := 0, count := 0, rows := [] }
    let a := core0 (linked up { tag := 8, bytes := List.replicate 32 0 }) (fun c => { c with acqAsked := true, locked := FMap.set 0 c.locked 0 pageEntry })
    let v := { a with ev := { a.ev with tag := 10 } }
    ((s.link 3).up ≠ 0 ∧ (s.link 3).window ≠ [] ∧ ((linked { up with replays := 16 } {}).link 3).replays = 16 ∧ (s.link 3).replays < 16 ∧
      ((linked { up with replays := 15 } {}).link 3).replays = 15) ∧
    (({ s with wall := 22001 } : State).wall = (s.link 3).ackAt + 22001 ∧ ({ s with wall := 22000 } : State).wall ≤ (s.link 3).ackAt + 22000) ∧
    s.ev.value = (s.link 3).acked ∧
    (good.length = 256 ∧ crc64 (good.take 248) = leAt good 248 8 ∧ leAt good 2 2 = 0xFFF ∧ leAt good 0 2 % 4096 = ((s.link 3).goodSeq + 1) % 4096 ∧
      leAt good 0 2 / 2 ^ 12 = 1) ∧
    (late.length = 256 ∧ crc64 (late.take 248) = leAt late 248 8 ∧ leAt late 2 2 = 0xFFF ∧ leAt late 0 2 % 4096 ≠ ((s.link 3).goodSeq + 1) % 4096) ∧
    (bad.length = 256 ∧ crc64 (bad.take 248) ≠ leAt bad 248 8) ∧ ((linked { up with up := 1 } {}).link 3).up ≠ 2 ∧
    (((linked { up with waiting := [m] } {}).link 3).waiting = [m] ∧ m.kind = 0 ∧
      (linked { up with waiting := [m] } {}).served m.at_ ((linked { up with waiting := [m] } {}).messageUnits m) = true) ∧
    ((0, 5) ∈ ((linked { up with paired := [(0, 5)] } {}).link 3).paired ∧ ((linked up {}).link 3).paired = []) ∧
    (completing (n 1) { c with operand := 1 } = true ∧ c.run = none ∧ bitsOf (1#64).toNat 63 1 = 0 ∧ bitsOf (2#64).toNat 63 1 ≠ 0) ∧
    ((a.core 0).acqAsked = true ∧ a.ev.tag ≠ 10 ∧ a.ev.bytes.length = 32) ∧ (v.ev.tag = 10 ∧ (v.readDv 0 0 32).isSome = true) ∧
    (a.ev.lines = [] ∧ a.ev.run = none ∧ a.ev.cols = [] ∧ a.ev.tag ≤ 8 ∧ isQuiet a = true ∧ (a.col 0).backs = [] ∧
      ∃ x ∈ ((core0 a (fun c => { c with rels := [{ gen := 0 }] })).core 0).rels, x.gen = a.ev.gen) := by decide +kernel

theorem witness_groups :
    let s := (ev {}).modGroup 0 (fun g => { g with cols := [0] })
    let f := (s.modGroup 0 (fun g => { g with entry := some 255 }))
    let t := (List.range 8).foldl (fun s k => s.modCore k (fun c => { c with
      mode := .atFrag, catalogue := FMap.set 0 c.catalogue 255 17 })) f
    let a := s.modCol 0 (fun c => { c with abandon := some 255 })
    let b := a.modGroup 0 (fun g => { g with barrier := some (50, true) })
    ((∀ k ∈ t.liveCores 0, FMap.get 0 (t.core k).catalogue (((t.group 0).entry).getD 0) ≠ 0) ∧ (t.liveCores 0).length = 8) ∧
    (∀ x ∈ (s.group 0).cols, s.pending x = []) ∧
    ((a.group 0).cols = [0] ∧ (a.col 0).abandon = some 255 ∧ (a.group 0).barrier = none ∧ (b.group 0).barrier = some (50, true)) := by decide +kernel

/-! The front end: partition 0 with colonnades 0 and 1, its window mapped at address 0, and a launch directory at 0 for a code object at 1024. -/

/-- A code object of one colonnade: a code section of one empty word and a Catalogue of zeros for each core, and one group. -/
def objectFile (digest : List Byte) : List Byte :=
  let body (i : Nat) : Nat := 512 + 1056 * i
  leBytes 4 0x594C4E43 ++ leBytes 2 1 ++ leBytes 2 17 ++ [1, 0, 1, 1, 7, 0, 0, 0] ++ leBytes 8 0 ++ leBytes 8 0 ++ padTo 64 digest ++
    (List.range 8).flatMap (fun k => leBytes 2 1 ++ [0, 0xFF, 0, BitVec.ofNat 8 k, 0, 0] ++ leBytes 4 (body k) ++ leBytes 4 4) ++
    (List.range 8).flatMap (fun k => leBytes 2 4 ++ [0, 0xFF, 0, BitVec.ofNat 8 k, 0, 0] ++ leBytes 4 (body k + 32) ++ leBytes 4 1024) ++
    (leBytes 2 3 ++ [0, 0, 0xFF, 0xFF, 0, 0] ++ leBytes 4 400 ++ leBytes 4 1)

/-- The launch directory: first launch, one instance, numbered from 65,535 on. -/
def directory (count base : Nat) : List Byte :=
  leBytes 4 0x594C4C44 ++ leBytes 2 1 ++ [1, 0] ++ leBytes 4 count ++ leBytes 4 base ++ leBytes 8 1024

/-- Partition 0 with a window of 64 KiB, and bytes at addresses of it. -/
def hosting (d : List (Nat × List Byte)) : State :=
  let p : Partition := { live := true, cols := [0, 1], windowTable := [(0, pageEntry)], permits := [1] }
  let s : State := { State.reset with parts := [(0, p)] }
  { s with mem := d.foldl (fun m x => m.writeBytes (((s.windowAddr 0 0).getD 0) + x.1) x.2) [] }

/-- An administration or submission entry with four fields. -/
def entry (s : State) (f : List Nat) : State := { s with ev := { s.ev with bytes := padTo 64 (leBytes 8 0 ++ f.flatMap (leBytes 8)) } }

/-- What the loader judges of a header and its descriptors. -/
def tables (f : List Byte) : Bool :=
  let h := f.take 96; let n := leAt h 6 2; let cols := shapeCols (leAt h 8 1) (leAt h 9 1)
  let ds := (List.range n).map (fun i => (f.drop (96 + 16 * i)).take 16)
  let spans := ds.map (fun d => (leAt d 8 4, leAt d 12 4))
  headerOk h && ds.all (fun d => descriptorOk d (leAt h 10 1) cols) && spans.all (fun p => p.2 = 0 || 96 + 16 * n ≤ p.1) && apart spans

/-- The sections of that object. A Catalogue of zeros starts every entry at word 0. -/
def objectOfZeros : Object :=
  let all (ty len : Nat) : List ObjSection := (List.range 8).map (fun k => ⟨0, ty, 0, 0xFF, 0, k, List.replicate len 0⟩)
  { mains := 1, refresh := 1, groups := [[0]], sections := all 1 4 ++ all 4 1024 ++ [⟨0, 3, 0, 0, 0xFF, 0xFF, [0]⟩] }

/-- An object that the loader takes, once ODIGEST holds the file's own digest, and the edge of a shape that fits. -/
theorem witness_launch_object : tables (objectFile (List.replicate 64 0xAB)) = true ∧
    objectOfZeros.sections.all (bodyOk [0]) = true ∧ objectOfZeros.codeOk = true ∧ objectOfZeros.groupsOk = true ∧ objectOfZeros.safeOk = true ∧
    (∀ e < 256, e % 51 = 0 → ∀ k < 8, objectOfZeros.entry 0 k e = some 0) ∧
    (hosting []).shapeFits { mains := 2 } 0 = true ∧ (hosting []).shapeFits { mains := 3 } 0 = false := by decide +kernel

theorem witness_launch_directories :
    let d (count base : Nat) := ((hosting [(0, directory count base)]).readWindow 0 0 0x3C8).getD []
    let fine (d : List Byte) : Prop := d.length = 0x3C8 ∧ leAt d 0 4 = 0x594C4C44 ∧ leAt d 4 2 = 1 ∧ leAt d 6 1 ≤ 1 ∧ leAt d 7 1 ≤ 13
    (hosting []).readWindow 0 65535 0x3C8 = none ∧ (fine (d 0 65535) ∧ leAt (d 0 65535) 8 4 = 0 ∧ leAt (d 0 65535) 12 2 ≤ 65535) ∧
    (fine (d 65537 0) ∧ 65536 < leAt (d 65537 0) 8 4 ∧ leAt (d 65537 0) 8 4 < 2 ^ 17) ∧ leAt (d 1 65535) 12 2 + leAt (d 1 65535) 8 4 = 65536 ∧
    (let s := hosting [(0, directory 0 65535)]; s.served 5 (s.launchUnits 0 0) = true ∧ s.served 5 (s.windowUnits 0 0 8192) = true) ∧
    (3 : Nat) ≠ adminQueue := by decide +kernel

theorem witness_kill_and_graphs :
    let h := hosting []
    let i : State := { h with insts := FMap.set {} [] 1 { number := 5, queue := 3 } }
    let k := entry i [3, 0, 5]; let no := entry i [3, 0, 6]
    let named (s : State) (p : Nat × Inst) : Bool := p.2.part = s.ev.part && p.2.status.isNone && p.2.number = entryField s.ev.bytes 2 &&
      p.2.queue = entryField s.ev.bytes 0 && (s.launch p.2.launch).pos = entryField s.ev.bytes 1
    -- one END node at 0
    let node : List Byte := 1#8 :: 0 :: leBytes 2 0xFFFF ++ List.replicate 28 0
    let load (f : List Nat) := entry (hosting [(0, node)]) f
    let nodes (s : State) := chunksOf 32 (entryField s.ev.bytes 2) ((s.readWindow 0 (entryField s.ev.bytes 1) (32 * entryField s.ev.bytes 2)).getD [])
    let loaded (g : Graph) : State := entry ((hosting []).modGraph 0 63 (fun _ => { g with loaded := true })) [63]
    ((∃ p ∈ k.insts, named k p = true) ∧ (∀ p ∈ k.insts, named k p = true → p.1 = 1) ∧ (k.inst 1).status = none ∧ ∀ p ∈ no.insts, named no p = false) ∧
    (entryField (load [63, 0, 1, 0]).ev.bytes 0 = 63 ∧ (∀ d ∈ nodes (load [63, 0, 1, 0]), nodeOk d 1 = true) ∧ (nodes (load [63, 0, 1, 0])).length = 1 ∧
      ((load []).graph 0 63).loaded = false ∧ (load []).burstOf 0 65504 ≠ none ∧ (load []).burstOf 0 65505 = none) ∧
    (∃ d ∈ nodes (load [0, 32, 1]), nodeOk d 1 = false) ∧ ((loaded {}).graph 0 63).loaded = true ∧
    (((loaded { runs := [0, 0, 0, 0] }).graph 0 63).runs.length = 4 ∧ ((loaded {}).graph 0 63).cur = none ∧
      ((loaded { runs := [0, 0, 0], cur := some {} }).graph 0 63).cur = some {}) ∧
    ((loaded { cur := some { waits := true } }).graph 0 63).cur = some { waits := true } := by decide +kernel

theorem witness_loans_and_grants :
    let s (f : List Nat) : State := entry ((hosting []).modPart 1 (fun p => { p with live := true, seqs := [7] })) f
    let l : State := { s [1] with leases := [(1, { lender := 0, cols := [1] })] }
    let out : State := (s [1]).modCol 1 (fun c => { c with draining := true })
    (entryField (s [1, 2, 0, 16384]).ev.bytes 3 = 16384 ∧ (16384 % 64 = 0) ∧ ((s []).part 1).live = true ∧ 1 ∈ ((s []).part 0).permits ∧
      (s []).idleCols 0 = [0, 1]) ∧ ((s []).part 2).live = false ∧
    ((l.lease 1).cols ≠ [] ∧ (l.lease 1).lender = 0 ∧ (l.lease 1).since = none) ∧ (l.lease 2).cols = [] ∧
    (∃ p ∈ [(1, ({ placed := true, cols := [(0, 2)] } : Inst)), (2, { saving := true, cols := [(0, 2)] })],
      (p.2.placed = true ∨ p.2.saving = true) ∧ p.2.status = none ∧ ∃ q ∈ p.2.cols, q.2 - 1 ∈ (l.lease 1).cols) ∧
    (1 < 13 ∧ 1 ∈ ((s []).part 0).cols ∧ ((s []).col 1).draining = false) ∧ (2 ∉ ((s []).part 0).cols) ∧
    ((out.col 1).draining = true ∧ (out.col 1).retired = false ∧ (out.col 1).drainFor = .none) ∧
    ((∀ p ∈ (s []).parts, p.1 ≠ 0 → ∀ n ∈ [8, 255], n ∉ p.2.seqs) ∧ ∃ p ∈ (s []).parts, p.1 ≠ 0 ∧ 7 ∈ p.2.seqs) ∧
    entryField (s [6, 255, 15]).ev.bytes 2 = 15 ∧ (entryField (s [8, 15, 0]).ev.bytes 1 = 15 ∧ entryField (s [9, 63]).ev.bytes 1 = 63 ∧
      entryField (s [10, 63]).ev.bytes 1 = 63 ∧ 10 < entryField (s [11]).ev.bytes 0) := by decide +kernel

theorem witness_instances :
    let h := hosting []
    let w : State := { h with insts := [(1, { object := { mains := 2, energy := 0 }, waiting := true })], ev := { inst := 1, flag := true } }
    let l : State := { h with launches := [(1, { object := { mains := 2, energy := 0 }, count := 65536, next := 65535, base := 0 })], ev := { index := 1 } }
    let p : State := (running { h with ev := { group := 1 } }).modGroup 1 (fun g => { g with cols := [0], inst := 1, conds := [.preempt] })
    ((w.inst 1).waiting = true ∧ (w.inst 1).held = false ∧ (w.inst 1).status = none ∧ w.mayPlace (w.inst 1).part (w.inst 1).priority = true ∧ w.powerFits (w.inst 1).object = true ∧ w.powerGoal = none ∧
      w.pickPlace (w.inst 1).object 0 [] = some [(0, 0), (1, 1)]) ∧
    ((l.launch 1).next < (l.launch 1).count ∧ (l.launch 1).finished = false ∧ l.mayPlace (l.launch 1).part (l.launch 1).priority = true ∧ l.powerFits (l.launch 1).object = true ∧
      l.pickPlace (l.launch 1).object 0 [] = some [(0, 0), (1, 1)]) ∧
    ((p.inst 1).placed = true ∧ (p.inst 1).status = none ∧ (p.inst 1).evict = false ∧ (p.inst 1).heat = 0 ∧
      (∀ g ∈ (p.inst 1).groups, (p.group g).ending = true ∨ Freeze.preempt ∈ (p.group g).conds)) ∧
    ((p.setInst 1 { p.inst 1 with evict := true }).inst 1).evict = true ∧ ((p.setInst 1 { p.inst 1 with saving := true }).inst 1).saving = true ∧
    (let q := (p.setInst 1 { p.inst 1 with saving := true, stay := true, checkpoint := some (0, .card ⟨.front, 0, 3⟩ 9) }).inst 1
     q.saving = true ∧ q.stay = true ∧ q.evict = false ∧ q.heat = 0) ∧
    ((∀ x ∈ (p.inst 1).cols, ((p.settle 1).col (x.2 - 1)).backs = []) ∧ (p.settle 1).checkpointArea 1 = none ∧
      (p.settle 1).windowOk (p.inst 1).part 0 0 = true ∧ p.served p.wall ((p.settle 1).windowUnits (p.inst 1).part 0 0 true) = true) ∧
    (let r := p.setInst 1 { p.inst 1 with restored := some (.card ⟨.front, 0, 3⟩ 9) }
     let run := r.modGroup 1 (fun g => { g with phase := .run }); let rel := r.modGroup 1 (fun g => { g with phase := .releasing 5 true })
     r.insts.length = 1 ∧ (r.inst 1).placed = true ∧ (∀ g ∈ (r.inst 1).groups, (run.group g).phase = .run) ∧
     (r.inst 1).groups = [1] ∧ (rel.group 1).phase = .releasing 5 true) ∧
    (({ h with leases := [(1, { handing := true, cols := [1] })] } : State).lease 1).handing = true ∧
    (({ h with leases := [(1, { since := some 0, cols := [0] })] } : State).lease 1).since ≠ none := by decide +kernel

theorem witness_front_end_cards :
    let op (o : Nat) (i : Instr) : JobCard := { inst := 1, serial := 9, op := i, operand := BitVec.ofNat 64 o }
    let h := running (hosting []); let row := 8 * 2 ^ 44 + 8191
    let s (c : JobCard) := carded (h.modPart 0 (fun p => { p with regs := [(0x2008, 1)] })) .front c
    let put (s : State) (d : List Byte) : State := { s with mem := s.mem.writeBytes (rowAt 0 8 8191).addr d }
    let trig := op (63 * 2 ^ 48 + row) (.ftrig (card 0)); let post := op (31 * 2 ^ 48 + row) (.fpost (card 0))
    let lend := op row (.flend (card 0)); let recl := op row (.frecl (card 0)); let ck := op row (.fckpt (card 0))
    let lent := put ((s lend).modPart 1 (fun p => { p with live := true })) ([1, 1, 1, 0] ++ leBytes 4 64)
    let leased : State := { s recl with leases := [(0, { lender := 0, cols := [1] })] }
    (∀ c ∈ [trig, post, lend, recl, ck], completing (s c) c = true ∧ isQuiet (s c) = true ∧ ((s c).col (colOf c.core)).inst = some c.inst ∧ c.frontOk = true ∧
      ((s c).argRow 0 c.operand).isSome = true) ∧
    (op (64 * 2 ^ 48 + row) (.ftrig (card 0))).frontOk = false ∧ (s ck).argRow 0 (BitVec.ofNat 64 (9 * 2 ^ 44)) = none ∧
    (((s trig).graph 0 63).loaded = false ∧ (((s trig).modGraph 0 63 (fun _ => { loaded := true })).graph 0 63).loaded = true) ∧
    (((s post).part 0).events.length - (FMap.get 0 ((s post).part 0).regs 0x2000).toNat < (FMap.get 0 ((s post).part 0).regs 0x2008).toNat) ∧
    ((match lent.lend 0 1 1 true 64 with | .ok _ => true | .error _ => false) = true ∧ (lent.col 0).lentTo = none) ∧
    ((match leased.reclaimLease 0 0 0 .none with | .ok _ => true | .error _ => false) = true) ∧
    (({ s ck with parts := FMap.set {} (s ck).parts 0 { (s ck).part 0 with
        windowTable := [(0, BitVec.ofNat 128 (2 ^ 56 + 2 * 2 ^ 52))] } } : State).windowOk 0 0 ((s ck).checkpointLeast 1) = true ∧
      ((s ck).inst 1).checkpoint = none ∧ ((s ck).inst 1).restored = none) := by decide +kernel

theorem witness_power_and_heat :
    let h := running (hosting []); let s : State := { h with powerMode := 0, samples := List.replicate 99 220001, ev := { value := 220001 } }
    s.powerGoal = none ∧ s.samples.length = 99 ∧ modeCap 0 * 100 < ((220001 :: s.samples).take 100).foldl (· + ·) 0 ∧ s.victims (fun _ => true) = [1] ∧
    ((220000 :: List.replicate 99 220000).take 100).foldl (· + ·) 0 ≤ modeCap 0 * 100 ∧ FMap.wf {} h.parts = true ∧ (h.part 0).live = true ∧
    ((h.modPart 0 (fun p => { p with regs := [(0x2008, 1)] })).part 0).events.length < 1 ∧ (h.col 0).inst = some 1 ∧ (h.inst 1).saving = false ∧
    (h.col 12).inst = none ∧ ({ s with powerGoal := some (0, .none), powerMode := 1 } : State).powerGoal = some (0, .none) ∧
    (let t := h.setInst 1 { h.inst 1 with hotCols := [0, 12], held := true }; 0 ∈ (t.inst 1).hotCols ∧ (t.inst 1).hotCols.filter (· ≠ 0) = [12]) := by
  decide +kernel

theorem witness_host_turn : isQuiet (hosting []) = true ∧ (hosting []).ev.lines = [] ∧ (hosting []).ev.run = none ∧ (hosting []).ev.opt = none ∧ (hosting []).agenda = [] := by decide +kernel

theorem witness_host_accesses :
    let h := hosting []; let q := h.modPart 0 (fun p => { p with regs := [(0x208 + 16 * 15, 1)] })
    (h.part 0).live = true ∧ (q.part 0).hasQueue 15 = true ∧ (65535 / 8 * 8 ≠ 0x3008) ∧ (0x300F / 8 * 8 = 0x3008) ∧
    (unitsOf 65528 8 = [65528 / 128] ∧ (h.windowAddr 0 (65528 / 128 * 128)).isSome = true) ∧ h.windowOk 0 65536 1 = false ∧
    (h.readWindow 0 65535 1).isSome = true ∧ (unitsOf 65536 8 = [512] ∧ h.windowAddr 0 (512 * 128) = none) ∧
    ((h.part 7).live = false ∧ ∀ q ∈ h.parts, q.2.live = true → ∀ c ∈ q.2.cols, c ∉ (List.range 13).filter (bitOf 0x1FFC)) ∧
    (∀ q ∈ h.parts, q.2.live = true → ¬ ∀ c ∈ q.2.cols, c ∉ (List.range 13).filter (bitOf 1)) ∧ h.leases = [] ∧
    (∃ q ∈ ({ h with leases := [(1, { cols := [1] })] } : State).leases, q.2.cols ≠ [] ∧ q.2.lender = 0) ∧
    h.readWindow 0 65536 1 = none ∧ h.newImage = none ∧ (h.powered = true ∧ h.mgmtFrom ≤ h.wall) ∧
    ((11 : Nat) < 12 ∧ 11 ∉ h.hung ∧ FMap.get 0 h.beats 11 + 110000 ≤ ({ h with wall := 110000 } : State).wall ∧ h.hung.length < 11 ∧
      (List.range 11).length = 11) ∧ (h.fatal = false ∧ h.stage ≠ 2 ∧ ({ h with stage := 2 } : State).stage = 2) := by decide +kernel

theorem witness_granted_entries :
    let q := (hosting []).modPart 0 (fun p => { p with regs := [(0x208 + 16 * 15, 1)], hostRanges := [(0, 4096)] })
    (q.part 0).hasQueue 15 = true ∧ q.entriesGranted 0 15 1 = true := by decide +kernel

/-- The replacement of the firmware of core 11, begun or not. -/
theorem witness_firmware : let h := hosting []
    h.updating ≠ some 11 ∧ ({ h with updating := some 10 } : State).updating = some 10 ∧ (10 < 11 ∧ 11 ≤ 11) ∧
    (11 ∈ ({ h with hung := [11] } : State).hung ∧ h.roomBusy 11 = false ∧ 11 ∉ h.hung ∧ h.served 0 (h.windowUnits 0 65536 1) = true) := by
  decide +kernel

/-- Whether an image or a journal is good is a free value, so either is met. -/
theorem witness_images (img : List Byte) : (Config.goodImage img = true ∨ Config.goodImage img = false) ∧
    (Config.goodImage img = true ∧ Config.journalOk img = true ∨ ¬ (Config.goodImage img = true ∧ Config.journalOk img = true)) :=
  ⟨by cases Config.goodImage img <;> decide, Classical.em _⟩

theorem witness_resets : (ev { fn := 0 }).powered = true ∧ (ev {}).mgmtFrom ≤ (ev {}).wall ∧ ({ ev {} with powered := false } : State).powered = false ∧
    (((hosting []).modPart 7 (fun p => { p with live := true })).part 7).live = true ∧ ((hosting []).part 7).live = false := by decide

/-! Encoding and the step. -/

theorem witness_encoding :
    (∀ p ∈ [(Space.c, Instr.movi 63 0x1FFF), (.t, .ldq .mb 31 2047), (.m, .mepi 0x603), (.v, .vadd ⟨31, 31, 31, .i32, 0⟩),
        (.x, .drd 15 63 511 ⟨8, 4095⟩ true 255)], p.2.wf = true ∧ (encodeSlot p.1 ⟨false, true, 7, p.2⟩).isSome = true) ∧
    holdAllowed .v (.vadd ⟨31, 31, 31, .i32, 0⟩) = true ∧ takesLiteral .x 2 = true ∧ takesLiteral .c 0x2F = false ∧
    (decodeSlot .c 0x02F14002 0).toBool = true := by decide

/-- Whether words are a bundle of one slot below 6 that decodes to an instruction whose guard is true. -/
def oneSlot (c : Core) (ws : List Word32) (i : Instr) : Bool :=
  match splitBundle c.pc ws with
  | some b => (match b.slots with
    | [r] => decide (r.slot < 6) && (match r.decode with | .ok sl => sl.op == i && guardOf sl c | .error _ => false)
    | _ => false)
  | none => false

/-- The state after reset with a MOVI placed at core 0's fetch meets every hypothesis on the step. -/
theorem witness_step : let s := State.reset.withFetchWord 32 0x02F14002
    let g := 0; let k := 0
    let gr := s.group g; let c := s.core k; let n := gr.sched
    let ws := s.fetchWords k c.pc
    let s0 := s.setGroup g { gr with checked := true, debtAt := max gr.debtAt (n + 1) }
    let s1 := s0.setCore k { c with fetched := ws, issueAt := c.fetchAt + (if c.noIdle then 0 else (ws.headD 0).toNat % 2 ^ 20) }
    let p := noteResizes s1 n [k]
    let s2 := lookCore p p p k n none
    let d := s2.core k
    (s.powered = true ∧ s.fatal = false ∧ s.inputs = [] ∧ s.agenda = [] ∧ s.groupKeys[s.cursor]? = some g ∧ gr.phase = .run ∧ gr.agenda = [] ∧
      gr.checked = false ∧ gr.freezeAt = none ∧ gr.endAt = none ∧ gr.freezeAfter = false ∧ gr.conds = [] ∧ gr.later = [] ∧
      s.groupKeys.find? s.pulseDue = none ∧ (∀ j ∈ gr.coreList, (s.core j).shadow = false) ∧ gr.barrier = none ∧ gr.cols = [0]) ∧
    ((s.col 0).chans = [] ∧ s.runCores g = [k] ∧ s.liveCores g = [k] ∧ c.fetched = [] ∧ c.irqNow = false ∧
      c.fetchAt + (if c.noIdle then 0 else (ws.headD 0).toNat % 2 ^ 20) ≤ n) ∧
    oneSlot c ws (.movi 5 2) = true ∧
    firstBundleTrap s1 k n = none ∧ (s2.group g).phase = .run ∧
    (d.pc = c.pc ∧ d.fetched = ws ∧ d.hold = [] ∧ d.rep.active = false ∧ d.skipC = false) := by decide +kernel

theorem witness_canonical : (State.reset.withFetchWord 32 0x02F14002).Canonical ∧
    (match step (State.reset.withFetchWord 32 0x02F14002) with | .next _ => true | _ => false) = true := by
  unfold State.Canonical; decide +kernel

end Sys2Proof.Tests
end

section
/-! The divisions of the register forms (03 R98; 05 R136). -/

namespace Sys2Proof.Machine.Numbers

/-! ### Signed readings of w-bit patterns -/

theorem signedOf_toNat {w : Nat} (hw : 0 < w) (x : BitVec w) : signedOf w x.toNat = x.toInt := by
  rw [signedOf_toInt w _ hw, BitVec.ofNat_toNat, BitVec.setWidth_eq]

theorem wrapInt_toNat (w : Nat) (i : Int) : wrapInt w i = (BitVec.ofInt w i).toNat :=
  (BitVec.toNat_ofInt i).symm

theorem sextW_toNat {w : Nat} (hw : 0 < w) (v : BitVec w) : sextW w v.toNat = v.signExtend 64 := by
  rw [sextW_eq w _ hw, BitVec.ofNat_toNat, BitVec.setWidth_eq]

theorem zextW_toNat {w : Nat} (v : BitVec w) : zextW w v.toNat = v.setWidth 64 := by
  rw [zextW_eq, BitVec.ofNat_toNat, BitVec.setWidth_eq]

theorem toInt_eq_zero_iff {w : Nat} (x : BitVec w) : x.toInt = 0 ↔ x = 0 := by
  rw [← BitVec.toInt_inj]; simp

theorem signExtend_allOnes {w : Nat} (hw : 0 < w) : (BitVec.allOnes w).signExtend 64 = BitVec.allOnes 64 := by
  rw [BitVec.signExtend, BitVec.toInt_allOnes, if_pos hw]; rfl

/-- The one pair of operands whose signed quotient is out of range. -/
theorem toInt_intMin_and_neg_one_iff {w : Nat} (hw : 0 < w) (x y : BitVec w) :
    (x.toInt = -(2 ^ (w - 1) : Int) ∧ y.toInt = -1) ↔ (x = BitVec.intMin w ∧ y = BitVec.allOnes w) := by
  rw [← BitVec.toInt_inj (x := x), ← BitVec.toInt_inj (x := y), BitVec.toInt_intMin_of_pos hw,
    BitVec.toInt_allOnes, if_pos hw]

/-! ### Quotients and remainders with their flags -/

/-- The overflowing quotient wraps to the dividend itself. -/
theorem sdiv_intMin_allOnes (w : Nat) : (BitVec.intMin w).sdiv (BitVec.allOnes w) = BitVec.intMin w := by
  rw [← BitVec.neg_one_eq_allOnes]; exact BitVec.intMin_sdiv_neg_one

theorem srem_allOnes {w : Nat} (hw : 0 < w) (x : BitVec w) : x.srem (BitVec.allOnes w) = 0#w := by
  rw [← BitVec.toInt_inj, BitVec.toInt_zero, BitVec.toInt_srem, BitVec.toInt_allOnes, if_pos hw]
  exact Int.tmod_eq_zero_of_dvd (by simp)

theorem sdiv_eq_ofInt {w : Nat} (x y : BitVec w) : x.sdiv y = BitVec.ofInt w (x.toInt.tdiv y.toInt) := by
  rw [← BitVec.toInt_inj, BitVec.toInt_sdiv, BitVec.toInt_ofInt]

theorem srem_eq_ofInt {w : Nat} (x y : BitVec w) : x.srem y = BitVec.ofInt w (x.toInt.tmod y.toInt) := by
  rw [← BitVec.toInt_srem, BitVec.ofInt_toInt]

/-- DZ (16) for a zero divisor, OF (2) for the overflowing quotient, else no flag (03 R98). -/
def divFlag {w : Nat} (x y : BitVec w) : Nat :=
  if y = 0 then 16 else if x = BitVec.intMin w ∧ y = BitVec.allOnes w then 2 else 0

theorem divS_toNat {w : Nat} (hw : 0 < w) (x y : BitVec w) :
    divS w x.toNat y.toNat = ((if y = 0 then BitVec.allOnes w else x.sdiv y).toNat, divFlag x y) := by
  simp only [divS, divFlag, signedOf_toNat hw, toInt_eq_zero_iff, toInt_intMin_and_neg_one_iff hw]
  by_cases hy : y = 0
  · simp [hy, flagDZ]
  · by_cases ho : x = BitVec.intMin w ∧ y = BitVec.allOnes w
    · obtain ⟨rfl, rfl⟩ := ho
      simp only [hy, if_false, and_self, if_true, sdiv_intMin_allOnes, BitVec.toNat_intMin_of_pos hw, flagOF]
    · simp only [hy, ho, if_false, wrapInt_toNat, sdiv_eq_ofInt]

theorem remS_toNat {w : Nat} (hw : 0 < w) (x y : BitVec w) :
    remS w x.toNat y.toNat = ((if y = 0 then x else x.srem y).toNat, divFlag x y) := by
  simp only [remS, divFlag, signedOf_toNat hw, toInt_eq_zero_iff, toInt_intMin_and_neg_one_iff hw]
  by_cases hy : y = 0
  · simp [hy, flagDZ]
  · by_cases ho : x = BitVec.intMin w ∧ y = BitVec.allOnes w
    · obtain ⟨rfl, rfl⟩ := ho
      simp only [hy, if_false, and_self, if_true, srem_allOnes hw, BitVec.toNat_zero, flagOF]
    · simp only [hy, ho, if_false, wrapInt_toNat, srem_eq_ofInt]

theorem toNat_eq_zero_iff {w : Nat} (y : BitVec w) : y.toNat = 0 ↔ y = 0 := by
  rw [← BitVec.toNat_inj]; simp

theorem divU_toNat {w : Nat} (x y : BitVec w) :
    divU w x.toNat y.toNat = ((if y = 0 then BitVec.allOnes w else x / y).toNat, if y = 0 then 16 else 0) := by
  simp only [divU, BitVec.toNat_mod_cancel, toNat_eq_zero_iff]
  by_cases hy : y = 0
  · simp [hy, flagDZ]
  · simp only [hy, if_false, BitVec.toNat_udiv]

theorem remU_toNat {w : Nat} (x y : BitVec w) :
    remU w x.toNat y.toNat = ((if y = 0 then x else x % y).toNat, if y = 0 then 16 else 0) := by
  simp only [remU, BitVec.toNat_mod_cancel, toNat_eq_zero_iff]
  by_cases hy : y = 0
  · simp [hy, flagDZ]
  · simp only [hy, if_false, BitVec.toNat_umod]

/-! ### The register forms -/

/-- A register form completes with its sign-extended w-bit result and its flags. -/
theorem completes_of_scalarOp {i : Instr} {s : State} {d a b : SReg} {sz : Sz} {f : Nat → Nat → Nat → Nat × Nat}
    {v : BitVec sz.bits} {n : Nat} (hi : exec i s = scalarOp f ⟨d, a, b, sz⟩ s)
    (hf : f sz.bits (s.low a sz).toNat (s.low b sz).toNat = (v.toNat, n)) :
    Completes i s (fun t => ∃ u, s.GivesS d (v.signExtend 64) u ∧ t = u.flagsAfter 1 n) := by
  refine ⟨_, ?_, _, s.ws_gives d _, rfl⟩
  simp only [hi, scalarOp, lowBits_eq, hf, sextW_toNat (Sz.bits_pos sz)]

/-- The same with a zero-extended result. -/
theorem completes_of_scalarOpZ {i : Instr} {s : State} {d a b : SReg} {sz : Sz} {f : Nat → Nat → Nat → Nat × Nat}
    {v : BitVec sz.bits} {n : Nat} (hi : exec i s = scalarOpZ f ⟨d, a, b, sz⟩ s)
    (hf : f sz.bits (s.low a sz).toNat (s.low b sz).toNat = (v.toNat, n)) :
    Completes i s (fun t => ∃ u, s.GivesS d (v.setWidth 64) u ∧ t = u.flagsAfter 1 n) := by
  refine ⟨_, ?_, _, s.ws_gives d _, rfl⟩
  simp only [hi, scalarOpZ, lowBits_eq, hf, zextW_toNat]

/-- Settles O2: each division's quotient or remainder and flags as w-bit patterns (`divS_toNat` to `remU_toNat`), widened by the
register form it is. -/
theorem divisionsGiveQuotientAndRemainder : Obligations.DivisionsGiveQuotientAndRemainder := by
  intro s d a b sz w x y flag flagN D
  have hw : 0 < w := Sz.bits_pos sz
  refine ⟨?_, ?_, ?_, ?_⟩
  · rw [← signExtend_allOnes hw, ← apply_ite (BitVec.signExtend 64)]
    exact completes_of_scalarOp rfl (divS_toNat hw x y)
  · rw [← apply_ite (BitVec.signExtend 64)]
    exact completes_of_scalarOp rfl (remS_toNat hw x y)
  · rw [← apply_ite (BitVec.setWidth 64)]
    exact completes_of_scalarOpZ rfl (divU_toNat x y)
  · rw [← apply_ite (BitVec.setWidth 64)]
    exact completes_of_scalarOpZ rfl (remU_toNat x y)

end Sys2Proof.Machine.Numbers
end

section
/-! The write-back of a pass into its accumulator slot (03 R88; 07 R211). -/

namespace Sys2Proof.Machine.Numbers

/-! ### Lists written into a sparse map -/

/-- Keys outside the written list read as before. -/
theorem get_splice_out {α : Type} [DecidableEq α] (d : α) (m : FMap α) (a i : Nat) (l : List α) (h : i < a ∨ a + l.length ≤ i) :
    FMap.get d (FMap.splice d m a l) i = FMap.get d m i := by
  induction l generalizing m a with
  | nil => rfl
  | cons v r ih =>
    simp only [List.length_cons] at h
    rw [FMap.splice, ih _ _ (by omega), FMap.get_set_ne _ _ _ (by omega)]

/-- Keys of the written list read as written. -/
theorem get_splice_in {α : Type} [DecidableEq α] (d : α) (m : FMap α) (a k : Nat) (l : List α) (h : k < l.length) :
    FMap.get d (FMap.splice d m a l) (a + k) = l[k] := by
  induction l generalizing m a k with
  | nil => simp at h
  | cons v r ih =>
    rw [FMap.splice]
    cases k with
    | zero => rw [get_splice_out _ _ _ _ _ (by omega)]; exact FMap.get_set_same _ _ _ _
    | succ j =>
      have ha : a + (j + 1) = a + 1 + j := by omega
      exact ha ▸ ih (m.set d a v) (a + 1) j (by simpa using h)

/-- The length of rows of one length laid end to end. -/
theorem length_flatMap_rows {α β : Type} (f : α → List β) (w : Nat) (l : List α) (hf : ∀ x ∈ l, (f x).length = w) :
    (l.flatMap f).length = w * l.length := by
  induction l with
  | nil => rfl
  | cons x r ih =>
    rw [List.flatMap_cons, List.length_append, hf x List.mem_cons_self, ih (fun y hy => hf y (List.mem_cons_of_mem x hy)),
      List.length_cons, Nat.mul_succ, Nat.add_comm]

/-- Rows of one length, laid end to end: entry (i, j) stands at `w * i + j`. -/
theorem getElem?_flatMap_rows {α β : Type} (f : α → List β) (w : Nat) (l : List α) (hf : ∀ x ∈ l, (f x).length = w)
    (i j : Nat) (hj : j < w) : (l.flatMap f)[w * i + j]? = l[i]?.bind (fun x => (f x)[j]?) := by
  induction l generalizing i with
  | nil => simp
  | cons x r ih =>
    have hx : (f x).length = w := hf x (by simp)
    rw [List.flatMap_cons]
    cases i with
    | zero => rw [List.getElem?_append_left (by omega)]; simp
    | succ i =>
      rw [List.getElem?_append_right (by rw [hx, Nat.mul_succ]; omega), hx,
        show w * (i + 1) + j - w = w * i + j by rw [Nat.mul_succ]; omega,
        ih (fun y hy => hf y (List.mem_cons_of_mem x hy))]
      simp

/-! ### Words of an accumulator slot -/

/-- Words outside those written, of the same slot, are as before. -/
theorem accAt_setAcc_out (c : Core) (slot first i : Nat) (vals : List Word) (h : i < first ∨ first + vals.length ≤ i) :
    (c.setAcc slot first vals).accAt slot i = c.accAt slot i := by
  simp only [Core.accAt, Core.setAcc, FMap.get_set_same]
  rw [get_splice_out _ _ _ _ _ (by simpa using h)]

/-- The words written read as written. -/
theorem accAt_setAcc_in (c : Core) (slot first k : Nat) (vals : List Word) (h : k < vals.length) :
    (c.setAcc slot first vals).accAt slot (first + k) = vals[k] := by
  simp only [Core.accAt, Core.setAcc, FMap.get_set_same]
  rw [get_splice_in _ _ _ _ _ (by simpa using h), List.getElem_map]

theorem acc_setAcc_ne (c : Core) {slot b : Nat} (first : Nat) (vals : List Word) (h : b ≠ slot) :
    FMap.get [] (c.setAcc slot first vals).acc b = FMap.get [] c.acc b :=
  FMap.get_set_ne _ _ _ h

@[simp] theorem owned_setAcc (c : Core) (slot first : Nat) (vals : List Word) : (c.setAcc slot first vals).owned = c.owned := rfl
@[simp] theorem s_setAcc (c : Core) (slot first : Nat) (vals : List Word) : (c.setAcc slot first vals).s = c.s := rfl
@[simp] theorem v_setAcc (c : Core) (slot first : Nat) (vals : List Word) : (c.setAcc slot first vals).v = c.v := rfl

/-! ### One chunk -/

/-- With an exponent difference of zero a chunk adds the sum of products itself, held to 64 bits. -/
theorem accumulate_zero (a p : Int) : accumulate a p 0 =
    if 2 ^ 63 - 1 < a + p then (2 ^ 63 - 1, true, false)
    else if a + p < -(2 ^ 63) then (-(2 ^ 63), true, false) else (a + p, false, false) := by
  by_cases hp : p = 0
  · simp [accumulate, hp]
  · simp [accumulate, hp, pow2]

/-! ### The write-back -/

section
variable (c : Core) (slot q : Nat) (clr : Bool) (ta tb : Tile) (pa pb : Nat) (sa sb : Bool)

/-- The new value of accumulator (m, n), and whether it saturated and was inexact. -/
def chunkAt (m n : Nat) : Int × Bool × Bool :=
  accumulate (if clr then 0 else (c.accWord slot m n).toInt) (dot (ta.line pa sa m) (tb.line pb sb n))
    (ta.exp pa m + tb.exp pb n - FMap.get 0 c.accE slot)

/-- The 1,024 results of a write-back, row by row. -/
def quarter : List (Int × Bool × Bool) :=
  (List.range' (16 * q) 16).flatMap (fun m =>
    ((List.range 64).map (fun n => (tb.line pb sb n, tb.exp pb n))).zipIdx.map (fun b =>
      accumulate (if clr then 0 else (c.accWord slot m b.2).toInt) (dot (ta.line pa sa m) b.1.1)
        (ta.exp pa m + b.1.2 - FMap.get 0 c.accE slot)))

theorem length_quarter : (quarter c slot q clr ta tb pa pb sa sb).length = 1024 := by
  rw [quarter, length_flatMap_rows _ 64 _ (by simp), List.length_range']

theorem getElem?_quarter (m n : Nat) (hm : m / 16 = q) (hn : n < 64) :
    (quarter c slot q clr ta tb pa pb sa sb)[64 * (m - 16 * q) + n]? = some (chunkAt c slot clr ta tb pa pb sa sb m n) := by
  rw [quarter, getElem?_flatMap_rows _ 64 _ (by simp) _ _ hn, List.getElem?_range' (by omega)]
  simp [hn, show 16 * q + (m - 16 * q) = m by omega, chunkAt]

/-- The core at the start of a write-back: a pass that clears its slot clears the slot's sticky bits (03 R100). -/
def unstick : Core :=
  if clr then { c with accSat := FMap.set false c.accSat slot false, accNx := FMap.set false c.accNx slot false } else c

/-- The core with the quarter's words written, before its sticky bits. -/
def quarterWritten : Core :=
  (unstick c slot clr).setAcc slot (16 * q * 64) ((quarter c slot q clr ta tb pa pb sa sb).map (fun r => BitVec.ofInt 64 r.1))

/-- A write-back writes the quarter's words, then ORs what they raised into the slot's sticky bits. -/
theorem writeBack_eq :
    let f := quarterWritten c slot q clr ta tb pa pb sa sb
    let res := quarter c slot q clr ta tb pa pb sa sb
    c.writeBack slot q clr ta tb pa pb sa sb =
      { f with accSat := FMap.set false f.accSat slot (FMap.get false f.accSat slot || res.any (·.2.1)),
               accNx := FMap.set false f.accNx slot (FMap.get false f.accNx slot || res.any (·.2.2)) } := by
  cases clr <;> rfl

/-- Sticky bits are no part of an accumulator. -/
theorem accAt_sticky (x y : FMap Bool) (i : Nat) : ({ c with accSat := x, accNx := y } : Core).accAt slot i = c.accAt slot i := rfl

theorem accAt_unstick (i : Nat) : (unstick c slot clr).accAt slot i = c.accAt slot i := by
  cases clr <;> rfl

theorem unstick_frame : (unstick c slot clr).acc = c.acc ∧ (unstick c slot clr).owned = c.owned ∧
    (unstick c slot clr).s = c.s ∧ (unstick c slot clr).v = c.v := by
  cases clr <;> exact ⟨rfl, rfl, rfl, rfl⟩

variable {c slot q clr ta tb pa pb sa sb} {m n : Nat}

/-- A word of the written quarter takes the value of its chunk. -/
theorem accWord_writeBack_in (hm : m / 16 = q) (hn : n < 64) :
    (c.writeBack slot q clr ta tb pa pb sa sb).accWord slot m n =
      BitVec.ofInt 64 (chunkAt c slot clr ta tb pa pb sa sb m n).1 := by
  obtain ⟨hk, hv⟩ := List.getElem?_eq_some_iff.mp (getElem?_quarter c slot q clr ta tb pa pb sa sb m n hm hn)
  have hi : m * 64 + n = 16 * q * 64 + (64 * (m - 16 * q) + n) := by omega
  calc (c.writeBack slot q clr ta tb pa pb sa sb).accWord slot m n
      = (quarterWritten c slot q clr ta tb pa pb sa sb).accAt slot (m * 64 + n) := by
        rw [writeBack_eq]; exact accAt_sticky _ _ _ _ _
    _ = BitVec.ofInt 64 (chunkAt c slot clr ta tb pa pb sa sb m n).1 := by
        rw [hi, quarterWritten, accAt_setAcc_in _ _ _ _ _ (by simpa using hk), List.getElem_map, hv]

/-- A word of another quarter keeps its value. -/
theorem accWord_writeBack_out (hm : m / 16 ≠ q) (hn : n < 64) :
    (c.writeBack slot q clr ta tb pa pb sa sb).accWord slot m n = c.accWord slot m n := by
  calc (c.writeBack slot q clr ta tb pa pb sa sb).accWord slot m n
      = (quarterWritten c slot q clr ta tb pa pb sa sb).accAt slot (m * 64 + n) := by
        rw [writeBack_eq]; exact accAt_sticky _ _ _ _ _
    _ = (unstick c slot clr).accAt slot (m * 64 + n) :=
        accAt_setAcc_out _ _ _ _ _ (by rw [List.length_map, length_quarter]; omega)
    _ = c.accWord slot m n := accAt_unstick c slot clr _

/-- A chunk that saturates sets its slot's SAT. -/
theorem accSat_writeBack (hm : m / 16 = q) (hn : n < 64)
    (hs : (chunkAt c slot clr ta tb pa pb sa sb m n).2.1 = true) :
    FMap.get false (c.writeBack slot q clr ta tb pa pb sa sb).accSat slot = true := by
  have hmem := List.mem_of_getElem? (getElem?_quarter c slot q clr ta tb pa pb sa sb m n hm hn)
  have hany : (quarter c slot q clr ta tb pa pb sa sb).any (·.2.1) = true := List.any_eq_true.mpr ⟨_, hmem, hs⟩
  simp only [writeBack_eq, FMap.get_set_same, hany, Bool.or_true]

/-- What a write-back leaves alone: the other slots, the ownership of slots, scalar and vector registers. -/
theorem writeBack_frame :
    let d := c.writeBack slot q clr ta tb pa pb sa sb
    (∀ b, b ≠ slot → FMap.get [] d.acc b = FMap.get [] c.acc b) ∧ d.owned = c.owned ∧ d.s = c.s ∧ d.v = c.v := by
  obtain ⟨hacc, howned, hs, hv⟩ := unstick_frame c slot clr
  simp only [writeBack_eq, quarterWritten, owned_setAcc, s_setAcc, v_setAcc]
  exact ⟨fun b hb => by rw [acc_setAcc_ne _ _ _ hb, hacc], howned, hs, hv⟩

end

/-- Settles O31: the quarter's words are its chunks (`accWord_writeBack_in`), a chunk at exponent difference zero is the clamped
sum (`accumulate_zero`), and the frame lemmas give the rest. -/
theorem writeBackAccumulatesProducts : Obligations.WriteBackAccumulatesProducts := by
  intro c slot q clr ta tb pa pb sa sb m n _ hm hn hE hexp d old sum
  have hchunk : chunkAt c slot clr ta tb pa pb sa sb m n =
      if 2 ^ 63 - 1 < sum then (2 ^ 63 - 1, true, false)
      else if sum < -(2 ^ 63) then (-(2 ^ 63), true, false) else (sum, false, false) := by
    rw [chunkAt, (hexp m hm).1, (hexp n hn).2, hE]
    exact accumulate_zero _ _
  refine ⟨fun hq hl hu => ?_, fun hq hu => ?_, fun hq => ?_, writeBack_frame⟩
  · rw [accWord_writeBack_in hq hn, hchunk, if_neg (by omega), if_neg (by omega)]
    exact BitVec.toInt_ofInt_eq_self (by decide) hl hu
  · rw [if_pos (by omega)] at hchunk
    refine ⟨?_, accSat_writeBack hq hn (by rw [hchunk])⟩
    rw [accWord_writeBack_in hq hn, hchunk]
    exact BitVec.toInt_ofInt_eq_self (by decide) (by decide) (by decide)
  · exact accWord_writeBack_out hq hn

end Sys2Proof.Machine.Numbers
end
